-- ==== Sys2Proof/Word.lean ====
section
/-! DEFINITION. The word types of the device and their plainest arithmetic (00 R11, 02 R68). -/

namespace Sys2Proof

/-- A 64-bit word: a G register, a control register, a bit pattern in an F register (R55). -/
abbrev Word := BitVec 64

/-- A byte of memory. -/
abbrev Byte := BitVec 8

/-- A 6-bit register specifier of an instruction word (R57, R77). -/
abbrev Reg := BitVec 6

end Sys2Proof
end

