-- ==== Sys2Proof/Syntax.lean ====
section
/-! DEFINITION. The commands of the block: one constructor of Instr per row of the operation table, with the
row's operands. A core instruction names its logical core, its stop bit (R82) and the fields of its
encoding (R77); an array instruction names its sequencer and the fields of R450 or R456; an event carries
what the outside world brings to it. -/

namespace Sys2Proof

/-- Where a core instruction issues: the logical core, and the stop bit [31] of its word (R77, R82). -/
structure At where
  lc : Nat
  stop : Bool
deriving DecidableEq, Repr

/-- The fields of the register format that the opcode does not fix: [23:18], [17:12], [11:6] (R77). -/
structure RF where
  d : Reg
  a : Reg
  b : Reg
deriving DecidableEq, Repr

/-- The fields of the immediate format (R77). -/
structure IF where
  d : Reg
  a : Reg
  imm : BitVec 12
deriving DecidableEq, Repr

/-- The immediate format of SHLI, SHRI and SARI: imm12[11:8] is unused, imm12[5:0] is the count (R117, R120). -/
structure ShF where
  d : Reg
  a : Reg
  hi : BitVec 4
  sh : BitVec 6
deriving DecidableEq, Repr

/-- The fields of the branch format: the condition bit register and disp18 (R77, R80). -/
structure BF where
  c : Reg
  disp : BitVec 18
deriving DecidableEq, Repr

/-- The condition of CMPI, which its major opcode selects (R117, R118). -/
inductive Cc where
  | eq | ne | lt | ge | ltu | geu
deriving DecidableEq, Repr

/-- The kind of an access, as R241 codes it: read, write, read-modify-write, fetch. -/
inductive AccKind where
  | read | write | rmw | fetch
deriving DecidableEq, Repr

/-- What one half's synchroniser sampled: the core clock and, for RDTIME, the value (R262, R265). -/
structure Sample where
  clk : Nat
  val : Word
deriving DecidableEq, Repr

/-- How many records or plane words the Mould of a chiplet has moved of its share of a transfer (08 R419 to R421). -/
structure MouldShare where
  chip : Nat
  moved : Nat
deriving DecidableEq, Repr

/-- The asynchronous inputs of R262. -/
inductive InKind where
  | intr (v : Nat)
  | wake
  | rdtime
  | halt
deriving DecidableEq, Repr

/-- The fields of a CELL instruction (R450); z is bit [0], which must be 0. -/
structure CellOp where
  slot : BitVec 4
  i0 : BitVec 5
  i1 : BitVec 5
  i2 : BitVec 5
  rd : BitVec 3
  cd : Bool
  gang : Bool
  pr : BitVec 10
  pw : BitVec 10
  rix : BitVec 4
  wix : BitVec 4
  gle : Bool
  gln : BitVec 3
  ors : BitVec 3
  z : Bool
deriving DecidableEq, Repr

/-- The fields of an array instruction of CLASS 1 to 6 besides CLASS and OP (R456); z is [41:32]. -/
structure SqOp where
  d : BitVec 4
  a : BitVec 4
  b : BitVec 4
  z : BitVec 10
  imm : BitVec 32
deriving DecidableEq, Repr

/-- The faults of R442 and R447. -/
inductive ArrFault where
  | singleBit | doubleBit | mouldDouble | compare | seqMemory | seqCorrected
deriving DecidableEq, Repr

/-- What a target's response says of an operation (R504, R520). -/
inductive RespKind where
  | success | error | pathError | anaInaccessible
deriving DecidableEq, Repr

/-- The ANA states a target reports (R502). -/
inductive Ana where
  | optimized | nonOptimized | inaccessible
deriving DecidableEq, Repr

/-- How a sweep step of R659 ends: nothing found, a column failed, or the save was abandoned (R661, R662). -/
inductive SweepResult where
  | clean | badColumn (col : Nat) | abandoned
deriving DecidableEq, Repr

/-- The payload of a fault report (R667), with the fields that the capture record keeps (R687). -/
structure Payload where
  cls : BitVec 3
  addr : BitVec 52
  avalid : Bool
  aspace : BitVec 3
  atype : BitVec 8
  unit : BitVec 8
  msub : BitVec 8
  ins : BitVec 13
  synd : BitVec 128
deriving DecidableEq, Repr

/-- A twin-link flit: the header fields of R738 and the payload bytes used. -/
structure Flit where
  typ : BitVec 4
  vc : BitVec 2
  seq : BitVec 12
  ackseq : BitVec 12
  ackv : Bool
  crvc : BitVec 2
  crcnt : BitVec 8
  payload : List Byte
deriving DecidableEq, Repr

/-- The commands, in the order of the operation table. -/
inductive Instr where
  /-- PPS_IN_EDGE (R36): A rising edge on PPS_IN is time-stamped and measured as a phase measurement against DTIME, less the board delay of R30. -/
  | ppsInEdge (off : Int) (due : Bool)
  /-- PTP_SYNC (R36): A PTP Sync message taken on the PTP port is hardware time-stamped and measured as a phase measurement. -/
  | ptpSync (off : Int) (due : Bool) (gm : BitVec 64) (now : BitVec 64)
  /-- SET_TIME_NOREF (R29): No qualified PPS_IN edge arrives within 8 s of SET_TIME, which completes with TIME_NOREF and changes nothing. -/
  | setTimeNoref
  /-- PPS_IN_LOSS (R44): PPS_IN gives no edge within 1 ms of its expected time for 2 seconds and is lost. -/
  | ppsInLoss
  /-- PTP_LOSS (R44): Three announced Sync intervals pass with no Sync, or the grandmaster identity changes, and PTP is lost. -/
  | ptpLoss
  /-- TREF_LOSS (R44): TREF stays more than 50 ppm from nominal for 1 ms and is lost. -/
  | trefLoss
  /-- HOLDOVER_24H (R48): After 24 hours in holdover, QUAL changes to 0b10 and a DE record is made. -/
  | holdover24h
  /-- ADD (R117): Integer add modulo 2^64 into Gd. -/
  | add (x : At) (r : RF)
  /-- SUB (R117): Integer subtract modulo 2^64 into Gd. -/
  | sub (x : At) (r : RF)
  /-- AND (R117): Bitwise AND into Gd. -/
  | andR (x : At) (r : RF)
  /-- OR (R117): Bitwise OR into Gd. -/
  | orR (x : At) (r : RF)
  /-- XOR (R117): Bitwise exclusive OR into Gd. -/
  | xorR (x : At) (r : RF)
  /-- ANDN (R117): AND of Ga with NOT Gb into Gd. -/
  | andn (x : At) (r : RF)
  /-- SHL (R117): Shift left by Gb[5:0]. -/
  | shl (x : At) (r : RF)
  /-- SHR (R117): Logical shift right by Gb[5:0]. -/
  | shr (x : At) (r : RF)
  /-- SAR (R117): Arithmetic shift right by Gb[5:0]. -/
  | sar (x : At) (r : RF)
  /-- MIN (R117): Signed minimum into Gd. -/
  | minS (x : At) (r : RF)
  /-- MAX (R117): Signed maximum into Gd. -/
  | maxS (x : At) (r : RF)
  /-- MINU (R117): Unsigned minimum into Gd. -/
  | minu (x : At) (r : RF)
  /-- MAXU (R117): Unsigned maximum into Gd. -/
  | maxu (x : At) (r : RF)
  /-- CLZ (R117): Count of leading zeros of Ga into Gd. -/
  | clz (x : At) (r : RF)
  /-- POPC (R117): Count of ones in Ga into Gd. -/
  | popc (x : At) (r : RF)
  /-- ADDI (R117): Ga plus the sign-extended imm12 into Gd. -/
  | addi (x : At) (f : IF)
  /-- ANDI (R117): Ga AND the sign-extended imm12 into Gd. -/
  | andi (x : At) (f : IF)
  /-- ORI (R117): Ga OR the sign-extended imm12 into Gd. -/
  | ori (x : At) (f : IF)
  /-- XORI (R117): Ga XOR the sign-extended imm12 into Gd. -/
  | xori (x : At) (f : IF)
  /-- SHLI (R120): Shift left by an immediate count. -/
  | shli (x : At) (f : ShF)
  /-- SHRI (R120): Logical shift right by an immediate count. -/
  | shri (x : At) (f : ShF)
  /-- SARI (R120): Arithmetic shift right by an immediate count. -/
  | sari (x : At) (f : ShF)
  /-- LIM (R79): Loads imm18 into Gd[29:12], sign-extended, with Gd[11:0] set to 0. -/
  | lim (x : At) (d : Reg) (imm : BitVec 18)
  /-- CMP (R118): Compares two G registers under condition cc into a bit register. -/
  | cmp (x : At) (r : RF) (cc : BitVec 6)
  /-- CMPI (R119): Compares Ga with the sign-extended imm12 under condition cc into a bit register. -/
  | cmpi (x : At) (f : IF) (cc : Cc)
  /-- SEL (R117): Selects Ga or Gb into Gd according to a bit register. -/
  | sel (x : At) (r : RF) (c : Reg)
  /-- NOP (R117): Has no effect. -/
  | nop (x : At) (r : RF)
  /-- BAND (R121): Bit-register AND. -/
  | band (x : At) (r : RF)
  /-- BOR (R121): Bit-register OR. -/
  | bor (x : At) (r : RF)
  /-- BXOR (R121): Bit-register exclusive OR. -/
  | bxor (x : At) (r : RF)
  /-- BANDN (R121): Bit-register AND with NOT. -/
  | bandn (x : At) (r : RF)
  /-- BNOT (R121): Bit-register NOT. -/
  | bnot (x : At) (r : RF)
  /-- BEXTR (R121): Extracts the bit of Ga selected by Gb into a bit register. -/
  | bextr (x : At) (r : RF)
  /-- BTOG (R121): Zero-extends a bit register into a G register. -/
  | btog (x : At) (r : RF)
  /-- BEXT (R121): Extracts the bit of Ga at an immediate index into a bit register. -/
  | bext (x : At) (f : IF)
  /-- MUL (R122): Low 64 bits of a product. -/
  | mul (x : At) (r : RF)
  /-- MULH (R122): High 64 bits of a signed product. -/
  | mulh (x : At) (r : RF)
  /-- MULHU (R122): High 64 bits of an unsigned product. -/
  | mulhu (x : At) (r : RF)
  /-- DINIT_D (R182): Initialises a signed 64-bit division step state. -/
  | dinitD (x : At) (r : RF)
  /-- DINIT_DU (R182): Initialises an unsigned 64-bit division step state. -/
  | dinitDu (x : At) (r : RF)
  /-- DINIT_W (R182): Initialises a signed 32-bit division step state. -/
  | dinitW (x : At) (r : RF)
  /-- DINIT_WU (R182): Initialises an unsigned 32-bit division step state. -/
  | dinitWu (x : At) (r : RF)
  /-- DSTEP (R184): Retires one quotient bit of the division step state. -/
  | dstep (x : At) (r : RF)
  /-- DSTEP_F (R185): Retires up to 4 quotient bits of the division step state. -/
  | dstepF (x : At) (r : RF)
  /-- DFIN (R186): Writes the quotient and remainder from the division step state. -/
  | dfin (x : At) (r : RF)
  /-- LD_B (R125): Loads a sign-extended byte. -/
  | ldB (x : At) (f : IF)
  /-- LD_H (R125): Loads a sign-extended halfword. -/
  | ldH (x : At) (f : IF)
  /-- LD_W (R125): Loads a sign-extended word. -/
  | ldW (x : At) (f : IF)
  /-- LD_D (R125): Loads a doubleword. -/
  | ldD (x : At) (f : IF)
  /-- LD_BU (R125): Loads a zero-extended byte. -/
  | ldBu (x : At) (f : IF)
  /-- LD_HU (R125): Loads a zero-extended halfword. -/
  | ldHu (x : At) (f : IF)
  /-- LD_WU (R125): Loads a zero-extended word. -/
  | ldWu (x : At) (f : IF)
  /-- ST_B (R125): Stores a byte through the store buffer. -/
  | stB (x : At) (f : IF)
  /-- ST_H (R125): Stores a halfword through the store buffer. -/
  | stH (x : At) (f : IF)
  /-- ST_W (R125): Stores a word through the store buffer. -/
  | stW (x : At) (f : IF)
  /-- ST_D (R125): Stores a doubleword through the store buffer. -/
  | stD (x : At) (f : IF)
  /-- LDF_S (R125): Loads binary32 into an F register. -/
  | ldfS (x : At) (f : IF)
  /-- LDF_D (R125): Loads binary64 into an F register. -/
  | ldfD (x : At) (f : IF)
  /-- STF_S (R125): Stores binary32 from an F register. -/
  | stfS (x : At) (f : IF)
  /-- STF_D (R125): Stores binary64 from an F register. -/
  | stfD (x : At) (f : IF)
  /-- CAS (R130): Atomic compare and swap of 1 to 8 bytes. -/
  | cas (x : At) (r : RF) (sz : BitVec 3)
  /-- SWAP (R130): Atomic swap. -/
  | swap (x : At) (r : RF) (sz : BitVec 3)
  /-- FADD (R130): Atomic fetch and add. -/
  | faddA (x : At) (r : RF) (sz : BitVec 3)
  /-- FOR (R130): Atomic fetch and OR. -/
  | forA (x : At) (r : RF) (sz : BitVec 3)
  /-- FAND (R130): Atomic fetch and AND. -/
  | fandA (x : At) (r : RF) (sz : BitVec 3)
  /-- CAS2 (R130): 128-bit atomic compare and swap. -/
  | cas2 (x : At) (r : RF) (sz : BitVec 3)
  /-- BLD (R136): Loads a bit from bit space into a bit register. -/
  | bld (x : At) (f : IF)
  /-- BST (R136): Stores a bit register to bit space through the bit's access code. -/
  | bst (x : At) (f : IF)
  /-- BSET (R139): Writes 1 to a bit of bit space through its access code. -/
  | bset (x : At) (f : IF)
  /-- BCLR (R139): Writes 0 to a bit of bit space through its access code. -/
  | bclr (x : At) (f : IF)
  /-- BFLIP (R138): Atomically inverts a bit of bit space. -/
  | bflip (x : At) (f : IF)
  /-- BTAS (R136): Atomic test and set of a bit. -/
  | btas (x : At) (r : RF)
  /-- BXCH (R136): Atomic exchange of a bit with a bit register. -/
  | bxch (x : At) (r : RF)
  /-- SMM (R140): Stores the masked G registers to consecutive words, skipping those MPROG records. -/
  | smm (x : At) (r : RF)
  /-- LMM (R140): Loads the masked G registers from consecutive words, skipping those MPROG records. -/
  | lmm (x : At) (r : RF)
  /-- MVB (R147): Moves 8 bytes and advances both addresses. -/
  | mvb (x : At) (r : RF)
  /-- MVL (R147): Moves a 128-byte line and advances both addresses. -/
  | mvl (x : At) (r : RF)
  /-- FILL (R147): Fills 8 bytes and advances the address. -/
  | fill (x : At) (r : RF)
  /-- FILLL (R147): Fills a 128-byte line and advances the address. -/
  | filll (x : At) (r : RF)
  /-- PREF_L1 (R154): Prefetches a line into L1 without trapping. -/
  | prefL1 (x : At) (a : Reg) (imm : BitVec 12)
  /-- PREF_L1W (R154): Prefetches a line into L1 with intent to write. -/
  | prefL1w (x : At) (a : Reg) (imm : BitVec 12)
  /-- PREF_L2 (R154): Prefetches a line into L2. -/
  | prefL2 (x : At) (a : Reg) (imm : BitVec 12)
  /-- PREF_L3 (R154): Prefetches a line into L3. -/
  | prefL3 (x : At) (a : Reg) (imm : BitVec 12)
  /-- CLEAN (R355): Writes back a dirty line by address and leaves it valid. -/
  | clean (x : At) (a : Reg) (imm : BitVec 12)
  /-- INVAL (R355): Invalidates every copy of a line by address, discarding dirty data. -/
  | inval (x : At) (a : Reg) (imm : BitVec 12)
  /-- CLINV (R355): Writes back a line by address and then invalidates every copy. -/
  | clinv (x : At) (a : Reg) (imm : BitVec 12)
  /-- CLEAN_SW (R358): Cleans one set and way of one cache. -/
  | cleanSw (x : At) (r : RF)
  /-- INVAL_SW (R358): Invalidates one set and way of one cache. -/
  | invalSw (x : At) (r : RF)
  /-- CLINV_SW (R358): Cleans and invalidates one set and way of one cache. -/
  | clinvSw (x : At) (r : RF)
  /-- BR (R100): Branches on a bit register after the delay group. -/
  | br (x : At) (f : BF)
  /-- CALL (R101): Branches on a bit register and writes LK with the address after the delay group. -/
  | call (x : At) (f : BF) (n : Nat)
  /-- CALLR (R101): Calls the address held in a register. -/
  | callr (x : At) (r : RF) (n : Nat)
  /-- JMPR (R158): Jumps to the address held in a register. -/
  | jmpr (x : At) (r : RF)
  /-- JMPR_LK (R158): Jumps to LK. -/
  | jmprLk (x : At) (r : RF)
  /-- SVC (R233): Enters the next level with a service number and copies G3-G10. -/
  | svc (x : At) (f : IF)
  /-- RFE (R235): Returns to the return bank, reloading a saved frame and landing the pending results. -/
  | rfe (x : At) (r : RF)
  /-- RFE_C (R236): Returns as RFE and copies G3-G4 into the return bank. -/
  | rfeC (x : At) (r : RF)
  /-- FENCE (R321): Serialising barrier for normal memory and bit space. -/
  | fence (x : At) (r : RF)
  /-- FENCE_S (R322): Barrier that also makes stores visible to every agent. -/
  | fenceS (x : At) (r : RF)
  /-- FENCE_D (R323): Barrier that waits for every earlier DEV access to complete. -/
  | fenceD (x : At) (r : RF)
  /-- SAVEBANK (R228): Writes the return bank into its frame and sets CFRAME.SAVED. -/
  | savebank (x : At) (r : RF)
  /-- WAIT (R163): Stops issue until an interrupt is pending. -/
  | wait (x : At) (r : RF)
  /-- RDTIME (R265): Reads DTIME, with the agreement freeze on a checked pair. -/
  | rdtime (x : At) (r : RF)
  /-- MFLK (R162): Moves LK to a G register. -/
  | mflk (x : At) (r : RF)
  /-- MTLK (R164): Moves a G register to LK. -/
  | mtlk (x : At) (r : RF)
  /-- TLBI_V (R371): Invalidates the guest-stage entries of one virtual address device-wide. -/
  | tlbiV (x : At) (r : RF)
  /-- TLBI_I (R371): Invalidates every entry of one instance device-wide. -/
  | tlbiI (x : At) (r : RF)
  /-- TLBI_A (R371): Invalidates every entry of every instance device-wide. -/
  | tlbiA (x : At) (r : RF)
  /-- MFC (R59): Reads a control register. -/
  | mfc (x : At) (r : RF) (n : BitVec 6)
  /-- MTC (R62): Writes a control register that has no row of its own, serialising. -/
  | mtc (x : At) (r : RF) (n : BitVec 6)
  /-- CCTL_CLEAR_L1DEN (R351): Disables L1D after cleaning and invalidating all of its lines. -/
  | cctlClearL1den (x : At) (r : RF)
  /-- CCTL_CLEAR_L1IEN (R351): Disables L1I after invalidating all of its lines. -/
  | cctlClearL1ien (x : At) (r : RF)
  /-- CCTL_CLEAR_L2EN (R351): Disables L2 after cleaning the L1 and L2 lines. -/
  | cctlClearL2en (x : At) (r : RF)
  /-- CCTL_RAISE_SCRW (R352): Converts L2 ways to scratchpad after cleaning them, and zeroes them. -/
  | cctlRaiseScrw (x : At) (r : RF)
  /-- CCTL_LOWER_SCRW (R352): Returns scratchpad ways to the cache and discards their contents. -/
  | cctlLowerScrw (x : At) (r : RF)
  /-- REP (R171): Latches a count and runs the following instruction that many iterations. -/
  | rep (x : At) (r : RF) (upto : Nat)
  /-- FPADD (R206): Floating-point add. -/
  | fpadd (x : At) (r : RF) (fmt : Bool)
  /-- FPSUB (R206): Floating-point subtract. -/
  | fpsub (x : At) (r : RF) (fmt : Bool)
  /-- FPMUL (R206): Floating-point multiply. -/
  | fpmul (x : At) (r : RF) (fmt : Bool)
  /-- FPMIN (R202): Floating-point minimum. -/
  | fpmin (x : At) (r : RF) (fmt : Bool)
  /-- FPMAX (R202): Floating-point maximum. -/
  | fpmax (x : At) (r : RF) (fmt : Bool)
  /-- FPMOV (R201): Copies an F register bit for bit. -/
  | fpmov (x : At) (r : RF) (fmt : Bool)
  /-- FPNEG (R201): Inverts the sign of an F register. -/
  | fpneg (x : At) (r : RF) (fmt : Bool)
  /-- FPABS (R201): Clears the sign of an F register. -/
  | fpabs (x : At) (r : RF) (fmt : Bool)
  /-- FPFMA (R200): Fused multiply-add, rounded once. -/
  | fpfma (x : At) (r : RF) (fmt : Bool) (c : BitVec 5)
  /-- FPCMP (R203): Floating-point compare into a bit register. -/
  | fpcmp (x : At) (r : RF) (fmt : Bool) (z : BitVec 3) (cc : BitVec 2)
  /-- FPCVT_S_D (R205): Converts binary64 to binary32. -/
  | fpcvtSD (x : At) (r : RF) (t : Bool) (z : BitVec 2)
  /-- FPCVT_D_S (R205): Converts binary32 to binary64. -/
  | fpcvtDS (x : At) (r : RF) (t : Bool) (z : BitVec 2)
  /-- FPCVT_L_D (R204): Converts binary64 to int64. -/
  | fpcvtLD (x : At) (r : RF) (t : Bool) (z : BitVec 2)
  /-- FPCVT_L_S (R204): Converts binary32 to int64. -/
  | fpcvtLS (x : At) (r : RF) (t : Bool) (z : BitVec 2)
  /-- FPCVT_D_L (R205): Converts int64 to binary64. -/
  | fpcvtDL (x : At) (r : RF) (t : Bool) (z : BitVec 2)
  /-- FPCVT_S_L (R205): Converts int64 to binary32. -/
  | fpcvtSL (x : At) (r : RF) (t : Bool) (z : BitVec 2)
  /-- MVGF (R201): Moves a G register to an F register bit for bit. -/
  | mvgf (x : At) (r : RF)
  /-- MVFG (R201): Moves an F register to a G register bit for bit. -/
  | mvfg (x : At) (r : RF)
  /-- FDSTEP_IS (R193): Initialises a binary32 division and makes its first step. -/
  | fdstepIs (x : At) (r : RF)
  /-- FDSTEP_ID (R193): Initialises a binary64 division and makes its first step. -/
  | fdstepId (x : At) (r : RF)
  /-- FDSTEP (R194): Makes one radix-4 step of the operation recorded in the step state. -/
  | fdstep (x : At) (r : RF)
  /-- FSSTEP_IS (R193): Initialises a binary32 square root and makes its first step. -/
  | fsstepIs (x : At) (r : RF)
  /-- FSSTEP_ID (R193): Initialises a binary64 square root and makes its first step. -/
  | fsstepId (x : At) (r : RF)
  /-- FSSTEP (R194): Makes one step of the operation recorded in the step state. -/
  | fsstep (x : At) (r : RF)
  /-- FDFIN (R196): Rounds the step state into a result and sets the FSTAT flags. -/
  | fdfin (x : At) (r : RF)
  /-- INTERRUPT_ENTRY (R245): At a group boundary, the highest deliverable core vector is taken and VPEND is cleared. -/
  | interruptEntry (lc : Nat)
  /-- MACHINE_CHECK (R243): Poisoned data or a routed Rind machine check enters bank 7 at level H before the consuming group. -/
  | machineCheck (lc : Nat)
  /-- MISS_DATA_ARRIVAL (R97): The data of the outstanding miss arrives and ends any freeze waiting on it. -/
  | missDataArrival (lc : Nat)
  /-- FETCH_COMPLETE (R97): The next group is fetched and a fetch freeze ends. -/
  | fetchComplete (lc : Nat)
  /-- TLB_WALK_COMPLETE (R97): A table walk completes and its freeze ends. -/
  | tlbWalkComplete (lc : Nat) (va : Word) (k : AccKind)
  /-- SUBNORMAL_FREEZE_END (R210): The 4-clock freeze of a subnormal or constant-time group ends. -/
  | subnormalFreezeEnd (lc : Nat)
  /-- STORE_RELEASE (R272): A store-buffer entry covered by a sealed checkpoint is released to the fabric in order. -/
  | storeRelease (lc : Nat)
  /-- FENCE_COMPLETE (R321): FENCE completes once earlier accesses are performed and the store buffer has drained. -/
  | fenceComplete (lc : Nat)
  /-- FENCE_S_COMPLETE (R322): FENCE.S completes once earlier writes are performed with respect to every agent. -/
  | fenceSComplete (lc : Nat)
  /-- FENCE_D_COMPLETE (R344): FENCE.D completes once every earlier DEV access has completed. -/
  | fenceDComplete (lc : Nat)
  /-- TLBI_COMPLETE (R372): A TLBI completes once every TLB has dropped the entries and their accesses are performed. -/
  | tlbiComplete (lc : Nat)
  /-- CACHE_CLEAN_COMPLETE (R351): The clean of a CCTL change ends, and the MTC retires. -/
  | cacheCleanComplete (lc : Nat)
  /-- WAIT_WAKEUP (R163): A pending interrupt or machine check ends WAIT. -/
  | waitWakeup (lc : Nat)
  /-- DEV_ACCESS_COMPLETE (R340): A DEV access completes by acknowledgement or by error; errors set DEVERR and make a DE record. -/
  | devAccessComplete (lc : Nat) (k : Nat) (ok : Bool) (val : Word)
  /-- DEV_COMPLETION_TIMEOUT (R341): The completion timeout of a DEV access expires, and the access completes as an error. -/
  | devCompletionTimeout (lc : Nat) (k : Nat)
  /-- INPUT_PRESENTED (R262): An asynchronous input is sampled by a half's synchroniser and the samples are exchanged. -/
  | inputPresented (lc : Nat) (i : InKind) (e o : Option Sample)
  /-- INPUT_AGREED (R263): At the agreed clock the agreed value enters both halves, with a CE record in the late cases. -/
  | inputAgreed (lc : Nat) (k : Nat)
  /-- CHECKPOINT_CAPTURE (R268): The Press captures a checkpoint at a trigger boundary, and each half forms a signature. -/
  | checkpointCapture (lc : Nat)
  /-- SEAL_COMPARE (R269): Four clocks after capture, the signatures are compared and the checkpoint is sealed or a mismatch is raised. -/
  | sealCompare (lc : Nat) (same : Bool)
  /-- PRESS_MISMATCH (R276): Differing outputs discard unreleased state and start a restore from the sealed checkpoint. -/
  | pressMismatch (lc : Nat)
  /-- RESTORE_COMPLETE (R276): The 32-clock restore ends and the pair resumes, with VPEND merged under R277. -/
  | restoreComplete (lc : Nat)
  /-- HALF_ECC_ERROR (R280): A parity or ECC error inside a half is corrected with a CE record, or treated as a mismatch. -/
  | halfEccError (lc : Nat) (o : Bool) (corrected : Bool)
  /-- CHECKPOINT_STORE_UE (R281): An uncorrectable checkpoint-store error takes the logical core offline with an FC record. -/
  | checkpointStoreUe (lc : Nat)
  /-- BIST_COMPLETE (R283): BIST of a persistently mismatching pair ends, and the Puppeteer spares, marks suspect or takes the core offline. -/
  | bistComplete (lc : Nat) (ePass oPass : Bool)
  /-- SPARING_RESUME (R285): The checkpoint is loaded into the new pair and the pair resumes in lockstep. -/
  | sparingResume (lc : Nat)
  /-- EVENT_SOURCE_ASSERT (R247): A physical event source asserts, and the router sets a pending bit or holds the event. -/
  | eventSourceAssert (src : Nat)
  /-- ROUTER_MODERATION_EXPIRY (R248): The moderation interval of a core vector ends, and a pending delivery becomes deliverable. -/
  | routerModerationExpiry (lc : Nat) (v : Nat)
  /-- ERCTL_WRITE (R249): A write of ERCTL enables or disables routing and delivers a held event when enabled. -/
  | erctlWrite (src : Nat) (val : Word)
  /-- CONTROL_SPACE_WRITE (R17): A write to a control-space register that has no row of its own acts through its access codes. -/
  | controlSpaceWrite (lc : Nat) (addr : Nat) (size : Nat) (val : Word)
  /-- CELL (R450): Every PE of the partition applies a function slot to three inputs in one array cycle. -/
  | cell (q : Nat) (o : CellOp)
  /-- SADD (R458): Sequencer scalar add. -/
  | sadd (q : Nat) (o : SqOp)
  /-- SSUB (R458): Sequencer scalar subtract. -/
  | ssub (q : Nat) (o : SqOp)
  /-- SAND (R458): Sequencer scalar AND. -/
  | sand (q : Nat) (o : SqOp)
  /-- SOR (R458): Sequencer scalar OR. -/
  | sor (q : Nat) (o : SqOp)
  /-- SXOR (R458): Sequencer scalar XOR. -/
  | sxor (q : Nat) (o : SqOp)
  /-- SSHL (R458): Sequencer scalar shift left. -/
  | sshl (q : Nat) (o : SqOp)
  /-- SSHR (R458): Sequencer scalar shift right. -/
  | sshr (q : Nat) (o : SqOp)
  /-- SADDI (R458): Sequencer scalar add of an immediate. -/
  | saddi (q : Nat) (o : SqOp)
  /-- SLI (R458): Loads a sign-extended immediate into a scalar register. -/
  | sli (q : Nat) (o : SqOp)
  /-- SLIH (R458): Loads an immediate into the upper half of a scalar register. -/
  | slih (q : Nat) (o : SqOp)
  /-- SQ_BR (R460): Sequencer unconditional branch. -/
  | sqBr (q : Nat) (o : SqOp)
  /-- BZ (R458): Sequencer branch when a scalar register is zero. -/
  | bz (q : Nat) (o : SqOp)
  /-- BNZ (R458): Sequencer branch when a scalar register is not zero. -/
  | bnz (q : Nat) (o : SqOp)
  /-- SQ_BOR (R461): Sequencer branch when the global OR result is 1. -/
  | sqBor (q : Nat) (o : SqOp)
  /-- SQ_BNOR (R461): Sequencer branch when the global OR result is 0. -/
  | sqBnor (q : Nat) (o : SqOp)
  /-- LOOP (R462): Sets a loop counter and body for zero-overhead looping. -/
  | loop (q : Nat) (o : SqOp)
  /-- XFER (R465): Starts a Mould transfer from the job's transfer table. -/
  | xfer (q : Nat) (o : SqOp)
  /-- XWAIT (R458): Waits until no transfer is in progress. -/
  | xwait (q : Nat) (o : SqOp)
  /-- LOCKW (R467): Enables a row-lock window against Mould accesses. -/
  | lockw (q : Nat) (o : SqOp)
  /-- ULOCKW (R467): Disables a row-lock window, releasing waiting Mould accesses. -/
  | ulockw (q : Nat) (o : SqOp)
  /-- GLSET (R458): Sets the sequencer's drive of a broadcast line. -/
  | glset (q : Nat) (o : SqOp)
  /-- ORRD (R461): Reads the global OR result into a scalar register. -/
  | orrd (q : Nat) (o : SqOp)
  /-- SBSET (R469): Sets a bit once the writes of ended transfers are performed. -/
  | sbset (q : Nat) (o : SqOp)
  /-- SBCLR (R469): Clears a bit once the writes of ended transfers are performed. -/
  | sbclr (q : Nat) (o : SqOp)
  /-- SBLD (R458): Loads a bit into a scalar register. -/
  | sbld (q : Nat) (o : SqOp)
  /-- SBWAIT (R469): Polls a bit until it reads 1. -/
  | sbwait (q : Nat) (o : SqOp)
  /-- SQ_NOP (R458): Sequencer no-operation. -/
  | sqNop (q : Nat) (o : SqOp)
  /-- DONE (R470): Ends the job once no transfer is in progress and writes its completion. -/
  | done (q : Nat) (o : SqOp)
  /-- NOTE (R473): Sets the partition's completion bit. -/
  | note (q : Nat) (o : SqOp)
  /-- CAPTURE (R471): Captures the partition to memory and completes the job with SQ_CAPTURED. -/
  | capture (q : Nat) (o : SqOp)
  /-- OR_RESULT_READY (R461): The global OR result becomes readable and a waiting BOR, BNOR or ORRD issues. -/
  | orResultReady (q : Nat)
  /-- SBWAIT_SATISFIED (R469): The polled bit reads 1 and the sequencer continues. -/
  | sbwaitSatisfied (q : Nat)
  /-- SBLD_RETURN (R458): The bit read by SBLD returns and the sequencer continues. -/
  | sbldReturn (q : Nat)
  /-- MOULD_TRANSFER_END (R465): A Mould transfer ends with OK or with a status that ends the job. -/
  | mouldTransferEnd (q : Nat) (moved : MouldShare)
  /-- ARRAY_FAULT (R443): An array fault stops the sequencer within 2 cycles and ends the attempt. -/
  | arrayFault (q : Nat) (k : ArrFault) (vat plane row : Nat)
  /-- ARRAY_JOB_RESTART (R484): After the ended attempt's transfer stops, the job is reloaded and restarted. -/
  | arrayJobRestart (q : Nat)
  /-- ARUN (R474): An array job descriptor is taken for its partition. -/
  | arun (qp : Nat)
  /-- PROGLOAD_COMPLETE (R479): The program is loaded and the attempt's first instruction issues. -/
  | progloadComplete (q : Nat)
  /-- ARRAY_JOB_LIMIT (R482): The job's epoch count reaches LIMIT, and the job completes with ARRAY_TIMEOUT. -/
  | arrayJobLimit (q : Nat)
  /-- CAPTURE_EDGE (R436): At one array-clock edge the partition is snapshotted and its Vats become CAPTURED. -/
  | captureEdge (q : Nat)
  /-- CAPTURE_READOUT_COMPLETE (R439): A Vat's capture block has been written and the Vat returns to READY. -/
  | captureReadoutComplete (vat : Nat) (same : Bool)
  /-- VAT_CLEAR_COMPLETE (R433): Clearing of the Vats ends and they are UNCFG. -/
  | vatClearComplete (chip : Nat)
  /-- PARTITION_SWITCH (R488): At an epoch boundary the scheduler captures one partition and restores the next. -/
  | partitionSwitch (q : Nat) (ph : Nat)
  /-- PARTITION_RESTORE (R490): A partition is restored from its save area and its sequencer resumes. The sequencer is q % 16; q / 16 is 0, or 1 more than the section at which a hardware fault ends the reapplication of its image (R491). -/
  | partitionRestore (q : Nat)
  /-- QUEUE_DOORBELL (R594): The device finds a doorbell set, clears it, reads the tail and takes descriptors. -/
  | queueDoorbell (qp : Nat)
  /-- NVREAD (R533): NVMe Read operation taken into the ledger. -/
  | nvread (qp : Nat) (lidx : Nat)
  /-- NVWRITE (R533): NVMe Write operation taken into the ledger. -/
  | nvwrite (qp : Nat) (lidx : Nat)
  /-- NVFLUSH (R533): NVMe Flush operation taken into the ledger. -/
  | nvflush (qp : Nat) (lidx : Nat)
  /-- NVZERO (R533): NVMe Write Zeroes operation taken into the ledger. -/
  | nvzero (qp : Nat) (lidx : Nat)
  /-- NVDSM (R533): NVMe Dataset Management deallocate taken into the ledger. -/
  | nvdsm (qp : Nat) (lidx : Nat)
  /-- NVCMD (R534): NVMe pass-through command taken into the ledger. -/
  | nvcmd (qp : Nat) (lidx : Nat)
  /-- SCMD (R535): SCSI command taken into the ledger. -/
  | scmd (qp : Nat) (lidx : Nat)
  /-- NSEND (R536): Frames sent on a network interface. -/
  | nsend (qp : Nat) (lidx : Nat)
  /-- NRECV (R536): Posts a receive buffer on a network interface. -/
  | nrecv (qp : Nat) (lidx : Nat)
  /-- LACK (R523): Acknowledges and retires an OUTCOME_UNKNOWN ledger entry. -/
  | lack (qp : Nat)
  /-- TARGET_ACCEPT (R513): The target shows that it holds the command, and the entry becomes ACCEPTED. -/
  | targetAccept (lidx : Nat) (xid : BitVec 32)
  /-- DATA_UNIT_RECEIVED (R529): A whole, checked data unit arrives and is written, or discarded if stale. -/
  | dataUnitReceived (lidx : Nat) (xid : BitVec 32) (off : Nat) (data : List Byte) (good : Bool)
  /-- TARGET_RESPONSE (R520): The target's response fixes the outcome, and the completion is written and the entry retired. -/
  | targetResponse (lidx : Nat) (xid : BitVec 32) (k : RespKind) (pstat : BitVec 16) (pdw0 : BitVec 32)
  /-- FRAME_RECEIVED (R531): A network frame arrives and fills a posted buffer or is discarded and counted. -/
  | frameReceived (ep : Nat) (data : List Byte) (good : Bool)
  /-- PORT_DOWN (R504): A port goes down and its paths fail. -/
  | portDown (lp : Nat)
  /-- PATH_CONNECTED (R502): A path finishes connecting, becomes ACTIVE or STANDBY, and starts waiting operations. -/
  | pathConnected (ep k : Nat) (standby : Bool)
  /-- OPERATION_TIMEOUT (R527): An attempt reaches TISSUE + OPTMO and its path fails. -/
  | operationTimeout (lidx : Nat)
  /-- OPERATION_WAIT_EXPIRY (R518): OPTMO passes with no path able to carry a waiting operation, which then completes. -/
  | operationWaitExpiry (lidx : Nat)
  /-- KEEPALIVE_TIMEOUT (R528): KATO passes without a keep-alive response and the path fails. -/
  | keepaliveTimeout (ep k : Nat)
  /-- PATH_RETEST (R528): RETEST epochs after a failure, the path is reconnected. -/
  | pathRetest (ep k : Nat)
  /-- ABORT_ANSWER (R519): The abort answer fences the old attempt, and a waiting reissue proceeds. -/
  | abortAnswer (lidx : Nat)
  /-- ABORT_TIMEOUT (R815): ABTMO passes without an answer; the path is taken to FAILED and the fencing event is brought about. -/
  | abortTimeout (lidx : Nat)
  /-- CONTROLLER_RESET_DONE (R815): CSTS.RDY reads 0 after the controller reset and fences the old attempts. -/
  | controllerResetDone (ep k : Nat)
  /-- CONTROLLER_RESET_TIMEOUT (R815): CAP.TO passes without CSTS.RDY clearing, and DPC containment is triggered. -/
  | controllerResetTimeout (ep k : Nat)
  /-- QUIESCE_ELAPSED (R519): The quiesce time after a connection close or logout elapses and fences the attempt. -/
  | quiesceElapsed (lidx : Nat)
  /-- NAMESPACE_CHANGE (R814): The controller reports a namespace change, and the device re-learns the LBA format and checks DLEN. -/
  | namespaceChange (ep nsid : Nat) (blk : Option Nat)
  /-- PCIE_INBOUND_REQUEST (R510): An inbound PCIe request is translated for its instance or answered with UR. The endpoint is ep % 65,536; ep / 65,536 is 1 where LCRC or ECRC finds the TLP damaged (R530). -/
  | pcieInboundRequest (ep : Nat) (write : Bool) (ipa : Nat) (data : List Byte)
  /-- MSI_WRITE (R510): An MSI or MSI-X write raises the virtual vector that the endpoint names. -/
  | msiWrite (ep : Nat) (v : Nat)
  /-- DPC_CONTAINMENT (R509): DPC contains a PCIe link and completes its DEV accesses as errors. -/
  | dpcContainment (lp : Nat)
  /-- LINK_TRAINED (R496): A link finishes training, reporting a CE if it is narrower than configured. -/
  | linkTrained (lp : Nat) (lanes rate : Nat)
  /-- CCOMP (R552): Compression job. -/
  | ccomp (qp : Nat) (e : Nat)
  /-- CDECOMP (R557): Decompression job under the output limit. -/
  | cdecomp (qp : Nat) (e : Nat)
  /-- CZENC (R571): Compress-then-encrypt job. -/
  | czenc (qp : Nat) (e k : Nat)
  /-- CZDEC (R572): Decrypt-then-decompress job. -/
  | czdec (qp : Nat) (e k : Nat)
  /-- KGCMENC (R566): AES-GCM encryption job. -/
  | kgcmenc (qp : Nat) (e : Nat)
  /-- KGCMDEC (R573): AES-GCM decryption job, with output zeroed on failure. -/
  | kgcmdec (qp : Nat) (e : Nat)
  /-- KXTSENC (R566): AES-XTS encryption job. -/
  | kxtsenc (qp : Nat) (e : Nat)
  /-- KXTSDEC (R566): AES-XTS decryption job. -/
  | kxtsdec (qp : Nat) (e : Nat)
  /-- KHASH (R566): Hash job, or comparison with an expected digest. -/
  | khash (qp : Nat) (e : Nat)
  /-- KHMAC (R566): HMAC job, or comparison with an expected MAC. -/
  | khmac (qp : Nat) (e : Nat)
  /-- KSIGN (R567): ECDSA or ML-DSA signing job. -/
  | ksign (qp : Nat) (e : Nat)
  /-- KVERIFY (R566): Signature verification job. -/
  | kverify (qp : Nat) (e : Nat)
  /-- KENCAP (R566): ML-KEM encapsulation into a slot. -/
  | kencap (qp : Nat) (e : Nat)
  /-- KDECAP (R568): ML-KEM decapsulation into a slot. -/
  | kdecap (qp : Nat) (e : Nat)
  /-- KKEYGEN (R566): Generates a key into a slot. -/
  | kkeygen (qp : Nat) (e : Nat)
  /-- KKEYLOAD (R566): Loads plain or wrapped key material into a slot. -/
  | kkeyload (qp : Nat) (e : Nat)
  /-- KKEYCLR (R566): Clears a key slot. -/
  | kkeyclr (qp : Nat) (e : Nat)
  /-- ENGINE_JOB_END (R575): An engine job ends, and its completion is written with one status. -/
  | engineJobEnd (j : Nat)
  /-- ENGINE_FAULT_DETECTED (R576): An engine fault makes a UE record and reruns the job on another engine, or ends it with ENGINE_FAULT. -/
  | engineFaultDetected (j : Nat) (e : Nat)
  /-- ENGINE_SQUASH_WINDOW_END (R579): The 1-epoch window of a full-configuration reset ends, and running jobs are squashed. -/
  | engineSquashWindowEnd (i : Nat)
  /-- TOKEN_REFILL (R610): At an epoch boundary each bucket balance gains RATE, up to BURST. -/
  | tokenRefill
  /-- COMPLETION_RING_POLL (R601): While a completion ring is full, HEADPTR is read at a tick boundary and waiting completions are written. -/
  | completionRingPoll (qp : Nat)
  /-- VVEC_MODERATION_EXPIRY (R606): The moderation interval of a virtual vector ends, and a deferred core vector is raised. -/
  | vvecModerationExpiry (v : Nat)
  /-- VIRTUAL_VECTOR_CLEAR (R247): Software clears PV, and a level-mode source raises again. -/
  | virtualVectorClear (v : Nat)
  /-- DRAIN_COMPLETE (R624): A full-configuration reset or removal finishes draining and reports its counts. -/
  | drainComplete (i : Nat)
  /-- RESET_DEFERRED_ACCEPT (R622): A delayed compact reset is accepted once no work carries the next generation. -/
  | resetDeferredAccept (i : Nat)
  /-- OLD_WORK_END (R623): Old-generation work ends, and its ledger entries and endpoints return. -/
  | oldWorkEnd (i : Nat)
  /-- SCRUB_STEP (R643): Every 5 epochs a code channel scrubs one stripe and writes back corrections or poison. errs: the errors that have come to near and
  far memory since, as State.bring reads them (log entry 118). -/
  | scrubStep (cc : Nat) (errs : List (Nat × Nat))
  /-- SWEEP_STEP (R659): At each epoch boundary a sweep unit saves, tests, repairs and restores one region. -/
  | sweepStep (u : Nat) (r : SweepResult)
  /-- RIND_ALARM (R668): The collector takes a report once the alarm and its payload have arrived and reacts at its level. src: the source, or 2048 plus the
  source for a report in the collector's cycle in which that source is acknowledged (R692; log entry 185). -/
  | rindAlarm (src : Nat) (pulse : Bool) (p : Option Payload)
  /-- RIND_PAYLOAD_TIMEOUT (R668): An alarm gets no payload within 1 us and is taken as UE with the source marked suspect. -/
  | rindPayloadTimeout (src : Nat)
  /-- RIND_WIRE_FAULT (R669): A dual-rail pair reads equal for 3 samples and is reported as a DE wire fault. -/
  | rindWireFault (src : Nat)
  /-- RIND_ACKNOWLEDGE (R692): Writing 1 to PEND acknowledges a source and resets its last levels. -/
  | rindAcknowledge (src : Nat)
  /-- PUPPETEER_LOCKSTEP_ERROR (R697): The Puppeteer cores disagree, and it restarts. -/
  | puppeteerLockstepError
  /-- PUPPETEER_SRAM_UE (R697): The Puppeteer SRAM returns an uncorrectable word, and it restarts. -/
  | puppeteerSramUe
  /-- PUPPETEER_WATCHDOG_EXPIRY (R697): 16 epochs pass without firmware service, and the Puppeteer restarts. -/
  | puppeteerWatchdogExpiry
  /-- PUPPETEER_RESTART_COMPLETE (R698): After a restart the Puppeteer finishes or reruns journalled commands and serves mailboxes. -/
  | puppeteerRestartComplete
  /-- BOOT_IMAGE_SELECT (R705): The boot ROM chooses, verifies and starts an image, or enters RECOVERY. -/
  | bootImageSelect
  /-- WATCHDOG_EXPIRY (R706): A logical core's watchdog passes N epochs unkicked and reports UE at its source. -/
  | watchdogExpiry (lc : Nat)
  /-- MAILBOX_DOORBELL (R711): Setting a mailbox doorbell queues its command. -/
  | mailboxDoorbell (m : Nat)
  /-- MAILBOX_COMMAND_TAKE (R713): The Puppeteer takes a queued command, checks its header, or replays the stored completion. -/
  | mailboxCommandTake (m : Nat)
  /-- DEV_INFO (R722): Returns the part, stepping, firmware and serial information. -/
  | devInfo (m : Nat)
  /-- SET_TIME (R29): Sets the seconds of device time at the next qualified PPS_IN edge. -/
  | setTime (m : Nat)
  /-- SET_TIME_REF (R43): Sets one time-reference field: preference, TREF frequency, PPS delay, PTP port or domain. -/
  | setTimeRef (m : Nat)
  /-- WDOG_SET (R706): Sets a logical core's watchdog interval. -/
  | wdogSet (m : Nat)
  /-- MGMT_NET (R731): Sets one field of the management network. -/
  | mgmtNet (m : Nat)
  /-- INST_TABLE (R584): Sets the instance table size and thereby the configuration. -/
  | instTable (m : Nat)
  /-- INST_CREATE (R588): Allots every resource of a plan to a new PREPARED instance, or none. -/
  | instCreate (m : Nat)
  /-- QP_SETUP (R592): Sets up one queue pair. -/
  | qpSetup (m : Nat)
  /-- EP_CREATE (R500): Creates one endpoint with its paths. -/
  | epCreate (m : Nat)
  /-- PART_SETUP (R590): Sets up one partition handle with its sequencer, Vats and save area. -/
  | partSetup (m : Nat)
  /-- INST_START (R724): Makes a fully set-up instance RUNNING. -/
  | instStart (m : Nat)
  /-- INST_RESET (R620): Resets an instance, bumping its generation and discarding or draining its work. -/
  | instReset (m : Nat)
  /-- INST_REMOVE (R623): Resets an instance and returns its resources to the pools. -/
  | instRemove (m : Nat)
  /-- INST_STATUS (R723): Returns an instance's state, generation, ledger use and old work. -/
  | instStatus (m : Nat)
  /-- INST_SET (R614): Changes one RATE, BURST or WEIGHT from the next epoch boundary. -/
  | instSet (m : Nat)
  /-- PAIR_STATUS (R725): Returns the mode, suspect mark and spares of a logical pair. -/
  | pairStatus (m : Nat)
  /-- PAIR_SPLIT (R290): Splits a checked slot, with O starting from a context block. -/
  | pairSplit (m : Nat)
  /-- PAIR_JOIN (R293): Joins a split slot back into lockstep, reporting O's discarded VPEND. -/
  | pairJoin (m : Nat)
  /-- PAIR_RECOVER (R288): Writes an offline core's kept checkpoint to memory as a context block. -/
  | pairRecover (m : Nat)
  /-- PAIR_SET_RX7 (R298): Enters or leaves RX7-compatible mode for a slot. -/
  | pairSetRx7 (m : Nat)
  /-- SPARE_CLEAR (R729): In a maintenance window, tests and frees excluded halves and clears suspect marks. -/
  | spareClear (m : Nat) (pass : List Nat)
  /-- ARRAY_CONFIG (R426): Checks a configuration image in full and applies it Vat by Vat. -/
  | arrayConfig (m : Nat) (faultAt : Option Nat)
  /-- ARRAY_CAPTURE (R435): The Puppeteer captures a partition to memory. -/
  | arrayCapture (m : Nat)
  /-- ARRAY_RELEASE (R441): Discards a captured snapshot and returns the Vats to READY. -/
  | arrayRelease (m : Nat)
  /-- PORT_CONFIG (R498): Sets the mode and ports of a port group and starts training. -/
  | portConfig (m : Nat)
  /-- PORT_STATUS (R725): Returns the state, width and rate of a logical port. -/
  | portStatus (m : Nat)
  /-- PATH_STATUS (R502): Returns the state of each path of an endpoint. -/
  | pathStatus (m : Nat)
  /-- FAR_ONLINE (R651): Brings a far slot online and returns its usable size. -/
  | farOnline (m : Nat)
  /-- FAR_OFFLINE (R651): Takes a far slot offline. -/
  | farOffline (m : Nat)
  /-- RIND_SET (R678): Changes one level field of a source's RCFG. -/
  | rindSet (m : Nat)
  /-- RIND_LOG (R695): Returns Rind log entries from a sequence number. -/
  | rindLog (m : Nat)
  /-- FW_STAGE (R727): Writes a chunk of a firmware image into the staging slot. -/
  | fwStage (m : Nat)
  /-- FW_ACTIVATE (R728): Verifies the staged image and sets it on trial, optionally with a live restart. -/
  | fwActivate (m : Nat)
  /-- FW_COMMIT (R728): Confirms the trial image, optionally burning the SVN floor. -/
  | fwCommit (m : Nat)
  /-- FUSE_COMMIT (R729): Burns every soft-fuse entry into fuses in a maintenance window. -/
  | fuseCommit (m : Nat)
  /-- DPX_PAIR (R758): Sets a module's side and begins pairing. -/
  | dpxPair (m : Nat)
  /-- DPX_STATUS (R760): Returns the pair state, side, levels and copy cursor. -/
  | dpxStatus (m : Nat)
  /-- DPX_REPAIR (R759): Begins re-pairing from a SIMPLEX survivor. -/
  | dpxRepair (m : Nat)
  /-- DPX_UNPAIR (R765): Fences the follower and leaves the leader STANDALONE. -/
  | dpxUnpair (m : Nat)
  /-- RAISE_LEVEL (R768): Raises the effective FIL of both sides. -/
  | raiseLevel (m : Nat)
  /-- SMBUS_WRITE (R730): SMBus command 0x01 writes up to 32 bytes of mailbox 0. -/
  | smbusWrite (off : Nat) (data : List Byte)
  /-- SMBUS_READ (R730): SMBus command 0x02 reads up to 32 bytes of mailbox 0. -/
  | smbusRead (off len : Nat)
  /-- SMBUS_DOORBELL (R730): SMBus command 0x03 sets the doorbell of mailbox 0. -/
  | smbusDoorbell
  /-- SMBUS_STATUS_READ (R730): SMBus command 0x04 reads PUPSTAT, MBCTL of mailbox 0 and its bits. -/
  | smbusStatusRead
  /-- MGMT_DATAGRAM (R730): A UDP datagram carrying a mailbox-0 image is checked by HMAC and served or discarded. -/
  | mgmtDatagram (data : List Byte) (tag : List Byte)
  /-- TWIN_FLIT_RECEIVED (R741): A twin-link flit is taken in order, or answered with a negative acknowledgement. -/
  | twinFlitReceived (b : Nat) (f : Flit) (crcGood : Bool)
  /-- FLIT_REPLAY_TIMEOUT (R741): The oldest unacknowledged flit reaches 2 us and is replayed. -/
  | flitReplayTimeout (b : Nat)
  /-- BUNDLE_RETRAIN (R742): After 8 replays without progress a bundle retrains with a CE report. -/
  | bundleRetrain (b : Nat)
  /-- BUNDLE_DOWN_TIMEOUT (R742): A bundle is down for 1 ms; a DE report is made and traffic moves to the other bundle. -/
  | bundleDownTimeout (b : Nat)
  /-- TWIN_LINK_LOSS (R755): Both bundles are down for 10 us, and heartbeats decide which module survives. -/
  | twinLinkLoss (peerBeat : Bool)
  /-- HEARTBEAT_LOSS (R755): The peer's heartbeat is absent for 10 us, and this module survives. -/
  | heartbeatLoss
  /-- FOLLOWER_HEARTBEAT_PERSISTS (R755): The follower's heartbeat still toggles 1 ms after link loss, and the leader stops. -/
  | followerHeartbeatPersists
  /-- SKEW_PROBE (R744): Every 64 ticks a side sends a skew probe and computes offset and delay from the reply. -/
  | skewProbe (t1 t2 t3 t4 : Int)
  /-- BATCH_MARK (R748): At each leader tick boundary a batch mark is sent and the lag limit is applied. -/
  | batchMark
  /-- AGREED_INPUT_DELIVERY (R749): An input held by both sides is delivered at the same execution point. -/
  | agreedInputDelivery (k : Nat)
  /-- BATCH_COMPARE (R752): The output CRCs of a batch are compared, and the outputs are transmitted or a divergence is resolved. -/
  | batchCompare (same : Bool) (ownUe peerUe : Bool)
  /-- REPAIR_COPY_STEP (R761): Each epoch the survivor copies 3,072 lines to the joiner. -/
  | repairCopyStep
  /-- REPAIR_HANDOVER (R763): The survivor pauses, sends its architectural state and resumes PAIRED. -/
  | repairHandover
  /-- MIXED_VERSION_WARNING (R767): Different firmware for 144 hours makes a DE notice. -/
  | mixedVersionWarning
  /-- MIXED_VERSION_LIMIT (R767): Different firmware for 168 hours fences the follower. -/
  | mixedVersionLimit
  /-- COUNTER_SNAPSHOT (R783): At an epoch boundary every counter is latched and written to the snapshot ring. -/
  | counterSnapshot
  /-- RAIL_GOOD (R790): A rail has stayed in range for 100 us and becomes good. -/
  | railGood (j : Nat)
  /-- RAIL_FAULT (R791): A rail leaves its range for 2 us, and the outputs are held safe with an FD report. -/
  | railFault (j : Nat)
  /-- VSTBY_LOSS (R792): VSTBY is lost while the other rails are good, making a DE report. -/
  | vstbyLoss
  /-- WAKE (R794): WAKE_N is low for 10 us; the wake latch sets and PWR_REQ_N is pulled low. -/
  | wake
  /-- COLD_RESET (R798): COLD_RST_N assertion resets the whole module and holds the outputs safe. -/
  | coldReset
  /-- WARM_RESET (R799): WARM_RST_N assertion stops every unit and puts near memory into self-refresh. -/
  | warmReset
  /-- BRINGUP (R804): Release of a reset starts boot, and the Puppeteer brings up the module. -/
  | bringup (hotTrip : Bool)
  /-- NEAR_MEMORY_TRAINED (R804): Near memory training completes, scrub starts, and the host loader is written and the cores start. -/
  | nearMemoryTrained (badDevs : List Nat) (loader : List Byte)
  /-- THERMAL_WARNING (R809): The junction reaches TjMAX - 5 C; THERM_N asserts and a DE report is made. -/
  | thermalWarning (chip : Nat) (deg : Nat)
  /-- THERMAL_TRIP (R809): The junction reaches TjMAX + 5 C; THERMTRIP_N latches and an FD report is made. -/
  | thermalTrip (chip : Nat) (deg : Nat)
  /-- UNDEFINED_OPCODE (R81): An instruction word whose major or minor opcode is undefined reaches decode and takes an ILLOP trap. -/
  | undefinedOpcode (x : At) (w : BitVec 32)
  /-- TREF_FREQUENCY_LOCK (R45): TREF is measured within tolerance of the TREFHZ frequency, DSTAT.FLOCK sets and FRSRC selects TREF. -/
  | trefFrequencyLock
  /-- SLEW_COMPLETE (R38): The slewed correction reaches 1 ms remaining, DSTAT.SLEW clears and the loop continues at no more than 20 ppm. -/
  | slewComplete
  /-- ANA_STATE_CHANGE (R502): The target reports an ANA state change, and a connected path moves between ACTIVE and STANDBY or becomes inaccessible. -/
  | anaStateChange (ep k : Nat) (ana : Ana)
  /-- LOGIN_LOSS (R504): An FC login or an NVMe/TCP connection is lost through the remote side, and the path fails. -/
  | loginLoss (ep k : Nat)
  /-- EVENT_SOURCE_DEASSERT (R247): A physical event source deasserts, ending re-raising under MODE 1 and arming the next rising assertion under MODE 0. -/
  | eventSourceDeassert (src : Nat)
  /-- BUNDLE_TRAINED (R742): A twin-link bundle finishes training and is up, and traffic returns to it, or a paused re-pairing copy resumes. -/
  | bundleTrained (b : Nat)
  /-- RIND_PAIR_VALID (R669): A dual-rail pair that had a wire fault has been valid for 1 us, and a further wire fault may be reported. -/
  | rindPairValid (src : Nat)
  /-- THERMAL_WARNING_RELEASE (R809): The hottest junction falls below TjMAX - 8 C and THERM_N is released. -/
  | thermalWarningRelease
deriving DecidableEq, Repr

end Sys2Proof
end

