-- ==== Sys2Proof/Decode.lean ====
section
/-! DEFINITION. The words of core instructions (02 R77, 03 R116 to R168) and of array instructions (09 R450 to R458): what a word names, and
the word of an instruction. Also the commands that a word spells by the bits of the operation table: the table gives no row any bits, so
no word spells a command. -/

namespace Sys2Proof

/-- The command that the low nbits of w spell by the table's bits: none, since no row has bits. -/
def decodeTableWord (_nbits _w : Nat) : Option Instr := none

/-! ## Fields of a core instruction word (R77) -/

/-- A core instruction word. -/
abbrev CWord := BitVec 32

def CWord.stop (w : CWord) : Bool := w.getLsbD 31
def CWord.major (w : CWord) : BitVec 7 := w.extractLsb' 24 7
def CWord.fd (w : CWord) : Reg := w.extractLsb' 18 6
def CWord.fa (w : CWord) : Reg := w.extractLsb' 12 6
def CWord.fb (w : CWord) : Reg := w.extractLsb' 6 6
def CWord.minor (w : CWord) : BitVec 6 := w.extractLsb' 0 6
def CWord.imm12 (w : CWord) : BitVec 12 := w.extractLsb' 0 12
def CWord.imm18 (w : CWord) : BitVec 18 := w.extractLsb' 0 18
def CWord.minorHi (w : CWord) : BitVec 3 := w.extractLsb' 3 3
def CWord.minorLo (w : CWord) : BitVec 3 := w.extractLsb' 0 3
def CWord.minorMid (w : CWord) : BitVec 3 := w.extractLsb' 2 3
def CWord.minor5 (w : CWord) : BitVec 5 := w.extractLsb' 0 5
def CWord.fmt (w : CWord) : Bool := w.getLsbD 5
def CWord.cc (w : CWord) : BitVec 2 := w.extractLsb' 0 2
def CWord.unused2 (w : CWord) : BitVec 2 := w.extractLsb' 3 2
def CWord.shop (w : CWord) : BitVec 2 := w.extractLsb' 6 2
def CWord.rf (w : CWord) : RF := { d := w.fd, a := w.fa, b := w.fb }
def CWord.imf (w : CWord) : IF := { d := w.fd, a := w.fa, imm := w.imm12 }
def CWord.shf (w : CWord) : ShF := { d := w.fd, a := w.fa, hi := w.extractLsb' 8 4, sh := w.minor }
def CWord.bf (w : CWord) : BF := { c := w.fd, disp := w.imm18 }

/-- The instruction that a word names at logical core lc; none for an undefined major or minor opcode (R81, R116). n is what no word
holds: the length of the delay group of a CALL or CALLR, or the iterations of a REP. -/
def decodeCore (lc n : Nat) (w : CWord) : Option Instr :=
  let x : At := { lc := lc, stop := w.stop }
  let r := w.rf
  let f := w.imf
  match w.major with
  | 0x01 => (match w.minor with | 0x00 => some (.add x r) | 0x01 => some (.sub x r) | 0x02 => some (.andR x r) | 0x03 => some (.orR x r) | 0x04 => some (.xorR x r) | 0x05 => some (.andn x r) | 0x06 => some (.shl x r) | 0x07 => some (.shr x r) | 0x08 => some (.sar x r) | 0x09 => some (.minS x r) | 0x0A => some (.maxS x r) | 0x0B => some (.minu x r) | 0x0C => some (.maxu x r) | 0x0D => some (.clz x r) | 0x0E => some (.popc x r) | _ => none)
  | 0x02 => some (.addi x f)
  | 0x03 => some (.andi x f)
  | 0x04 => some (.ori x f)
  | 0x05 => some (.xori x f)
  | 0x06 => (match w.shop with | 0 => some (.shli x w.shf) | 1 => some (.shri x w.shf) | 2 => some (.sari x w.shf) | _ => none)
  | 0x07 => some (.lim x w.fd w.imm18)
  | 0x08 => if w.minor.toNat < 6 then some (.cmp x r w.minor) else none
  | 0x09 => some (.cmpi x f .eq)
  | 0x0A => some (.cmpi x f .ne)
  | 0x0B => some (.cmpi x f .lt)
  | 0x0C => some (.cmpi x f .ge)
  | 0x0D => some (.cmpi x f .ltu)
  | 0x0E => some (.cmpi x f .geu)
  | 0x0F => some (.sel x r w.minor)
  | 0x10 => (match w.minor with | 0x00 => some (.band x r) | 0x01 => some (.bor x r) | 0x02 => some (.bxor x r) | 0x03 => some (.bandn x r) | 0x04 => some (.bnot x r) | 0x05 => some (.bextr x r) | 0x06 => some (.btog x r) | _ => none)
  | 0x11 => some (.bext x f)
  | 0x14 => (match w.minor with | 0x00 => some (.mul x r) | 0x01 => some (.mulh x r) | 0x02 => some (.mulhu x r) | _ => none)
  | 0x15 => (match w.minor with | 0x00 => some (.dinitD x r) | 0x01 => some (.dinitDu x r) | 0x02 => some (.dinitW x r) | 0x03 => some (.dinitWu x r) | 0x08 => some (.dstep x r) | 0x09 => some (.dstepF x r) | 0x10 => some (.dfin x r) | _ => none)
  | 0x20 => some (.ldB x f)
  | 0x21 => some (.ldH x f)
  | 0x22 => some (.ldW x f)
  | 0x23 => some (.ldD x f)
  | 0x24 => some (.ldBu x f)
  | 0x25 => some (.ldHu x f)
  | 0x26 => some (.ldWu x f)
  | 0x28 => some (.stB x f)
  | 0x29 => some (.stH x f)
  | 0x2A => some (.stW x f)
  | 0x2B => some (.stD x f)
  | 0x2C => some (.ldfS x f)
  | 0x2D => some (.ldfD x f)
  | 0x2E => some (.stfS x f)
  | 0x2F => some (.stfD x f)
  | 0x30 => (match w.minorHi with | 0 => some (.cas x r w.minorLo) | 1 => some (.swap x r w.minorLo) | 2 => some (.faddA x r w.minorLo) | 3 => some (.forA x r w.minorLo) | 4 => some (.fandA x r w.minorLo) | 5 => some (.cas2 x r w.minorLo) | _ => none)
  | 0x31 => some (.bld x f)
  | 0x32 => some (.bst x f)
  | 0x33 => some (.bset x f)
  | 0x34 => some (.bclr x f)
  | 0x35 => some (.bflip x f)
  | 0x36 => (match w.minor with | 0x00 => some (.btas x r) | 0x01 => some (.bxch x r) | _ => none)
  | 0x38 => (match w.minor with | 0x00 => some (.smm x r) | 0x01 => some (.lmm x r) | _ => none)
  | 0x39 => (match w.minor with | 0x00 => some (.mvb x r) | 0x01 => some (.mvl x r) | 0x02 => some (.fill x r) | 0x03 => some (.filll x r) | _ => none)
  | 0x3A => (match w.fd with | 0 => some (.prefL1 x w.fa w.imm12) | 1 => some (.prefL1w x w.fa w.imm12) | 2 => some (.prefL2 x w.fa w.imm12) | 3 => some (.prefL3 x w.fa w.imm12) | _ => none)
  | 0x3B => (match w.fd with | 0 => some (.clean x w.fa w.imm12) | 1 => some (.inval x w.fa w.imm12) | 2 => some (.clinv x w.fa w.imm12) | _ => none)
  | 0x3C => (match w.minor with | 0x00 => some (.cleanSw x r) | 0x01 => some (.invalSw x r) | 0x02 => some (.clinvSw x r) | _ => none)
  | 0x40 => some (.br x w.bf)
  | 0x41 => some (.call x w.bf n)
  | 0x42 => (match w.minor with | 0x00 => some (.callr x r n) | 0x01 => some (.jmpr x r) | 0x02 => some (.jmprLk x r) | _ => none)
  | 0x44 => some (.svc x f)
  | 0x45 => (match w.minor with | 0x00 => some (.rfe x r) | 0x01 => some (.rfeC x r) | _ => none)
  | 0x46 => (match w.minor with | 0x00 => some (.rep x r n) | _ => none)
  | 0x48 => some (.mfc x r w.minor)
  | 0x49 => some (.mtc x r w.minor)
  | 0x4A => (match w.minor with | 0x00 => some (.fence x r) | 0x01 => some (.fenceS x r) | 0x02 => some (.fenceD x r) | 0x03 => some (.savebank x r) | 0x04 => some (.wait x r) | _ => none)
  | 0x4C => (match w.minor with | 0x00 => some (.rdtime x r) | 0x01 => some (.mflk x r) | 0x02 => some (.mtlk x r) | _ => none)
  | 0x4E => (match w.minor with | 0x00 => some (.tlbiV x r) | 0x01 => some (.tlbiI x r) | 0x02 => some (.tlbiA x r) | _ => none)
  | 0x50 => (match w.minor5 with | 0 => some (.fpadd x r w.fmt) | 1 => some (.fpsub x r w.fmt) | 2 => some (.fpmul x r w.fmt) | 3 => some (.fpmin x r w.fmt) | 4 => some (.fpmax x r w.fmt) | 5 => some (.fpmov x r w.fmt) | 6 => some (.fpneg x r w.fmt) | 7 => some (.fpabs x r w.fmt) | _ => none)
  | 0x51 => some (.fpfma x r w.fmt w.minor5)
  | 0x52 => some (.fpcmp x r w.fmt w.minorMid w.cc)
  | 0x53 => (match w.minorLo with | 0 => some (.fpcvtSD x r w.fmt w.unused2) | 1 => some (.fpcvtDS x r w.fmt w.unused2) | 2 => some (.fpcvtLD x r w.fmt w.unused2) | 3 => some (.fpcvtLS x r w.fmt w.unused2) | 4 => some (.fpcvtDL x r w.fmt w.unused2) | 5 => some (.fpcvtSL x r w.fmt w.unused2) | _ => none)
  | 0x54 => (match w.minor with | 0x00 => some (.mvgf x r) | 0x01 => some (.mvfg x r) | _ => none)
  | 0x55 => (match w.minor with | 0x00 => some (.fdstep x r) | 0x02 => some (.fdstepIs x r) | 0x03 => some (.fdstepId x r) | 0x04 => some (.fsstep x r) | 0x06 => some (.fsstepIs x r) | 0x07 => some (.fsstepId x r) | 0x08 => some (.fdfin x r) | _ => none)
  | 0x7F => (match w.minor with | 0x00 => some (.nop x r) | _ => none)
  | _ => none

/-! ## The word of a core instruction -/

/-- Format R. -/
def wordR (x : At) (major : BitVec 7) (r : RF) (minor : BitVec 6) : CWord := BitVec.ofBool x.stop ++ major ++ r.d ++ r.a ++ r.b ++ minor
/-- Format I. -/
def wordI (x : At) (major : BitVec 7) (d a : Reg) (imm : BitVec 12) : CWord := BitVec.ofBool x.stop ++ major ++ d ++ a ++ imm
/-- Formats L and B. -/
def wordL (x : At) (major : BitVec 7) (d : Reg) (imm : BitVec 18) : CWord := BitVec.ofBool x.stop ++ major ++ d ++ imm

/-- The major opcode of CMPI.cc (R117, R118). -/
def Cc.major : Cc → BitVec 7
  | .eq => 0x09
  | .ne => 0x0A
  | .lt => 0x0B
  | .ge => 0x0C
  | .ltu => 0x0D
  | .geu => 0x0E

/-- The word of a core instruction; none for a command that is no core instruction, for a row of CCTL effects (its word is that of MTC
8), and for an undefined opcode. -/
def encodeCore : Instr → Option CWord
  | .add x r => some (wordR x 0x01 r 0x00)
  | .sub x r => some (wordR x 0x01 r 0x01)
  | .andR x r => some (wordR x 0x01 r 0x02)
  | .orR x r => some (wordR x 0x01 r 0x03)
  | .xorR x r => some (wordR x 0x01 r 0x04)
  | .andn x r => some (wordR x 0x01 r 0x05)
  | .shl x r => some (wordR x 0x01 r 0x06)
  | .shr x r => some (wordR x 0x01 r 0x07)
  | .sar x r => some (wordR x 0x01 r 0x08)
  | .minS x r => some (wordR x 0x01 r 0x09)
  | .maxS x r => some (wordR x 0x01 r 0x0A)
  | .minu x r => some (wordR x 0x01 r 0x0B)
  | .maxu x r => some (wordR x 0x01 r 0x0C)
  | .clz x r => some (wordR x 0x01 r 0x0D)
  | .popc x r => some (wordR x 0x01 r 0x0E)
  | .addi x f => some (wordI x 0x02 f.d f.a f.imm)
  | .andi x f => some (wordI x 0x03 f.d f.a f.imm)
  | .ori x f => some (wordI x 0x04 f.d f.a f.imm)
  | .xori x f => some (wordI x 0x05 f.d f.a f.imm)
  | .shli x f => some (wordI x 0x06 f.d f.a (f.hi ++ 0#2 ++ f.sh))
  | .shri x f => some (wordI x 0x06 f.d f.a (f.hi ++ 1#2 ++ f.sh))
  | .sari x f => some (wordI x 0x06 f.d f.a (f.hi ++ 2#2 ++ f.sh))
  | .lim x d imm => some (wordL x 0x07 d imm)
  | .cmp x r c => some (wordR x 0x08 r c)
  | .cmpi x f cc => some (wordI x (cc.major) f.d f.a f.imm)
  | .sel x r c => some (wordR x 0x0F r c)
  | .band x r => some (wordR x 0x10 r 0x00)
  | .bor x r => some (wordR x 0x10 r 0x01)
  | .bxor x r => some (wordR x 0x10 r 0x02)
  | .bandn x r => some (wordR x 0x10 r 0x03)
  | .bnot x r => some (wordR x 0x10 r 0x04)
  | .bextr x r => some (wordR x 0x10 r 0x05)
  | .btog x r => some (wordR x 0x10 r 0x06)
  | .bext x f => some (wordI x 0x11 f.d f.a f.imm)
  | .mul x r => some (wordR x 0x14 r 0x00)
  | .mulh x r => some (wordR x 0x14 r 0x01)
  | .mulhu x r => some (wordR x 0x14 r 0x02)
  | .dinitD x r => some (wordR x 0x15 r 0x00)
  | .dinitDu x r => some (wordR x 0x15 r 0x01)
  | .dinitW x r => some (wordR x 0x15 r 0x02)
  | .dinitWu x r => some (wordR x 0x15 r 0x03)
  | .dstep x r => some (wordR x 0x15 r 0x08)
  | .dstepF x r => some (wordR x 0x15 r 0x09)
  | .dfin x r => some (wordR x 0x15 r 0x10)
  | .ldB x f => some (wordI x 0x20 f.d f.a f.imm)
  | .ldH x f => some (wordI x 0x21 f.d f.a f.imm)
  | .ldW x f => some (wordI x 0x22 f.d f.a f.imm)
  | .ldD x f => some (wordI x 0x23 f.d f.a f.imm)
  | .ldBu x f => some (wordI x 0x24 f.d f.a f.imm)
  | .ldHu x f => some (wordI x 0x25 f.d f.a f.imm)
  | .ldWu x f => some (wordI x 0x26 f.d f.a f.imm)
  | .stB x f => some (wordI x 0x28 f.d f.a f.imm)
  | .stH x f => some (wordI x 0x29 f.d f.a f.imm)
  | .stW x f => some (wordI x 0x2A f.d f.a f.imm)
  | .stD x f => some (wordI x 0x2B f.d f.a f.imm)
  | .ldfS x f => some (wordI x 0x2C f.d f.a f.imm)
  | .ldfD x f => some (wordI x 0x2D f.d f.a f.imm)
  | .stfS x f => some (wordI x 0x2E f.d f.a f.imm)
  | .stfD x f => some (wordI x 0x2F f.d f.a f.imm)
  | .cas x r sz => some (wordR x 0x30 r (0#3 ++ sz))
  | .swap x r sz => some (wordR x 0x30 r (1#3 ++ sz))
  | .faddA x r sz => some (wordR x 0x30 r (2#3 ++ sz))
  | .forA x r sz => some (wordR x 0x30 r (3#3 ++ sz))
  | .fandA x r sz => some (wordR x 0x30 r (4#3 ++ sz))
  | .cas2 x r sz => some (wordR x 0x30 r (5#3 ++ sz))
  | .bld x f => some (wordI x 0x31 f.d f.a f.imm)
  | .bst x f => some (wordI x 0x32 f.d f.a f.imm)
  | .bset x f => some (wordI x 0x33 f.d f.a f.imm)
  | .bclr x f => some (wordI x 0x34 f.d f.a f.imm)
  | .bflip x f => some (wordI x 0x35 f.d f.a f.imm)
  | .btas x r => some (wordR x 0x36 r 0x00)
  | .bxch x r => some (wordR x 0x36 r 0x01)
  | .smm x r => some (wordR x 0x38 r 0x00)
  | .lmm x r => some (wordR x 0x38 r 0x01)
  | .mvb x r => some (wordR x 0x39 r 0x00)
  | .mvl x r => some (wordR x 0x39 r 0x01)
  | .fill x r => some (wordR x 0x39 r 0x02)
  | .filll x r => some (wordR x 0x39 r 0x03)
  | .prefL1 x a imm => some (wordI x 0x3A 0 a imm)
  | .prefL1w x a imm => some (wordI x 0x3A 1 a imm)
  | .prefL2 x a imm => some (wordI x 0x3A 2 a imm)
  | .prefL3 x a imm => some (wordI x 0x3A 3 a imm)
  | .clean x a imm => some (wordI x 0x3B 0 a imm)
  | .inval x a imm => some (wordI x 0x3B 1 a imm)
  | .clinv x a imm => some (wordI x 0x3B 2 a imm)
  | .cleanSw x r => some (wordR x 0x3C r 0x00)
  | .invalSw x r => some (wordR x 0x3C r 0x01)
  | .clinvSw x r => some (wordR x 0x3C r 0x02)
  | .br x f => some (wordL x 0x40 f.c f.disp)
  | .call x f _ => some (wordL x 0x41 f.c f.disp)
  | .callr x r _ => some (wordR x 0x42 r 0x00)
  | .jmpr x r => some (wordR x 0x42 r 0x01)
  | .jmprLk x r => some (wordR x 0x42 r 0x02)
  | .svc x f => some (wordI x 0x44 f.d f.a f.imm)
  | .rfe x r => some (wordR x 0x45 r 0x00)
  | .rfeC x r => some (wordR x 0x45 r 0x01)
  | .rep x r _ => some (wordR x 0x46 r 0x00)
  | .mfc x r n => some (wordR x 0x48 r n)
  | .mtc x r n => some (wordR x 0x49 r n)
  | .fence x r => some (wordR x 0x4A r 0x00)
  | .fenceS x r => some (wordR x 0x4A r 0x01)
  | .fenceD x r => some (wordR x 0x4A r 0x02)
  | .savebank x r => some (wordR x 0x4A r 0x03)
  | .wait x r => some (wordR x 0x4A r 0x04)
  | .rdtime x r => some (wordR x 0x4C r 0x00)
  | .mflk x r => some (wordR x 0x4C r 0x01)
  | .mtlk x r => some (wordR x 0x4C r 0x02)
  | .tlbiV x r => some (wordR x 0x4E r 0x00)
  | .tlbiI x r => some (wordR x 0x4E r 0x01)
  | .tlbiA x r => some (wordR x 0x4E r 0x02)
  | .fpadd x r fmt => some (wordR x 0x50 r (BitVec.ofBool fmt ++ 0#5))
  | .fpsub x r fmt => some (wordR x 0x50 r (BitVec.ofBool fmt ++ 1#5))
  | .fpmul x r fmt => some (wordR x 0x50 r (BitVec.ofBool fmt ++ 2#5))
  | .fpmin x r fmt => some (wordR x 0x50 r (BitVec.ofBool fmt ++ 3#5))
  | .fpmax x r fmt => some (wordR x 0x50 r (BitVec.ofBool fmt ++ 4#5))
  | .fpmov x r fmt => some (wordR x 0x50 r (BitVec.ofBool fmt ++ 5#5))
  | .fpneg x r fmt => some (wordR x 0x50 r (BitVec.ofBool fmt ++ 6#5))
  | .fpabs x r fmt => some (wordR x 0x50 r (BitVec.ofBool fmt ++ 7#5))
  | .fpfma x r fmt c => some (wordR x 0x51 r (BitVec.ofBool fmt ++ c))
  | .fpcmp x r fmt z cc => some (wordR x 0x52 r (BitVec.ofBool fmt ++ z ++ cc))
  | .fpcvtSD x r t z => some (wordR x 0x53 r (BitVec.ofBool t ++ z ++ 0#3))
  | .fpcvtDS x r t z => some (wordR x 0x53 r (BitVec.ofBool t ++ z ++ 1#3))
  | .fpcvtLD x r t z => some (wordR x 0x53 r (BitVec.ofBool t ++ z ++ 2#3))
  | .fpcvtLS x r t z => some (wordR x 0x53 r (BitVec.ofBool t ++ z ++ 3#3))
  | .fpcvtDL x r t z => some (wordR x 0x53 r (BitVec.ofBool t ++ z ++ 4#3))
  | .fpcvtSL x r t z => some (wordR x 0x53 r (BitVec.ofBool t ++ z ++ 5#3))
  | .mvgf x r => some (wordR x 0x54 r 0x00)
  | .mvfg x r => some (wordR x 0x54 r 0x01)
  | .fdstep x r => some (wordR x 0x55 r 0x00)
  | .fdstepIs x r => some (wordR x 0x55 r 0x02)
  | .fdstepId x r => some (wordR x 0x55 r 0x03)
  | .fsstep x r => some (wordR x 0x55 r 0x04)
  | .fsstepIs x r => some (wordR x 0x55 r 0x06)
  | .fsstepId x r => some (wordR x 0x55 r 0x07)
  | .fdfin x r => some (wordR x 0x55 r 0x08)
  | .nop x r => some (wordR x 0x7F r 0x00)
  | _ => none

/-- The logical core of a core instruction, and what no word holds of it. -/
def coreAt : Instr → Nat × Nat
  | .add x _ => (x.lc, 0)
  | .sub x _ => (x.lc, 0)
  | .andR x _ => (x.lc, 0)
  | .orR x _ => (x.lc, 0)
  | .xorR x _ => (x.lc, 0)
  | .andn x _ => (x.lc, 0)
  | .shl x _ => (x.lc, 0)
  | .shr x _ => (x.lc, 0)
  | .sar x _ => (x.lc, 0)
  | .minS x _ => (x.lc, 0)
  | .maxS x _ => (x.lc, 0)
  | .minu x _ => (x.lc, 0)
  | .maxu x _ => (x.lc, 0)
  | .clz x _ => (x.lc, 0)
  | .popc x _ => (x.lc, 0)
  | .addi x _ => (x.lc, 0)
  | .andi x _ => (x.lc, 0)
  | .ori x _ => (x.lc, 0)
  | .xori x _ => (x.lc, 0)
  | .shli x _ => (x.lc, 0)
  | .shri x _ => (x.lc, 0)
  | .sari x _ => (x.lc, 0)
  | .lim x _ _ => (x.lc, 0)
  | .cmp x _ _ => (x.lc, 0)
  | .sel x _ _ => (x.lc, 0)
  | .band x _ => (x.lc, 0)
  | .bor x _ => (x.lc, 0)
  | .bxor x _ => (x.lc, 0)
  | .bandn x _ => (x.lc, 0)
  | .bnot x _ => (x.lc, 0)
  | .bextr x _ => (x.lc, 0)
  | .btog x _ => (x.lc, 0)
  | .bext x _ => (x.lc, 0)
  | .mul x _ => (x.lc, 0)
  | .mulh x _ => (x.lc, 0)
  | .mulhu x _ => (x.lc, 0)
  | .dinitD x _ => (x.lc, 0)
  | .dinitDu x _ => (x.lc, 0)
  | .dinitW x _ => (x.lc, 0)
  | .dinitWu x _ => (x.lc, 0)
  | .dstep x _ => (x.lc, 0)
  | .dstepF x _ => (x.lc, 0)
  | .dfin x _ => (x.lc, 0)
  | .ldB x _ => (x.lc, 0)
  | .ldH x _ => (x.lc, 0)
  | .ldW x _ => (x.lc, 0)
  | .ldD x _ => (x.lc, 0)
  | .ldBu x _ => (x.lc, 0)
  | .ldHu x _ => (x.lc, 0)
  | .ldWu x _ => (x.lc, 0)
  | .stB x _ => (x.lc, 0)
  | .stH x _ => (x.lc, 0)
  | .stW x _ => (x.lc, 0)
  | .stD x _ => (x.lc, 0)
  | .ldfS x _ => (x.lc, 0)
  | .ldfD x _ => (x.lc, 0)
  | .stfS x _ => (x.lc, 0)
  | .stfD x _ => (x.lc, 0)
  | .cas x _ _ => (x.lc, 0)
  | .swap x _ _ => (x.lc, 0)
  | .faddA x _ _ => (x.lc, 0)
  | .forA x _ _ => (x.lc, 0)
  | .fandA x _ _ => (x.lc, 0)
  | .cas2 x _ _ => (x.lc, 0)
  | .bld x _ => (x.lc, 0)
  | .bst x _ => (x.lc, 0)
  | .bset x _ => (x.lc, 0)
  | .bclr x _ => (x.lc, 0)
  | .bflip x _ => (x.lc, 0)
  | .btas x _ => (x.lc, 0)
  | .bxch x _ => (x.lc, 0)
  | .smm x _ => (x.lc, 0)
  | .lmm x _ => (x.lc, 0)
  | .mvb x _ => (x.lc, 0)
  | .mvl x _ => (x.lc, 0)
  | .fill x _ => (x.lc, 0)
  | .filll x _ => (x.lc, 0)
  | .prefL1 x _ _ => (x.lc, 0)
  | .prefL1w x _ _ => (x.lc, 0)
  | .prefL2 x _ _ => (x.lc, 0)
  | .prefL3 x _ _ => (x.lc, 0)
  | .clean x _ _ => (x.lc, 0)
  | .inval x _ _ => (x.lc, 0)
  | .clinv x _ _ => (x.lc, 0)
  | .cleanSw x _ => (x.lc, 0)
  | .invalSw x _ => (x.lc, 0)
  | .clinvSw x _ => (x.lc, 0)
  | .br x _ => (x.lc, 0)
  | .call x _ n => (x.lc, n)
  | .callr x _ n => (x.lc, n)
  | .jmpr x _ => (x.lc, 0)
  | .jmprLk x _ => (x.lc, 0)
  | .svc x _ => (x.lc, 0)
  | .rfe x _ => (x.lc, 0)
  | .rfeC x _ => (x.lc, 0)
  | .rep x _ n => (x.lc, n)
  | .mfc x _ _ => (x.lc, 0)
  | .mtc x _ _ => (x.lc, 0)
  | .fence x _ => (x.lc, 0)
  | .fenceS x _ => (x.lc, 0)
  | .fenceD x _ => (x.lc, 0)
  | .savebank x _ => (x.lc, 0)
  | .wait x _ => (x.lc, 0)
  | .rdtime x _ => (x.lc, 0)
  | .mflk x _ => (x.lc, 0)
  | .mtlk x _ => (x.lc, 0)
  | .tlbiV x _ => (x.lc, 0)
  | .tlbiI x _ => (x.lc, 0)
  | .tlbiA x _ => (x.lc, 0)
  | .fpadd x _ _ => (x.lc, 0)
  | .fpsub x _ _ => (x.lc, 0)
  | .fpmul x _ _ => (x.lc, 0)
  | .fpmin x _ _ => (x.lc, 0)
  | .fpmax x _ _ => (x.lc, 0)
  | .fpmov x _ _ => (x.lc, 0)
  | .fpneg x _ _ => (x.lc, 0)
  | .fpabs x _ _ => (x.lc, 0)
  | .fpfma x _ _ _ => (x.lc, 0)
  | .fpcmp x _ _ _ _ => (x.lc, 0)
  | .fpcvtSD x _ _ _ => (x.lc, 0)
  | .fpcvtDS x _ _ _ => (x.lc, 0)
  | .fpcvtLD x _ _ _ => (x.lc, 0)
  | .fpcvtLS x _ _ _ => (x.lc, 0)
  | .fpcvtDL x _ _ _ => (x.lc, 0)
  | .fpcvtSL x _ _ _ => (x.lc, 0)
  | .mvgf x _ => (x.lc, 0)
  | .mvfg x _ => (x.lc, 0)
  | .fdstep x _ => (x.lc, 0)
  | .fdstepIs x _ => (x.lc, 0)
  | .fdstepId x _ => (x.lc, 0)
  | .fsstep x _ => (x.lc, 0)
  | .fsstepIs x _ => (x.lc, 0)
  | .fsstepId x _ => (x.lc, 0)
  | .fdfin x _ => (x.lc, 0)
  | .nop x _ => (x.lc, 0)
  | .cmpi x _ _ => (x.lc, 0)
  | _ => (0, 0)

/-- The minor of CMP names a condition (R118); every other field of a core instruction may hold any value. -/
def coreWord : Instr → Bool
  | .cmp _ _ cc => decide (cc.toNat < 6)
  | i => (encodeCore i).isSome

/-! ## Array instruction words (R450 to R458) -/

/-- An array instruction word. -/
abbrev AWord := BitVec 64

def AWord.cls (w : AWord) : BitVec 4 := w.extractLsb' 60 4
def AWord.op (w : AWord) : BitVec 6 := w.extractLsb' 54 6
/-- The fields of CLASS 1 to 6 (R456). -/
def AWord.fields (w : AWord) : SqOp :=
  { d := w.extractLsb' 50 4, a := w.extractLsb' 46 4, b := w.extractLsb' 42 4, z := w.extractLsb' 32 10, imm := w.extractLsb' 0 32 }
/-- The fields of a CELL instruction (R450). -/
def AWord.cell (w : AWord) : CellOp :=
  { slot := w.extractLsb' 56 4, i0 := w.extractLsb' 51 5, i1 := w.extractLsb' 46 5, i2 := w.extractLsb' 41 5, rd := w.extractLsb' 38 3, cd := w.getLsbD 37,
    gang := w.getLsbD 36, pr := w.extractLsb' 26 10, pw := w.extractLsb' 16 10, rix := w.extractLsb' 12 4, wix := w.extractLsb' 8 4, gle := w.getLsbD 7,
    gln := w.extractLsb' 4 3, ors := w.extractLsb' 1 3, z := w.getLsbD 0 }

/-- The array instruction that a word names at sequencer q; none for a CLASS or an OP that is not defined (R457, R458). -/
def decodeArray (q : Nat) (w : AWord) : Option Instr :=
  let o := w.fields
  match w.cls with
  | 0 => some (.cell q w.cell)
  | 1 => (match w.op with | 0 => some (.sadd q o) | 1 => some (.ssub q o) | 2 => some (.sand q o) | 3 => some (.sor q o) | 4 => some (.sxor q o) | 5 => some (.sshl q o) | 6 => some (.sshr q o) | 7 => some (.saddi q o) | 8 => some (.sli q o) | 9 => some (.slih q o) | _ => none)
  | 2 => (match w.op with | 0 => some (.sqBr q o) | 1 => some (.bz q o) | 2 => some (.bnz q o) | 3 => some (.sqBor q o) | 4 => some (.sqBnor q o) | 5 => some (.loop q o) | _ => none)
  | 3 => (match w.op with | 0 => some (.xfer q o) | 1 => some (.xwait q o) | 2 => some (.lockw q o) | 3 => some (.ulockw q o) | _ => none)
  | 4 => (match w.op with | 0 => some (.glset q o) | 1 => some (.orrd q o) | _ => none)
  | 5 => (match w.op with | 0 => some (.sbset q o) | 1 => some (.sbclr q o) | 2 => some (.sbld q o) | 3 => some (.sbwait q o) | _ => none)
  | 6 => (match w.op with | 0 => some (.sqNop q o) | 1 => some (.done q o) | 2 => some (.note q o) | 3 => some (.capture q o) | _ => none)
  | _ => none

/-- A word of CLASS 1 to 6. -/
def wordA (cls : BitVec 4) (op : BitVec 6) (o : SqOp) : AWord := cls ++ op ++ o.d ++ o.a ++ o.b ++ o.z ++ o.imm

/-- The word of a CELL instruction. -/
def wordCell (c : CellOp) : AWord :=
  0#4 ++ c.slot ++ c.i0 ++ c.i1 ++ c.i2 ++ c.rd ++ BitVec.ofBool c.cd ++ BitVec.ofBool c.gang ++ c.pr ++ c.pw ++ c.rix ++ c.wix ++ BitVec.ofBool c.gle
    ++ c.gln ++ c.ors ++ BitVec.ofBool c.z

/-- The word of an array instruction, with its sequencer. -/
def encodeArray : Instr → Option (Nat × AWord)
  | .cell q c => some (q, wordCell c)
  | .sadd q o => some (q, wordA 1 0 o)
  | .ssub q o => some (q, wordA 1 1 o)
  | .sand q o => some (q, wordA 1 2 o)
  | .sor q o => some (q, wordA 1 3 o)
  | .sxor q o => some (q, wordA 1 4 o)
  | .sshl q o => some (q, wordA 1 5 o)
  | .sshr q o => some (q, wordA 1 6 o)
  | .saddi q o => some (q, wordA 1 7 o)
  | .sli q o => some (q, wordA 1 8 o)
  | .slih q o => some (q, wordA 1 9 o)
  | .sqBr q o => some (q, wordA 2 0 o)
  | .bz q o => some (q, wordA 2 1 o)
  | .bnz q o => some (q, wordA 2 2 o)
  | .sqBor q o => some (q, wordA 2 3 o)
  | .sqBnor q o => some (q, wordA 2 4 o)
  | .loop q o => some (q, wordA 2 5 o)
  | .xfer q o => some (q, wordA 3 0 o)
  | .xwait q o => some (q, wordA 3 1 o)
  | .lockw q o => some (q, wordA 3 2 o)
  | .ulockw q o => some (q, wordA 3 3 o)
  | .glset q o => some (q, wordA 4 0 o)
  | .orrd q o => some (q, wordA 4 1 o)
  | .sbset q o => some (q, wordA 5 0 o)
  | .sbclr q o => some (q, wordA 5 1 o)
  | .sbld q o => some (q, wordA 5 2 o)
  | .sbwait q o => some (q, wordA 5 3 o)
  | .sqNop q o => some (q, wordA 6 0 o)
  | .done q o => some (q, wordA 6 1 o)
  | .note q o => some (q, wordA 6 2 o)
  | .capture q o => some (q, wordA 6 3 o)
  | _ => none

end Sys2Proof
end

