-- ==== Sys2Proof/Config.lean ====
section
/-! DEFINITION. The free values: constants without a body, for what the spec leaves open or takes from a
standard outside it. No proof can see what they are; a statement holds whatever they are. -/

namespace Sys2Proof.Config

/-- A value the spec leaves open, drawn with the state's counter freeCtr (log entry 5). Raised nowhere else. -/
opaque free : Nat → Word

/-- The 64 KiB unit of near memory, of 11,264 from 0x13_D200_0000 on, that backs a part of 2^19 bits of an instance's dirty-page log (R616, R647; log entry
145). -/
opaque logUnit : (inst part : Nat) → Nat

/-- The value of a counter of events whose clock-by-clock occurrence the model leaves out: draw number and
counter index (R770, R773; log entry 6). -/
opaque freeCount : Nat → Nat → BitVec 48

/-- The two check symbols of a codeword from its stripe's number and its ten data symbols: the Reed-Solomon code over GF(2^16) whose field and
points the spec does not give (R633; log entry 139). -/
opaque rsCheck : (stripe : Nat) → (data : List (BitVec 16)) → BitVec 16 × BitVec 16

/-- The position to which a codeword with symbols in error at several positions decodes, from 12 on for none (R633, R637; log entry 139). -/
opaque rsPosition : (stripe codeword : Nat) → (wrong : List Nat) → Nat

/-- The symbol that is delivered, and written back by a scrub or a write, at a position of a codeword in which symbols at several positions are wrong and which
yet decodes to a correction at one device (R637; log entry 139). -/
opaque rsWrong : (stripe codeword position : Nat) → BitVec 16

/-- A byte of a far block as it reaches the RX9 when its check fails twice: what a write of a part of a line merges with (R654; log entry 178). -/
opaque farWrong : (address : Nat) → BitVec 8

/-- The coded form of a block in DEFLATE after its first header bit, by chain length, search depth and the input within the window before it (R552;
log entry 7). -/
opaque deflateBlock : (chain depth : Nat) → (window : List Byte) → List Byte → List Bool

/-- The coded form of a block in Zstandard after its header (R552; log entry 7). -/
opaque zstdBlock : (chain depth : Nat) → (window : List Byte) → List Byte → List Byte

/-- FLEVEL of a zlib header by level (R550; log entry 162). -/
opaque zlibLevel : Nat → Nat

/-- The output of a compressed block of Zstandard, by the compressed blocks before it and the output so far; none when it is malformed (R551; log
entry 7). -/
opaque zstdDecode : (blocks : List (List Byte)) → (out : List Byte) → List Byte → Option (List Byte)

/-- The input bytes consumed when the decompressor stops at an output limit (R557; log entry 7). -/
opaque consumedAt : (fmt limit : Nat) → List Byte → Nat

/-- The digest of KHASH by ALG 0x10 to 0x14 (R563, R566; log entry 7). -/
opaque hash : (alg : Nat) → List Byte → List Byte

/-- The MAC of KHMAC by ALG and key (log entry 7). -/
opaque hmac : (alg : Nat) → (key : List Byte) → List Byte → List Byte

/-- AES-GCM encryption: ciphertext and full 16-byte tag (R566; log entry 7). -/
opaque gcmEnc : (key iv aad : List Byte) → List Byte → List Byte × List Byte

/-- AES-GCM decryption without the tag check: plaintext and the tag that the data should carry (log entry 7). -/
opaque gcmDec : (key iv aad : List Byte) → List Byte → List Byte × List Byte

/-- AES-XTS encryption of one data unit under its tweak (R566; log entry 7). -/
opaque xtsEnc : (key : List Byte) → (tweak : Nat) → List Byte → List Byte

/-- AES-XTS decryption of one data unit (log entry 7). -/
opaque xtsDec : (key : List Byte) → (tweak : Nat) → List Byte → List Byte

/-- The ECDSA signature of a digest by key type and key, its nonce under RFC 6979 (R566, R567; log entry 7). -/
opaque ecdsaSign : (alg : Nat) → (key digest : List Byte) → List Byte

/-- Whether an ECDSA signature of a digest verifies (R566; log entry 7). -/
opaque ecdsaVerify : (alg : Nat) → (key digest sig : List Byte) → Bool

/-- The deterministic ML-DSA signature by key type, key, context string and message (R566, R567; log entry 7). -/
opaque mldsaSign : (alg : Nat) → (key ctx msg : List Byte) → List Byte

/-- Whether an ML-DSA signature verifies (R566; log entry 7). -/
opaque mldsaVerify : (alg : Nat) → (key ctx msg sig : List Byte) → Bool

/-- ML-KEM encapsulation with random bits: ciphertext and 32-byte secret (log entry 7). -/
opaque encap : (alg : Nat) → (key : List Byte) → (rnd : Word) → List Byte × List Byte

/-- ML-KEM decapsulation, implicit rejection included (R568; log entry 7). -/
opaque decap : (alg : Nat) → (key ct : List Byte) → List Byte

/-- Key generation from random bits: material and public key, empty for a secret key (R566; log entry 7). -/
opaque keygen : (alg : Nat) → (rnd : Word) → List Byte × List Byte

/-- RFC 3394 unwrapping: the material, or none when its check fails (R566; log entry 7). -/
opaque unwrap : (kek wrapped : List Byte) → Option (List Byte)

/-- The block size of a namespace that Identify Namespace finds as a path connects, by draw, endpoint and namespace: none when the controller reports no such
namespace (R814; log entry 156). -/
opaque nsFormat : (draw ep nsid : Nat) → Option Nat

/-- The bytes of a command of the device to a target whose coding the spec does not give: kind 0 login or connection, 1 Identify Namespace, 2 the clearing
of CC.EN, the closing of a connection or a logout (R540; log entry 179). -/
opaque cmdBytes : (kind ep path : Nat) → List Byte

/-- The hash of a flow's addresses and ports that chooses a path (R503; log entry 7). -/
opaque flowHash : List Byte → Nat

/-- Whether an NVMe opcode names an admin command that NVCMD refuses (R534; log entry 7). -/
opaque adminRefused : Nat → Bool

/-- Whether an image's signature verifies under the fused key of its index (R703; log entry 7). -/
opaque imageSig : List Byte → Bool

/-- SHA-384 of an image body (R702; log entry 7). -/
opaque sha384 : List Byte → List Byte

end Sys2Proof.Config
end

