-- ==== Sys2Proof/Machine/Tab.lean ====
section
/-! DEFINITION. Sparse tables with a default, in one canonical form: keys strictly rising and no entry equal to
the default, so that equal contents are equal data. Memory, register files and every numbered resource of
the device are held in them. Also the byte-order and bit-field helpers that every chapter uses. -/

namespace Sys2Proof.Machine

/-- A table from numbers to values; an unlisted number reads as the table's default. -/
abbrev Tab (α : Type) := List (Nat × α)

/-- The value at i, or the default. -/
def Tab.get {α : Type} (d : α) : Tab α → Nat → α
  | [], _ => d
  | (k, v) :: t, i => if k = i then v else Tab.get d t i

/-- Insert an entry before the first larger key. -/
def Tab.ins {α : Type} (i : Nat) (v : α) : Tab α → Tab α
  | [] => [(i, v)]
  | (k, w) :: t => if i < k then (i, v) :: (k, w) :: t else (k, w) :: Tab.ins i v t

/-- Drop every entry of key i. -/
def Tab.del {α : Type} (i : Nat) : Tab α → Tab α
  | [] => []
  | (k, w) :: t => if k = i then Tab.del i t else (k, w) :: Tab.del i t

/-- Write v at i; writing the default removes the entry. -/
def Tab.set {α : Type} [DecidableEq α] (d : α) (m : Tab α) (i : Nat) (v : α) : Tab α :=
  if v = d then Tab.del i m else Tab.ins i v (Tab.del i m)

/-- Every key is above b, keys rise, and no value is the default. -/
def Tab.wfFrom {α : Type} [DecidableEq α] (d : α) : Option Nat → Tab α → Bool
  | _, [] => true
  | b, (k, v) :: t => (match b with | none => true | some x => decide (x < k)) && decide (v ≠ d) && Tab.wfFrom d (some k) t

/-- The canonical form of a table. -/
def Tab.wf {α : Type} [DecidableEq α] (d : α) (m : Tab α) : Bool := Tab.wfFrom d none m

/-- Write the values of vs at i, i + 1, and so on. -/
def Tab.setMany {α : Type} [DecidableEq α] (d : α) : Tab α → Nat → List α → Tab α
  | m, _, [] => m
  | m, i, v :: vs => Tab.setMany d (Tab.set d m i v) (i + 1) vs

/-- The n values from i on. -/
def Tab.getMany {α : Type} (d : α) (m : Tab α) (i n : Nat) : List α := (List.range n).map (fun k => Tab.get d m (i + k))

/-! ## Bytes and fields -/

/-- Bits [lo + n - 1 : lo] of a number. -/
def fld (x lo n : Nat) : Nat := x / 2 ^ lo % 2 ^ n

/-- Bit i of a number. -/
def bit (x i : Nat) : Bool := x / 2 ^ i % 2 = 1

/-- Replace bits [lo + n - 1 : lo] of a word by the low n bits of v. -/
def putFld (w : Word) (lo n : Nat) (v : Nat) : Word :=
  let mask : Word := BitVec.ofNat 64 ((2 ^ n - 1) * 2 ^ lo)
  (w &&& ~~~mask) ||| (BitVec.ofNat 64 (v % 2 ^ n * 2 ^ lo))

/-- A Boolean as a number. -/
def b2n (b : Bool) : Nat := if b then 1 else 0

/-- The little-endian bytes of a number, n of them (R70). -/
def leBytes : Nat → Nat → List Byte
  | 0, _ => []
  | n + 1, x => BitVec.ofNat 8 x :: leBytes n (x / 256)

/-- The number that little-endian bytes spell (R70). -/
def ofLe : List Byte → Nat
  | [] => 0
  | b :: t => b.toNat + 256 * ofLe t

/-- The n little-endian bytes at offset o of a byte list, missing bytes taken as 0. -/
def leAt (bs : List Byte) (o n : Nat) : Nat := ofLe ((bs.drop o).take n)

/-- Bytes o to o + n - 1 of a list are all 0. -/
def zeroAt (bs : List Byte) (o n : Nat) : Bool := ((bs.drop o).take n).all (· == 0)

/-- Pad a byte list with zeros to at least n bytes. -/
def padTo (n : Nat) (bs : List Byte) : List Byte := bs ++ List.replicate (n - bs.length) 0

/-- The signed value of a 64-bit word, of an n-bit field. -/
def sx (n : Nat) (x : Nat) : Int := if x % 2 ^ n < 2 ^ (n - 1) then (x % 2 ^ n : Nat) else (x % 2 ^ n : Nat) - (2 ^ n : Nat)

/-- Clamp a number to n - 1 at most: a saturating count of that many values. -/
def satTo (top x : Nat) : Nat := if x ≤ top then x else top

/-- The first number below n that passes a test. -/
def firstBelow (n : Nat) (p : Nat → Bool) : Option Nat := (List.range n).find? p

/-- The entries of a sparse table whose key lies in [lo, hi), and the table with that range replaced. -/
def Tab.sliceOf {α : Type} (m : Tab α) (lo hi : Nat) : Tab α := m.filter (fun e => decide (lo ≤ e.1) && decide (e.1 < hi))
def Tab.putSlice {α : Type} (m : Tab α) (lo hi : Nat) (v : Tab α) : Tab α :=
  m.filter (fun e => decide (e.1 < lo)) ++ v ++ m.filter (fun e => decide (hi ≤ e.1))

/-- The key of counter i of pair n in the tables of counters; a counter outside the cores has its value address as key. -/
def perfKey (n i : Nat) : Nat := 256 * n + i

end Sys2Proof.Machine
end

