-- ==== Sys2Proof/Machine/State.lean ====
section
/-! DEFINITION. The state of the module: everything the spec gives it, as plain data, every field with its value
at the release of a cold reset. Every structure's field defaults are those reset values; a table lists only
what differs from its default. -/

namespace Sys2Proof.Machine

/-! ## Device time (01) -/

/-- The measurements of one phase source (R36, R37): the offsets of the consecutive measurements taken so
far, newest first and at most four, whether it has qualified, how many offsets in a row were small, and what remains of the last offset: less
what the loop has removed since (R38, R45, R46). -/
structure SrcMeas where
  offs : List Int := []
  qualified : Bool := false
  small : Nat := 0
  left : Int := 0
deriving DecidableEq, Repr

/-- Device time: DTIME, DSTAT, DTOFS and the discipline loop (R31 to R49). removed: the part of a nanosecond that the loop has
removed beyond what DTOFS shows, in 1/(2,048 × 9,999) ns with device time ahead and in 1/(2,048 × 10,001) ns with it behind (R35, R38);
edge: what acts now acts at the tick's boundary, where every timeout ends, and not within the tick (R52, 10 R526). -/
structure TimeSt where
  dtime : Word := 0
  ticks : Nat := 0
  unsync : Bool := true
  hold : Bool := false
  hold24 : Bool := false
  lock : Bool := false
  slew : Bool := false
  flock : Bool := false
  loss : Bool := false
  phsrc : BitVec 2 := 0
  frsrc : BitVec 2 := 0
  offset : BitVec 12 := 0
  dtofs : Word := 0
  removed : Nat := 0
  pref1 : BitVec 2 := 0
  pref2 : BitVec 2 := 0
  trefhz : BitVec 2 := 0
  ppsdly : BitVec 16 := 0
  ptpport : BitVec 6 := 0
  ptpdomain : BitVec 8 := 0
  pps : SrcMeas := {}
  ptp : SrcMeas := {}
  gmid : Word := 0
  disagree : Nat := 0
  freqHist : List (Nat × Int) := []
  freqHeld : Int := 0
  setTime : Option (Nat × Nat) := none
  rebases : List Int := []
  edge : Bool := false
deriving DecidableEq, Repr

/-! ## Logical cores (02, 03, 05, 06, 07) -/

/-- One entry of a pending-result record, as PRDESC and PRVAL show it (R231). -/
structure RecEntry where
  valid : Bool := false
  fflags : BitVec 5 := 0
  left : BitVec 2 := 0
  dest : BitVec 8 := 0
  val : Word := 0
deriving DecidableEq, Repr

/-- A register bank with its bank status (R58). dly: the next group is a delay group; dfall: its branch was not taken,
so that execution goes on at the word after the delay group, else at dtarget (R99, R108); fpx: the frame reserved for
the bank has the FP extension (R225); pcLow: the low bits of a misaligned target at which an interrupt or a machine check
has been taken in place of its IALIGN trap, so that the group traps after RFE (R240, R242; log entry 121); pois: the poison in flight, beats left and
address, at the entry of a machine check, which is consumed after the return (R243; log entry 122). -/
structure Bank where
  pcLow : BitVec 2 := 0
  g : Tab Word := []
  b : Tab Bool := []
  lk : Word := 0
  priv : BitVec 2 := 0
  ipl : BitVec 3 := 0
  ie : Bool := false
  ct : Bool := false
  repact : Bool := false
  dly : Bool := false
  dfall : Bool := false
  dtarget : Word := 0
  fpx : Bool := false
  cepc : Word := 0
  ccause : Word := 0
  cbada : Word := 0
  mprog : Word := 0
  cframe : Word := 0
  prec : Tab RecEntry := []
  pois : List (Nat × Nat) := []
deriving DecidableEq, Repr

/-- The destination of a result in flight; nowhere stands for a PRDESC.DEST, code, that names nothing (05 R231); block for a
block move whose read is a miss and which gives no result (03 R152); poison for data that came as poison from an address: it lands nowhere, and the group
of its delivery beat consumes it (05 R243). -/
inductive Dst where
  | g (r : Nat)
  | f (r : Nat)
  | b (r : Nat)
  | lk
  | nowhere (code : Nat)
  | block
  | poison (pa : Nat)
deriving DecidableEq, Repr

/-- A result in flight: it lands at the end of the beat in which left reaches 0 (R90, R91); wait names the
miss whose data it needs; flags are ORed into FSTAT as it lands (R65); once: it is the result of a once-only access
(06 R268). -/
structure Flight where
  dst : Dst
  val : Word
  left : Nat
  flags : BitVec 5 := 0
  wait : Option Nat := none
  once : Bool := false
deriving DecidableEq, Repr

/-- A write of a bit through its access code (R139). -/
inductive BitOp where
  | put (v : Bool)
  | flip
deriving DecidableEq, Repr

/-- Maintenance by address (R355). -/
inductive MaintOp where
  | clean | inval | clinv
deriving DecidableEq, Repr

/-- What a store-buffer entry holds (R312): bytes within an aligned 16-byte block, or a whole line of MVL or FILLL,
which takes the room of 8 entries. A scratchpad store keeps its physical address (R331, R333). hole: the place of a block
move's write whose read, miss id, has no data yet, with the room that it takes (03 R152, R307). -/
inductive SbKind where
  | mem (pa : Nat) (bs : List Byte) (uc : Bool)
  | scr (pa : Nat) (bs : List Byte)
  | dev (pa size : Nat) (val : Word) (h : Bool)
  | bitw (ba : Nat) (op : BitOp)
  | maint (op : MaintOp) (line : Nat)
  | hole (id : Nat) (weight : Nat)
deriving DecidableEq, Repr

/-- The architectural state of a logical core: what a checkpoint covers (06, Checkpoints and sealing). repLeft: the latched
count of a repeat that stands between two iterations (03 R171); tas: a repeated BTAS waits for its bit; repStep: a repeated step ends
early when its state at F (true) or G register d is complete (03 R174); rest: the
store-buffer entries of an SMM or SAVEBANK that have not entered yet, when a full buffer has stopped it (02 R97); pos:
the architectural beats that the core has run in RX7-compatible mode (06 R298). -/
structure Arch where
  banks : Tab Bank := [(0, { priv := 2 })]
  bank : Nat := 0
  f : Tab Word := []
  fstat : Word := 0
  fpu : Bool := false
  cvbar : Word := 0
  hvbar : Word := 0
  ssp : Word := 0
  hsp : Word := 0
  vpend : Word := 0
  vmask : Word := 0
  prsel : BitVec 5 := 0
  pmsel : BitVec 8 := 0
  pmfsel : BitVec 3 := 0
  pc : Word := 0
  infl : List Flight := []
  repLeft : Option Nat := none
  tas : Bool := false
  repStep : Option (Bool × Nat) := none
  rest : List SbKind := []
  pos : Nat := 0
deriving DecidableEq, Repr

/-- What a logical core is doing (R220, R266, R288, R804). -/
inductive RunSt where
  | notStarted | running | stopped | offline | halted
deriving DecidableEq, Repr

/-- The causes of R97 that begin at one command and end at another. -/
inductive Freeze where
  | subnormal | agreement | restore | cacheClean | sparing
deriving DecidableEq, Repr

/-- How the data of a load is extended into its register (R125). -/
inductive Ext where
  | zero | sign
deriving DecidableEq, Repr

/-- The read-modify-writes of R130. -/
inductive RmwOp where
  | cas | swap | add | or | and
deriving DecidableEq, Repr

/-- How a loaded value is extended. -/
abbrev LdExt := Nat × Ext

/-- Where the data of a miss comes from: pieces of memory or of the scratchpad, address, region type (R328) and length, on which
the core's older stores that still wait then are laid (R314); a bit, a control-space register, a DEV access to an endpoint, an
atomic or a bit read-modify-write that is performed when its turn comes, a value already fixed, or the bytes that a block move
has read from L1D and not yet written. -/
inductive MissSrc where
  | parts (ps : List (Nat × Nat × Nat)) (x : LdExt)
  | bitAt (ba : Nat)
  | ctl (pa size : Nat) (h : Bool) (x : LdExt)
  | dev (x : LdExt)
  | rmw (op : RmwOp) (pa n mt : Nat) (exp v : Word)
  | cas2 (pa mt : Nat) (elo ehi vlo vhi : Word)
  | bitRmw (ba : Nat) (v : Bool)
  | fixed
  | data (bs : List Byte)
deriving DecidableEq, Repr

/-- A miss (R96): its number, its source, its address, the older store-buffer entries that must leave first
(R314, R317, R338), its key in the once-only log when it is a once-only access (R274), and for a block move the slot it
stands in and the pieces (physical address, bytes, region type) that its data is then written to, and whether by level
H. older: the store-buffer entries older than it, which forward to a read (R314), and of which none younger leaves before it has
been performed (R313, R338). hit: no miss but an L1D hit behind
an older access that has not been performed; it is performed as soon as that one has been (R313). ex: the execution of its group that
made it (Core.exec). -/
structure Miss where
  id : Nat
  src : MissSrc
  addr : Nat
  ahead : Nat := 0
  key : Option Nat := none
  move : Option (Nat × List (Nat × Nat × Nat) × Bool) := none
  older : Nat := 0
  hit : Bool := false
  ex : Nat := 0
deriving DecidableEq, Repr

/-- A store-buffer entry; cov is 0 until a capture covers it, 1 until that capture is sealed, then 2 (R272). -/
structure SbEntry where
  kind : SbKind
  cov : BitVec 2 := 0
deriving DecidableEq, Repr

/-- The barrier that a core waits on (R321 to R323, R372). -/
inductive Barrier where
  | fence | fenceS | fenceD
  | tlbiV (va inst : Nat)
  | tlbiI (inst : Nat)
  | tlbiA
deriving DecidableEq, Repr

/-- Where an access through a DEV window goes on PCIe: an address of memory space, or a register of configuration space (10 R506). -/
inductive PcieAddr where
  | memory (addr : Nat)
  | config (bus dev fn reg : Nat)
deriving DecidableEq, Repr

/-- A DEV access sent and not complete (R338, R340): with the tick in which it left the core, and the timeout, the
endpoint, WACK and PCIe address of its window as they stood then (R341, 10 R506, R508, R509), and the execution that made it. -/
structure DevAcc where
  pa : Nat
  size : Nat
  write : Bool
  val : Word
  miss : Option Nat
  key : Option Nat := none
  sent : Nat := 0
  tmo : Nat := 64
  ep : Nat := 0
  wack : Bool := true
  ex : Nat := 0
  tgt : PcieAddr := .memory 0
deriving DecidableEq, Repr

/-- An entry of the once-only log (R274, R275): its access, its result, whether a capture since covers it, and whether
a rollback has made it wait for the access to be executed again; ex: the execution of the group that made it. -/
structure OnceEnt where
  key : Nat
  val : Word
  cap : Bool := false
  again : Bool := false
  ex : Nat := 0
deriving DecidableEq, Repr

/-- An asynchronous input presented to the synchronisers of a pair (R262). -/
structure InputReq where
  kind : InKind
  e : Option Sample
  o : Option Sample
  id : Nat := 0
deriving DecidableEq, Repr

/-- The translation context of a logical core (R363). -/
structure Lctx where
  inst : Nat := 0
  hxen : Bool := false
  gen : Bool := true
  vaw : Nat := 57
  groot : Word := 0
  hroot : Word := 0
  hxroot : Word := 0
deriving DecidableEq, Repr

/-- A TLB entry (R370): the stage it belongs to (0 guest, 1 hypervisor, 2 level H), its instance, its level,
the input page, and what the leaf gives. table: a non-leaf entry, whose oa is the table of the next level. -/
structure TlbEntry where
  stage : Nat
  inst : Nat
  lvl : Nat
  page : Nat
  oa : Nat
  perms : BitVec 4
  mt : BitVec 3
  table : Bool := false
deriving DecidableEq, Repr

/-- The trap causes of R239. -/
inductive Cause where
  | ialign | ipage | illgrp | illop | priv | fpdis | illrep | dalign | bspace | dtype | dpage
  | svc | bankx | mchk | intr
deriving DecidableEq, Repr

/-- A trap with what CCAUSE and CBADA record of it (R241), the slot it arose in, whether the event has level H
(R239), the priority of an interrupt (R222), the moderation interval it began with (R250), and the IPA of a
hypervisor-stage fault (07 R366). hole: the table entry that nothing backs, at which the walk of a translation fault read all ones
(07 R333, R369). -/
structure Trap where
  cause : Cause
  info : Nat := 0
  bada : Nat := 0
  slot : Nat := 0
  hyp : Bool := false
  prio : Nat := 0
  modt : Nat := 0
  fipa : Option Nat := none
  hole : Option Nat := none
deriving DecidableEq, Repr

/-- One load of R125: bytes, extension, F register or not. -/
structure LdOp where
  n : Nat
  e : Ext
  dst : Dst
  ea : Word
deriving DecidableEq, Repr

/-- What an instruction of a group does when the group issues. Register-only results are computed from the
sources as the slot is formed, since no register changes before the group issues (R88). -/
inductive SlotOp where
  | land (fs : List Flight)
  | load (o : LdOp)
  | store (n : Nat) (ea v : Word) (fp : Bool)
  | atomic (op : RmwOp) (n : Nat) (ea exp v : Word) (d : Nat)
  | cas2 (ea elo ehi vlo vhi : Word) (d : Nat)
  | bitRead (ba : Word) (d : Nat)
  | bitWrite (op : BitOp) (bs : Option Nat) (a : Nat) (imm : Word)
  | bitTas (a d : Nat)
  | bitXch (ba : Word) (v : Bool) (d : Nat)
  | smm (a b : Nat)
  | lmm (a b : Nat)
  | mvb (d a : Nat)
  | mvl (d a : Nat)
  | fill (d b : Nat)
  | filll (d b : Nat)
  | pref (lvl : Nat) (ea : Word)
  | maint (op : MaintOp) (ea : Word)
  | branch (taken : Bool) (target : Word) (link : Option Word) (n : Nat)
  | mfc (d n : Nat)
  | rdtime (d : Nat)
  | dstep (d : Nat)
  | dstepF (d : Nat)
  | fstep (d : Nat)
  | rep (a : Nat) (upto : Nat)
  | serial
  | nop
deriving DecidableEq, Repr

/-- A slot of the group being formed: the operation, the issue classes it counts in (R83), whether it is
serialising, SVC, RFE or REP (R84, R85), SMM or LMM (03 R144), a freezing operation with a subnormal or constant-time cause (R210,
R212), and the trap its own checks at decode give. -/
structure Slot where
  op : SlotOp
  mem : Bool := false
  fp : Bool := false
  md : Bool := false
  ct : Bool := false
  serial : Bool := false
  noDelay : Bool := false
  multi : Bool := false
  sub : Bool := false
  freezing : Bool := false
  trap : Option Trap := none
  regs : List Nat := []
  wr : List Nat := []
deriving DecidableEq, Repr

/-- A filter set of the counters (17 R775, R776). -/
structure Filt where
  cls : BitVec 8 := 255
  ins : BitVec 13 := 0
  ien : Bool := false
  half : BitVec 2 := 0
  priv : BitVec 3 := 7
  lo : BitVec 52 := 0
  hi : BitVec 52 := 0xFFFFFFFFFFFFF
deriving DecidableEq, Repr

/-- A checkpoint slot (R268): the architectural state, whether the core stood in WAIT, VPEND arrivals agreed since its
capture (R277), the loads that had no data yet, which a restore requests again (R276), the translation context in effect
(07 R364), and the control registers that the pair holds: CCTL, PMCFG by index and the filter sets. -/
structure Ckpt where
  arch : Arch := {}
  waiting : Bool := false
  agreed : Word := 0
  misses : List Miss := []
  lctxCur : Lctx := {}
  cctl : Word := 15
  cfgs : Tab Word := []
  filts : Tab Filt := []
deriving DecidableEq, Repr

/-- A logical core. haltReq: the procedures that hold the halt request up, 0 for re-pairing and m + 1 for the core-pair command of mailbox
m (R267); halting: an agreed halt stops it at its next sealed boundary (R266); rlog: in RX7-compatible mode, the
load responses, none for one that came as poison, and agreed inputs that O has not consumed yet, each with its position in E's stream (R299); groups: the
issue groups since the last capture in that mode (R300); acks: the vectors whose event acknowledge waits there for a
comparison (R257, R300); capDue: a once-only access has its result or a DEV store is complete, and the capture that
follows has not been taken (R268); exec: how many captures have been made, of which one comes before every execution of a group with a once-only access and tells it from the others
(R268, R275); mchkIn and
vecIn: the machine check that an entry not yet sealed has taken, and by vector the next delivery before one, which a rollback brings back (R289). -/
structure Core where
  arch : Arch := {}
  run : RunSt := .notStarted
  misses : List Miss := []
  nextMiss : Nat := 0
  group : List Slot := []
  owed : Nat := 0
  entryWait : Option (Trap × Word) := none
  freezes : List Freeze := []
  sb : List SbEntry := []
  barrier : Option Barrier := none
  waiting : Bool := false
  devOut : List DevAcc := []
  bitram : Tab Bool := []
  sealed : Ckpt := {}
  capturing : Option Ckpt := none
  once : List OnceEnt := []
  retries : Nat := 0
  inRetry : Bool := false
  persistent : Bool := false
  inputs : List InputReq := []
  haltReq : List Nat := []
  halting : Bool := false
  rlog : List (Nat × Option Word) := []
  groups : Nat := 0
  acks : List Nat := []
  capDue : Bool := false
  exec : Nat := 0
  mchkIn : Option (Nat × Nat) := none
  vecIn : List (Nat × Nat) := []
  mchk : Option (Nat × Nat) := none
  poisoned : Option Nat := none
  deverr : Bool := false
  wdN : Nat := 0
  wdCnt : Nat := 0
  kick : Bool := false
  lctx : Lctx := {}
  lctxCur : Lctx := {}
  fipa : Word := 0
  tlb : List TlbEntry := []
deriving DecidableEq, Repr

/-! ## Pairs, caches and chiplets (06, 07) -/

/-- A cache line: its line number (physical address div 128), dirty, and its 128 bytes. -/
structure Line where
  num : Nat
  dirty : Bool
  data : BitVec 1024
deriving DecidableEq, Repr

/-- A cache: lines by set × ways + way, and the PLRU bits of each set (R347). -/
structure Cache where
  lines : Tab (Option Line) := []
  plru : Tab Nat := []
deriving DecidableEq, Repr

/-- The mode of a pair slot (R253, R298). -/
inductive PairMode where
  | checked | split | rx7
deriving DecidableEq, Repr

/-- A pair slot n = 16c + s. repE and repO tell that the spare carries that half (R252, R284); lead: the architectural
beats by which E leads O in RX7-compatible mode (R298); lost: scratchpad bytes that a write of CCTL has discarded and that no sealed checkpoint
has left behind yet (07 R352, R354). -/
structure Pair where
  mode : PairMode := .checked
  suspect : Bool := false
  busy : Bool := false
  repE : Bool := false
  repO : Bool := false
  cctl : Word := 15
  scr : Tab Byte := []
  l1i : Cache := {}
  l1d : Cache := {}
  l2 : Cache := {}
  lead : Nat := 0
  lost : Tab Byte := []
deriving DecidableEq, Repr

/-- A compute chiplet: its L3, its spare halves, the halves excluded (2 × physical pair + half), and the L3 ways
disabled by a soft-fuse repair (13 R658). -/
structure Chip where
  l3 : Cache := {}
  spareE : Bool := true
  spareO : Bool := true
  excluded : List Nat := []
  l3off : List Nat := []
deriving DecidableEq, Repr

/-! ## Event router (05) -/

/-- A source at the router: ERCTL, ERDST, the level of its input, and the ERDST value of its last raise, whose pending bit a
MODE 1 source watches (R246, R247). -/
structure ErSrc where
  en : Bool := false
  mode : Bool := false
  held : Bool := false
  level : Bool := false
  dst : Word := 0
  last : Option Word := none
deriving DecidableEq, Repr

/-- A core vector of a logical core: CVCFG and the first tick at which it may be delivered (R248). -/
structure CoreVec where
  prio : BitVec 3 := 0
  lvl : Bool := false
  modt : BitVec 10 := 0
  next : Nat := 0
deriving DecidableEq, Repr

structure Router where
  srcs : Tab ErSrc := []
  vecs : Tab CoreVec := []
deriving DecidableEq, Repr

/-! ## Memories (07, 13) -/

/-- A GDDR7 device: NMDEV and the codewords attributed in the current second (R635, R650). -/
structure NmDev where
  cecnt : Nat := 0
  reason : BitVec 4 := 0
  marked : Bool := false
  second : Nat := 0
  inSecond : Nat := 0
deriving DecidableEq, Repr

/-- A far slot (R651, R652). -/
structure FarSlot where
  cxl : Bool := false
  port : Nat := 0
  online : Bool := false
  size : Nat := 0
deriving DecidableEq, Repr

/-- A sweep unit: its next region, the passes done, and whether it has made its step of this epoch (R657, R658, 01 R53). -/
structure SweepUnit where
  region : Nat := 0
  passes : Nat := 0
  stepped : Bool := false
deriving DecidableEq, Repr

/-- Near and far memory and what watches them. errs: of a stripe with symbols in error, those symbols, each by its codeword and its position (R633, R634);
farFail: how many fetches in a row of a far block fail its check, 2 standing for all until it is written (R653, R654); found: stripes that a write-back
found with symbols in error, and those, of which the records are still to be made (R631, R634; log entry 118). -/
structure MemSt where
  near : Tab Byte := []
  far : Tab Byte := []
  poison : Tab (Option Nat) := []
  farPoison : List Nat := []
  errs : Tab (List (Nat × Nat)) := []
  farFail : Tab Nat := []
  found : List (Nat × List (Nat × Nat)) := []
  devs : Tab NmDev := []
  cursor : Tab Nat := []
  passes : Nat := 0
  scrubOn : Bool := false
  scrubPh : Nat := 0
  scrubbed : List Nat := []
  trained : Bool := false
  slots : Tab FarSlot := []
  sweep : Tab SweepUnit := []
  softFuse : List (Nat × Nat) := []
  ledOff : List Nat := []
  committed : List (Nat × Nat) := []
deriving DecidableEq, Repr

/-! ## Curd Array (08, 09) -/

/-- The states of a Vat (R431), as VSTAT.STATE codes them. -/
inductive VatSt where
  | uncfg | loading | ready | captured
deriving DecidableEq, Repr

/-- The PE registers of a Vat, one 64-bit word per row, bit c for PE (r, c) (R377). -/
structure PeRegs where
  a : Tab Word := []
  c : Tab Word := []
  m : Tab Word := []
  x : Tab Word := []
  q : Tab Word := []
deriving DecidableEq, Repr

/-- A Vat: status, configuration, PE registers and plane memory (plane p, row r at 64p + r) (08). mport: the last write
that its Mould port has made for a bit-space access: the word's place, the word before, the column, whether it has written the inverse of what it read, and the
array cycles that had passed, by which it can meet the next one alone (R405, R406). -/
structure Vat where
  st : VatSt := .uncfg
  part : Nat := 0
  chk : Bool := false
  gang : Nat := 0
  collcnt : Nat := 0
  coll : Bool := false
  cmpf : Bool := false
  eccu : Bool := false
  eccc : Bool := false
  joinN : Bool := false
  joinE : Bool := false
  joinS : Bool := false
  joinW : Bool := false
  res : Tab Byte := []
  car : Tab Byte := []
  rdrv : Tab Word := []
  cdrv : Tab Word := []
  gdrv : Tab Word := []
  pe : PeRegs := {}
  planes : Tab Word := []
  clearing : Bool := false
  mport : Option (Nat × Word × Nat × Bool × Nat) := none
deriving DecidableEq, Repr

/-- The states of a sequencer (R449). -/
inductive SqSt where
  | unused | idle | progload | run | wait | captured | stopped
deriving DecidableEq, Repr

/-- A row-lock window (R410). -/
structure LockWin where
  en : Bool := false
  plo : Nat := 0
  phi : Nat := 0
  rlo : Nat := 0
  rhi : Nat := 0
deriving DecidableEq, Repr

/-- An array job's descriptor (R474). -/
structure ArrJob where
  qp : Nat := 0
  sqhead : Nat := 0
  tag : Nat := 0
  cq : Nat := 0
  cflags : Nat := 0
  gen : Nat := 0
  ph : Nat := 0
  flags : Nat := 0
  restarts : Nat := 0
  entry : Nat := 0
  plen : Nat := 0
  prog : Nat := 0
  xtab : Nat := 0
  nxt : Nat := 0
  limit : Nat := 0
  p0 : Word := 0
  p1 : Word := 0
deriving DecidableEq, Repr

/-- A transfer in progress: its table entry's index and 64 bytes, its address as latched (R465), the records or plane
words that the Mould of each chiplet has moved (R420), the records that a compacted STORE has written, and of the rows in
progress the words (chiplet, row or plane word in the order of its Mould, plane) already written in a cycle of R406. -/
structure XferSt where
  idx : Nat
  entry : List Byte
  addr : Nat
  moved : Tab Nat
  out : Nat
  early : List (Nat × Nat × Nat) := []
deriving DecidableEq, Repr

/-- The instruction that waits at a sequencer (R446): for the OR result (R461), for a bit (R469), for the end of the
transfer in progress (R465, R470), for the tokens of its transfer, at the Moulds of chips (12 R610 to R612), or for the capture that it began (R471). -/
inductive SqWait where
  | none
  | bor (inv : Bool) (target : Nat)
  | orrd (d : Nat)
  | sbwait (ba : Nat)
  | sbld (d ba : Nat)
  | xwait
  | xfer (idx a : Nat)
  | tokens (idx a : Nat) (chips : List Nat)
  | done
  | capture
deriving DecidableEq, Repr

/-- A sequencer (R445, R448): its registers and memory, its partition as configured (used, chk, chips), the drives of its
lines in the last cycles, newest first, the OR record, what waits, its transfer and job; ran: the epochs for which its
partition has run since the last switch (12 R613). -/
structure Sequencer where
  st : SqSt := .unused
  used : Bool := false
  chk : Bool := false
  chips : BitVec 4 := 0
  ph : Nat := 0
  inst : Nat := 0
  pc : Nat := 0
  att : Nat := 0
  cyc : Nat := 0
  imem : Tab Word := []
  s : Tab Word := []
  lc : Tab Nat := []
  ix : Tab Nat := []
  lfirst : Tab Nat := []
  lend : Tab Nat := []
  lact : Tab Bool := []
  wins : Tab LockWin := []
  gl : BitVec 8 := 0
  glHist : List (BitVec 8) := []
  orHas : Bool := false
  orVal : Bool := false
  orLeft : Nat := 0
  waits : SqWait := .none
  xfer : Option XferSt := none
  job : Option ArrJob := none
  epochs : Nat := 0
  nstored : Nat := 0
  lastPc : Nat := 0
  ran : Nat := 0
deriving DecidableEq, Repr

/-- A partition handle (R472, R488, R590); kept: the sequencer of a partition that stands switched out, for the
job, its queue and what else the capture image does not hold (R492). -/
structure PartH where
  owner : Option Nat := none
  planned : Bool := false
  sq : Nat := 0
  vats : List Nat := []
  save : Nat := 0
  bell : Bool := false
  comp : Bool := false
  saved : Bool := false
  saveValid : Bool := false
  image : List Byte := []
  kept : Sequencer := {}
deriving DecidableEq, Repr

/-- A capture of a partition: snapshot in progress (R435 to R441). by: 0 the sequencer, 1 a mailbox (its
number in mb), 2 the partition scheduler; vstats: VSTAT of its Vats at the capture edge (R438). -/
structure Capture where
  addr : Nat
  by_ : Nat
  mb : Nat
  pre : SqSt
  edge : Bool
  todo : List Nat
  failed : Bool
  vstats : Tab Nat := []
deriving DecidableEq, Repr

structure ArrSt where
  vats : Tab Vat := []
  seqs : Tab Sequencer := []
  parts : Tab PartH := []
  caps : Tab (Option Capture) := []
deriving DecidableEq, Repr

/-! ## Channel subsystem (10) -/

/-- A port group (R493): mode 0 off, 1 PCIe, 2 CXL, 3 Ethernet, 4 Fibre Channel (R725), and its ports. -/
structure PortGroup where
  mode : Nat := 0
  ports : List (Nat × Nat) := []
deriving DecidableEq, Repr

/-- A logical port: state 0 down, 1 training, 2 up, and what it trained to (R725). -/
structure Port where
  st : Nat := 0
  lanes : Nat := 0
  rate : Nat := 0
deriving DecidableEq, Repr

/-- The states of a path, in the order of R502. -/
inductive PathSt where
  | down | connecting | active | standby | failed
deriving DecidableEq, Repr

/-- A path: its descriptor (R501) and its state; closing: a controller reset is awaited (R815); failAt: the tick boundary from which RETEST counts once it
has entered FAILED, and alive: the one from which KATO counts once it has connected (R526, R528); retry: its FCP target has accepted task retry identification (R517). -/
structure Path where
  lport : Nat := 0
  pflags : Nat := 0
  paddr : Nat := 0
  npid : Nat := 0
  wwpn : Nat := 0
  ip : List Byte := []
  st : PathSt := .down
  closing : Bool := false
  failAt : Nat := 0
  alive : Nat := 0
  retry : Bool := false
deriving DecidableEq, Repr

/-- An endpoint (R500); flows: the path that each flow of a network interface has taken (R503); learned: a path has connected, at which
the formats of its namespaces have been learnt as the free function of this number gives them (R814). -/
structure Endp where
  owner : Option Nat := none
  made : Bool := false
  typ : Nat := 0
  policy : Nat := 0
  devtmo : Nat := 0
  retest : Nat := 0
  optmo : Nat := 0
  abtmo : Nat := 0
  kato : Nat := 0
  paths : List Path := []
  rr : Nat := 0
  nqn : List Byte := []
  osn : Nat := 0
  flows : List (List Byte × Nat) := []
  learned : Option Nat := none
deriving DecidableEq, Repr

/-- A DEV window (R506). -/
structure DevWin where
  base : Word := 0
  log2 : Nat := 16
  tgt : Word := 0
  tmo : BitVec 16 := 0
  ep : BitVec 16 := 0
  wack : Bool := true
  kind : Bool := false
  en : Bool := false
deriving DecidableEq, Repr

/-- The states of a ledger entry (R513). -/
inductive LedSt where
  | free | issued | accepted | data | complete | retired
deriving DecidableEq, Repr

/-- A ledger entry (R512), with its descriptor (desc) and its common part, the way its data goes (dir: 0 none, 1 to memory, 2 to
the target), and what R517 to R519 need: waiting, no path can
carry it yet, and since, the tick of its taking or of the failure from which OPTMO counts (R518); aborts, the paths of attempts whose abort is unanswered, each
with the tick of its sending, oldest first, and closing, those that await the second column of R519, with the tick from which they do (R815); pendStatus, the status it completes with once fenced (R520); sent, a frame of a send has
reached its port (R517); drain, retired once its abort ends (R543); ord, the order of taking (R525); sqe, the submission entry
of a pass-through command as it was taken (R534); removed, the plan of its instance has been removed since (12 R623). -/
structure Led where
  st : LedSt := .free
  mirrored : Bool := false
  rfence : Bool := false
  idem : Bool := false
  path : Nat := 0
  tried : Nat := 0
  attempt : Nat := 0
  dir : Nat := 0
  ins : Nat := 0
  gen : Nat := 0
  opc : Nat := 0
  ep : Nat := 0
  qp : Nat := 0
  cq : Nat := 0
  cflags : Nat := 0
  tag : Nat := 0
  osn : Nat := 0
  xid : BitVec 32 := 0
  tfirst : Word := 0
  tissue : Word := 0
  tdead : Word := 0
  bytes : Nat := 0
  status : Nat := 0
  pstat : BitVec 16 := 0
  pdw0 : BitVec 32 := 0
  desc : List Byte := []
  sqhead : Nat := 0
  waiting : Bool := false
  aborts : List (Nat × Nat) := []
  closing : List (Nat × Nat) := []
  since : Nat := 0
  pendStatus : Option Nat := none
  sent : Bool := false
  drain : Bool := false
  ord : Nat := 0
  sqe : List Byte := []
  removed : Bool := false
deriving DecidableEq, Repr

/-- An abort still unanswered of an operation whose retired entry another has taken, or of an earlier attempt of one that drains: entry, endpoint, path and the
tick boundary from which ABTMO counts (R543, R815). -/
structure Orphan where
  lidx : Nat
  ep : Nat
  path : Nat
  sent : Nat
deriving DecidableEq, Repr

/-- The channel subsystem: formats, what a controller has told of a namespace since its formats were learnt: none when it reports no such one (R814); tx, the
bytes that each port has sent last (log entry 179). -/
structure ChanSt where
  nextOrd : Nat := 0
  groups : Tab PortGroup := []
  ports : Tab Port := []
  eps : Tab Endp := []
  wins : Tab DevWin := []
  led : Tab Led := []
  orphans : List Orphan := []
  formats : Tab (Option (Option Nat)) := []
  tx : Tab (List Byte) := []
  stale : Nat := 0
  discards : Nat := 0
  rxDropped : Nat := 0
  oldDrops : Nat := 0
  macroOff : List Nat := []
deriving DecidableEq, Repr

/-! ## Engines (11) -/

/-- A key (R563, R564). -/
structure Key where
  typ : Nat
  usage : Nat
  mat : List Byte
deriving DecidableEq, Repr

/-- A parameter block as read (R561). -/
structure Param where
  iv : List Byte := []
  aad : Nat := 0
  aadLen : Nat := 0
  tagLen : Nat := 0
  dusLog : Nat := 0
  aux : Nat := 0
  auxLen : Nat := 0
deriving DecidableEq, Repr

/-- An engine job taken: its descriptor and what it has bound (R569). ce, ke: engines, 255 for none; window: its instance has been reset, at tick windowAt, and it has the
rest of the epoch; lastUnit: its next boundary is its end (R579); rnd: the random bits that a pair has agreed (R567); par, src, dst: its parameter block and ranges as read
when it started (R562). -/
structure EngJob where
  live : Bool := false
  started : Bool := false
  qp : Nat := 0
  sqhead : Nat := 0
  cq : Nat := 0
  cflags : Nat := 0
  tag : Nat := 0
  opc : Nat := 0
  ins : Nat := 0
  gen : Nat := 0
  desc : List Byte := []
  ce : Nat := 255
  ke : Nat := 255
  key : Option Key := none
  restarted : Bool := false
  window : Bool := false
  windowAt : Nat := 0
  lastUnit : Bool := false
  rnd : Option Word := none
  par : Param := {}
  src : List (Nat × Nat) := []
  dst : List (Nat × Nat) := []
deriving DecidableEq, Repr

structure EngSt where
  jobs : Tab EngJob := []
  keys : Tab (Option Key) := []
  nextJob : Nat := 0
deriving DecidableEq, Repr

/-! ## Instances (12) -/

/-- The states of an instance, as INST_STATUS codes them (R723). -/
inductive InstSt where
  | none | prepared | running | draining | isolated
deriving DecidableEq, Repr

/-- A token bucket and its weight (R610, R611). -/
structure Bucket where
  bal : Int := 0
  rate : Nat := 0
  burst : Nat := 0
  weight : Nat := 0
  deficit : Int := 0
deriving DecidableEq, Repr

/-- The resource plan (R726), as ranges and masks. -/
structure Plan where
  qpFirst : Nat := 0
  nqp : Nat := 0
  nledger : Nat := 0
  nep : Nat := 0
  epFirst : Nat := 0
  phFirst : Nat := 0
  nph : Nat := 0
  sqMask : Nat := 0
  ceMask : Nat := 0
  keMask : Nat := 0
  arrWt : Nat := 0
  ksFirst : Nat := 0
  nks : Nat := 0
  vvFirst : Nat := 0
  nvv : Nat := 0
  brFirst : Nat := 0
  nbr : Nat := 0
  hroot : Nat := 0
  vatMask : Nat := 0
  logs : List (Nat × Nat) := []
deriving DecidableEq, Repr

/-- The counts of R625. -/
structure DrainCnt where
  sqdesc : Nat := 0
  sqeng : Nat := 0
  sqarr : Nat := 0
  sqchan : Nat := 0
  unfenced : Nat := 0
deriving DecidableEq, Repr

/-- An instance (R583 to R590, R610, R620 to R625). drainMb is the mailbox that waits for the end of a reset
or removal; removing and wasRun tell how it ends; pend holds the changes of INST_SET not yet in effect. In a duplex pair epochWait tells that the
drain begins at the next epoch boundary, and sideDone that this side has finished (R626). -/
structure Inst where
  st : InstSt := .none
  gen : Nat := 0
  plan : Plan := {}
  bks : Tab Bucket := []
  arrWt : Nat := 0
  pend : List (Nat × Nat × Nat) := []
  cnt : DrainCnt := {}
  drainMb : Option Nat := none
  removing : Bool := false
  wasRun : Bool := false
  isolating : Bool := false
  deferred : Bool := false
  epochWait : Bool := false
  sideDone : Bool := false
  discarded : Nat := 0
  drainAt : Nat := 0
  drainEp : Nat := 0
deriving DecidableEq, Repr

/-- A completion that waits for room in a ring, or for a reset (R596, R601): its 32 bytes, the FLAGS of its descriptor, and
the ledger entry that it keeps, with the order of taking of its operation (R521). -/
structure HeldCpl where
  bytes : List Byte
  flags : Nat
  lidx : Option Nat
  ord : Nat := 0
deriving DecidableEq, Repr

/-- A queue pair (R592); waitC: the completions that wait. -/
structure Qp where
  owner : Option Nat := none
  made : Bool := false
  kind : Nat := 0
  sqlog : Nat := 0
  cqlog : Nat := 0
  sqbase : Nat := 0
  cqbase : Nat := 0
  tailptr : Nat := 0
  headptr : Nat := 0
  vvec : Nat := 0
  ph : Nat := 0
  head : Nat := 0
  tail : Nat := 0
  cidx : Nat := 0
  phase : Bool := true
  err : Bool := false
  bell : Bool := false
  comp : Bool := false
  waitC : List HeldCpl := []
deriving DecidableEq, Repr

/-- A virtual vector (R603). next: first tick at which a core vector may be raised; deferred: a raise waits
for it (R606); held: its logical core does not exist (R605); dest: LCORE, CVEC and ALTVEC as they stood at the raise that waits (R608). -/
structure Vv where
  pv : Bool := false
  ins : Nat := 0
  en : Bool := false
  modt : BitVec 10 := 0
  lcore : Nat := 0
  altvec : BitVec 6 := 0
  cvec : BitVec 6 := 0
  next : Nat := 0
  deferred : Bool := false
  held : Bool := false
  dest : Nat × BitVec 6 × BitVec 6 := (0, 0, 0)
deriving DecidableEq, Repr

/-- refilled: the buckets have been refilled at this epoch boundary (01 R53); hubTlb: the translations that the hub agents hold (R589). -/
structure InstSub where
  refilled : Bool := false
  hubTlb : List TlbEntry := []
  tableSize : Nat := 8192
  insts : Tab Inst := [(0, { st := .running, arrWt := 16, bks := (List.range 5).map (fun k => (k, { bal := 4294967295, rate := 4294967295, burst := 4294967295, weight := 16 })) })]
  qps : Tab Qp := []
  vvs : Tab Vv := []
  dirty : Tab Bool := []
  created : Bool := false
  keepFull : Bool := false
  discRaise : Nat := 0
deriving DecidableEq, Repr

/-! ## Rind (14) -/

/-- The generic value of RCFG: the Reset column of R677. -/
def rcfgGeneric : Word :=
  BitVec.ofNat 64 (2 ^ 30 + 5 * 2 ^ 27 + 4 * 2 ^ 24 + 4 * 2 ^ 21 + 3 * 2 ^ 18 + 3 * 2 ^ 15 + 2 * 2 ^ 12 + 2 * 2 ^ 9 + 1 * 2 ^ 6 + 1 * 2 ^ 3 + 0)

/-- A fault source at the collector (R666 to R692). rcfg is kept as its difference from the generic value
by exclusive or, so that an unlisted source reads as generic. -/
structure RSrc where
  rcfgX : Word := 0
  words : Tab Word := []
  pend : Bool := false
  susp : Bool := false
  last : Tab (Option Nat) := []
  alarm : Nat := 0
  wire : Bool := false
  race : Option Nat := none
deriving DecidableEq, Repr

structure RindSt where
  srcs : Tab RSrc := []
  log : List (List Word) := []
  nextSeq : Nat := 0
  stopped : Bool := false
deriving DecidableEq, Repr

/-! ## Puppeteer and mailboxes (15) -/

/-- The Puppeteer states (R700). -/
inductive PupSt where
  | boot | bringup | serving | recovery | restart | stopped
deriving DecidableEq, Repr

/-- The states of a mailbox (R710). -/
inductive MbSt where
  | idle | queued | running | done
deriving DecidableEq, Repr

/-- A mailbox (R707, R710, R719). lastOp is the opcode of the last command completed (R717). -/
structure Mailbox where
  bytes : Tab Byte := []
  st : MbSt := .idle
  lastSeq : Nat := 0
  lastOp : Option Nat := none
  lastStatus : Nat := 0
  lastResp : List Byte := []
  vvec : BitVec 16 := 0
  ven : Bool := false
  bell : Bool := false
  comp : Bool := false
deriving DecidableEq, Repr

/-- An image slot of the flash (R701, R702): its bytes. -/
structure Image where
  bytes : Tab Byte := []
  len : Nat := 0
deriving DecidableEq, Repr

structure PupSub where
  st : PupSt := .boot
  filmaj : Nat := 0
  filmin : Nat := 0
  effmaj : Nat := 0
  effmin : Nat := 0
  trial : Bool := false
  slot : Bool := false
  mbs : Tab Mailbox := []
  lastTaken : Nat := 0
  taken : List Nat := []
  active : Bool := false
  bootTrial : Bool := false
  tried : Bool := false
  bootSeq : Nat := 0
  imgA : Image := {}
  imgB : Image := {}
  preA : Bool := true
  preB : Bool := false
  staged : Option Nat := none
  mnEn : Bool := false
  mnIp : Nat := 0
  mnMask : Nat := 0
  mnGw : Nat := 0
  mnKey : List Byte := []
  dropped : Nat := 0
  smbOut : List Byte := []
  netReq : Bool := false
  netOut : List Byte := []
  maint : Bool := false
  cold : Bool := true
  live : Option Nat := none
  smbAddr : Nat := 88
  unserved : Nat := 0
  journal : List Nat := []
  held : List (Nat × Nat × List Byte) := []
deriving DecidableEq, Repr

/-- What is fused or fixed at manufacture (00 R1 to R3, 15 R703, R722). -/
structure FuseSt where
  big : Bool := true
  gradeA : Bool := true
  stepping : List Byte := [65, 48]
  serial : List Byte := List.replicate 16 0
  svnFloor : Nat := 0
  svn : Nat := 0
  fil : Nat := 9
  filMinor : Nat := 1
  verA : Nat := 1
  verB : Nat := 0
deriving DecidableEq, Repr

/-! ## Duplex (16) -/

/-- The pair states (R760). -/
inductive DpxSt where
  | standalone | pairing | paired | simplex | repair | fenced
deriving DecidableEq, Repr

/-- A bundle of the twin link (R737 to R742): state 0 down, 1 training, 2 up; answer: the last acknowledgement or negative
acknowledgement that its receiver sent (R741). -/
structure Bundle where
  st : Nat := 0
  rxNext : Nat := 0
  txNext : Nat := 0
  unacked : List Flit := []
  replays : Nat := 0
  moved : Bool := false
  answer : Option Flit := none
deriving DecidableEq, Repr

/-- An input that both sides of a pair agree on before it takes effect (R749): the operands of its command. -/
inductive AgreedIn where
  | accept (lidx : Nat) (xid : BitVec 32)
  | data (lidx : Nat) (xid : BitVec 32) (off : Nat) (bs : List Byte) (good : Bool)
  | response (lidx : Nat) (xid : BitVec 32) (k : RespKind) (pstat : BitVec 16) (pdw0 : BitVec 32)
  | frame (ep : Nat) (bs : List Byte) (good : Bool)
  | inbound (ep : Nat) (write : Bool) (ipa : Nat) (bs : List Byte) (good : Bool)
  | abort (lidx : Nat)
  | ana (ep k : Nat) (a : Ana)
  | space (ep nsid : Nat) (blk : Option Nat)
  | msi (ep v : Nat)
  | dev (lc k : Nat) (ok : Bool) (val : Word)
  | sourceUp (src : Nat)
  | sourceDown (src : Nat)
  | board
  | entropy (job : Nat) (v : Word)
  | connect (ep k : Nat) (standby : Bool)
  | login (ep k : Nat)
  | ctlReset (ep k : Nat)
deriving DecidableEq, Repr

/-- An entry of the order log that the leader sends on VC1 (R747, R750): its directory has granted a line (kind 0) or a bit (kind 1) to a
logical core, or the core has read a value of device time (kind 2). -/
structure Grant where
  kind : Nat
  addr : Nat
  agent : Nat
  val : Word := 0
deriving DecidableEq, Repr

/-- inputs: those that wait to be agreed, each with the tick in which it came (R749); peerLed: the ledger entries that the peer has mirrored, by their number (10
R539). linkLost: both bundles have been down for 10 µs (R742); starter: the mailbox whose DPX_PAIR or DPX_REPAIR is not complete (R758);
order: on the follower, the entries of the leader's order log that it has not followed yet (R747); peerDone: the instances whose drain the peer
has finished (12 R626). -/
structure DpxSub where
  st : DpxSt := .standalone
  sideB : Bool := false
  leadSt : Bool := false
  steer : Bool := false
  hbin : Bool := false
  replay : Nat := 0
  lag : Nat := 0
  bnds : Tab Bundle := []
  credits : Tab Nat := []
  rxCredits : Tab Nat := []
  delay : BitVec 16 := 0
  offset : BitVec 32 := 0
  bigOff : Nat := 0
  inputs : List (Nat × AgreedIn) := []
  txq : List (Nat × List Byte × Option Nat) := []
  mirrors : List (Nat × Nat × Nat) := []
  outs : List (Nat × Nat × List Byte) := []
  sent : Nat := 0
  marks : Nat := 0
  cursor : Nat := 0
  bitmap : List Nat := []
  paused : Bool := false
  frozen : Bool := false
  peerFil : Nat := 1
  linkLost : Bool := false
  starter : Option Nat := none
  peerCxl : List (Nat × List (Nat × Nat)) := []
  peerBig : Bool := true
  peerFar : List Nat := []
  peerInsts : Bool := false
  peerTable : Nat := 0
  peerSimplex : Bool := false
  peerVer : Nat := 1
  order : List Grant := []
  peerDone : List Nat := []
  peerLed : Tab (List Byte) := []
  hbOut : Bool := false
  lastMark : Word := 0
  marked : Bool := false
  copied : Bool := false
deriving DecidableEq, Repr

/-! ## Performance counters (17) -/

/-- Counters: of pair n, index i at 256n + i; others at their control-space value address. snapped: the snapshot of this epoch boundary has
been made or skipped (01 R53). -/
structure PerfSt where
  vals : Tab (BitVec 48) := []
  cfgs : Tab Word := []
  filts : Tab Filt := []
  base : Word := 0
  snapEn : Bool := false
  nslot : Nat := 1
  interval : Nat := 1
  fault : Bool := false
  seq : Nat := 0
  snapped : Bool := false
deriving DecidableEq, Repr

/-! ## Power, reset, pins (18) -/

structure PwrSt where
  badRails : List Nat := []
  coldLow : Bool := false
  warmLow : Bool := false
  safe : Bool := false
  faulted : Bool := false
  wake : Bool := false
  pwrReq : Bool := false
  therm : Bool := false
  tripped : Bool := false
  selfRefresh : Bool := false
  warmValid : Bool := false
  warm : Bool := false
  vddCore : Nat := 800
deriving DecidableEq, Repr

/-! ## The module -/

/-- The whole state of the module, the model's counter of free values, and the queue of waiting commands. -/
structure State where
  time : TimeSt
  cores : Tab Core
  pairs : Tab Pair
  chips : Tab Chip
  router : Router
  mem : MemSt
  bits : Tab Bool
  arr : ArrSt
  chan : ChanSt
  eng : EngSt
  inst : InstSub
  rind : RindSt
  pup : PupSub
  fuse : FuseSt
  dpx : DpxSub
  perf : PerfSt
  pwr : PwrSt
  freeCtr : Nat
  pending : List Instr
deriving DecidableEq, Repr

/-- The block never stops with a fault: what the spec calls a fault is a trap, a report or a status, and so a
next state. The type has no value. -/
inductive Fault : Type
deriving DecidableEq, Repr

/-- The reasons for which a command has no meaning in this model. -/
inductive Refusal where
  /-- Raised by an arm of exec whose command has no meaning yet; safe, because nothing follows from it. -/
  | notModelled (mnemonic : String)
deriving DecidableEq, Repr

/-- What the meaning of a command answers. -/
abbrev Out := Host.Outcome State Fault Refusal

/-- The module at the release of COLD_RST_N with every rail good, before the boot ROM has chosen an image
(R798, R804, R806). -/
def State.reset : State :=
  { time := {}, cores := [], pairs := [], chips := [], router := {}, mem := {}, bits := [], arr := {}, chan := {}, eng := {},
    inst := {}, rind := {}, pup := {}, fuse := {}, dpx := {}, perf := {}, pwr := {}, freeCtr := 0, pending := [] }

end Sys2Proof.Machine
end

