-- ==== Sys2Proof/Machine/Access.lean ====
section
/-! DEFINITION. Reading and replacing one numbered resource of the state, and what exists in it: logical cores
and their pairs (06 R252, R253), the parts a JW9412 lacks (00 R4, R5), device time as read (01 R31, R34). -/

namespace Sys2Proof.Machine

open Host

/-! ## Numbered resources -/

def State.core (s : State) (l : Nat) : Core := Tab.get {} s.cores l
def State.setCore (s : State) (l : Nat) (c : Core) : State := { s with cores := Tab.set {} s.cores l c }
def State.modCore (s : State) (l : Nat) (f : Core → Core) : State := s.setCore l (f (s.core l))
def State.modArch (s : State) (l : Nat) (f : Arch → Arch) : State := s.modCore l (fun c => { c with arch := f c.arch })

def State.pair (s : State) (n : Nat) : Pair := Tab.get {} s.pairs n
def State.setPair (s : State) (n : Nat) (p : Pair) : State := { s with pairs := Tab.set {} s.pairs n p }
def State.chip (s : State) (c : Nat) : Chip := Tab.get {} s.chips c
def State.setChip (s : State) (c : Nat) (x : Chip) : State := { s with chips := Tab.set {} s.chips c x }

def State.vat (s : State) (v : Nat) : Vat := Tab.get {} s.arr.vats v
def State.setVat (s : State) (v : Nat) (x : Vat) : State := { s with arr := { s.arr with vats := Tab.set {} s.arr.vats v x } }
def State.sq (s : State) (q : Nat) : Sequencer := Tab.get {} s.arr.seqs q
def State.setSq (s : State) (q : Nat) (x : Sequencer) : State := { s with arr := { s.arr with seqs := Tab.set {} s.arr.seqs q x } }
def State.part (s : State) (p : Nat) : PartH := Tab.get {} s.arr.parts p
def State.setPart (s : State) (p : Nat) (x : PartH) : State := { s with arr := { s.arr with parts := Tab.set {} s.arr.parts p x } }
/-- The capture in progress on sequencer q (08 R435). -/
def State.cap (s : State) (q : Nat) : Option Capture := Tab.get none s.arr.caps q
def State.setCap (s : State) (q : Nat) (x : Option Capture) : State := { s with arr := { s.arr with caps := Tab.set none s.arr.caps q x } }

def State.ep (s : State) (e : Nat) : Endp := Tab.get {} s.chan.eps e
def State.setEp (s : State) (e : Nat) (x : Endp) : State := { s with chan := { s.chan with eps := Tab.set {} s.chan.eps e x } }
def State.port (s : State) (p : Nat) : Port := Tab.get {} s.chan.ports p
def State.setPort (s : State) (p : Nat) (x : Port) : State := { s with chan := { s.chan with ports := Tab.set {} s.chan.ports p x } }
def State.group (s : State) (g : Nat) : PortGroup := Tab.get {} s.chan.groups g
def State.setGroup (s : State) (g : Nat) (x : PortGroup) : State := { s with chan := { s.chan with groups := Tab.set {} s.chan.groups g x } }
def State.led (s : State) (l : Nat) : Led := Tab.get {} s.chan.led l
/-- The ledger entry that a completion keeps, while it still holds that operation: another may have taken it after a LACK (10 R523). -/
def State.keeps (s : State) (c : HeldCpl) : Option Nat := c.lidx.filter (fun k => decide ((s.led k).ord = c.ord) && decide ((s.led k).st = .complete))
def State.setLed (s : State) (l : Nat) (x : Led) : State := { s with chan := { s.chan with led := Tab.set {} s.chan.led l x } }
def State.win (s : State) (w : Nat) : DevWin := Tab.get {} s.chan.wins w
def State.setWin (s : State) (w : Nat) (x : DevWin) : State := { s with chan := { s.chan with wins := Tab.set {} s.chan.wins w x } }

def State.ins (s : State) (i : Nat) : Inst := Tab.get {} s.inst.insts i
def State.setIns (s : State) (i : Nat) (x : Inst) : State := { s with inst := { s.inst with insts := Tab.set {} s.inst.insts i x } }
def State.qp (s : State) (q : Nat) : Qp := Tab.get {} s.inst.qps q
def State.setQp (s : State) (q : Nat) (x : Qp) : State := { s with inst := { s.inst with qps := Tab.set {} s.inst.qps q x } }
def State.vv (s : State) (v : Nat) : Vv := Tab.get {} s.inst.vvs v
def State.setVv (s : State) (v : Nat) (x : Vv) : State := { s with inst := { s.inst with vvs := Tab.set {} s.inst.vvs v x } }

def State.job (s : State) (j : Nat) : EngJob := Tab.get {} s.eng.jobs j
def State.setJob (s : State) (j : Nat) (x : EngJob) : State := { s with eng := { s.eng with jobs := Tab.set {} s.eng.jobs j x } }
def State.key (s : State) (k : Nat) : Option Key := Tab.get none s.eng.keys k
def State.setKey (s : State) (k : Nat) (x : Option Key) : State := { s with eng := { s.eng with keys := Tab.set none s.eng.keys k x } }

def State.src (s : State) (n : Nat) : RSrc := Tab.get {} s.rind.srcs n
def State.setSrc (s : State) (n : Nat) (x : RSrc) : State := { s with rind := { s.rind with srcs := Tab.set {} s.rind.srcs n x } }
def State.er (s : State) (n : Nat) : ErSrc := Tab.get {} s.router.srcs n
def State.setEr (s : State) (n : Nat) (x : ErSrc) : State := { s with router := { s.router with srcs := Tab.set {} s.router.srcs n x } }
/-- Core vector v of logical core l. -/
def State.cv (s : State) (l v : Nat) : CoreVec := Tab.get {} s.router.vecs (64 * l + v)
def State.setCv (s : State) (l v : Nat) (x : CoreVec) : State := { s with router := { s.router with vecs := Tab.set {} s.router.vecs (64 * l + v) x } }

def State.mb (s : State) (m : Nat) : Mailbox := Tab.get {} s.pup.mbs m
def State.setMb (s : State) (m : Nat) (x : Mailbox) : State := { s with pup := { s.pup with mbs := Tab.set {} s.pup.mbs m x } }
def State.bundle (s : State) (b : Nat) : Bundle := Tab.get {} s.dpx.bnds b
def State.setBundle (s : State) (b : Nat) (x : Bundle) : State := { s with dpx := { s.dpx with bnds := Tab.set {} s.dpx.bnds b x } }
def State.nmdev (s : State) (d : Nat) : NmDev := Tab.get {} s.mem.devs d
def State.setNmdev (s : State) (d : Nat) (x : NmDev) : State := { s with mem := { s.mem with devs := Tab.set {} s.mem.devs d x } }
def State.farSlot (s : State) (f : Nat) : FarSlot := Tab.get {} s.mem.slots f
def State.setFarSlot (s : State) (f : Nat) (x : FarSlot) : State := { s with mem := { s.mem with slots := Tab.set {} s.mem.slots f x } }

/-- A free value and the state that has drawn it (log entry 5). -/
def State.draw (s : State) : Word × State := (Config.free s.freeCtr, { s with freeCtr := s.freeCtr + 1 })

/-- In a duplex pair an input of R749 waits to be agreed and is delivered by AGREED_INPUT_DELIVERY; else it takes effect at
once: t (16 R749). -/
def State.agree (s : State) (i : AgreedIn) (t : State) : State :=
  if s.dpx.st = .paired then { s with dpx := { s.dpx with inputs := s.dpx.inputs ++ [(s.time.ticks, i)] } } else t

/-! ## Logical cores and parts -/

/-- The pair slot of a logical core, its chiplet and its slot (R252, R253). -/
def pairOf (l : Nat) : Nat := l / 2
def chipOf (l : Nat) : Nat := l / 32
def slotOf (l : Nat) : Nat := l / 2 % 16

/-- Pair slot n exists on this part (R4, R252). -/
def State.slotExists (s : State) (n : Nat) : Bool := decide (n < 64) && (s.fuse.big || decide (n % 16 < 12))

/-- V(2k+1) of a checked pair (08 R398). -/
def State.isTwin (s : State) (v : Nat) : Bool := (s.vat v).chk && decide (v % 2 = 1)

/-- The number of Vats, sequencers and Moulds of this part (R2, R5). -/
def State.nVats (s : State) : Nat := if s.fuse.big then 256 else 192
def State.nSqs (s : State) : Nat := if s.fuse.big then 16 else 12

/-- The number exists in the pairing mode: L(2n), or L(2n+1) of a split slot (R253). -/
def State.lcNumbered (s : State) (l : Nat) : Bool :=
  s.slotExists (pairOf l) && (decide (l % 2 = 0) || decide ((s.pair (pairOf l)).mode = .split))

/-- The logical core exists for the event router: numbered and not offline (R247, R288). -/
def State.lcExists (s : State) (l : Nat) : Bool := s.lcNumbered l && decide ((s.core l).run ≠ .offline)

/-- The half that logical core l reports as: the current E, or O when l is the O of a split slot (R686). -/
def State.halfIsO (_ : State) (l : Nat) : Bool := decide (l % 2 = 1)

/-- The physical pair that carries a half of slot n: the slot's own, or 16 once the spare replaced it (R252, R284). -/
def State.physPair (s : State) (n : Nat) (o : Bool) : Nat := if (if o then (s.pair n).repO else (s.pair n).repE) then 16 else n % 16

/-- The Rind source of a half of slot n, k as in R686. -/
def State.coreSrc (s : State) (n : Nat) (o : Bool) (k : Nat) : Nat := 4 * (34 * (n / 16) + 2 * s.physPair n o + b2n o) + k

/-- The L2 source of slot n (R686). -/
def State.l2Src (s : State) (n : Nat) : Nat := 544 + 17 * (n / 16) + s.physPair n false

/-- The pair is checked or in RX7 mode: its two halves agree on inputs (R262, R290). -/
def State.checkedPair (s : State) (l : Nat) : Bool := decide ((s.pair (pairOf l)).mode ≠ .split)

/-- A part in a duplex pair or standalone, for R584, R683 (R760). -/
def State.duplexed (s : State) : Bool := decide (s.dpx.st = .paired) || decide (s.dpx.st = .simplex) || decide (s.dpx.st = .repair) || decide (s.dpx.st = .pairing)

/-- The full configuration: a table above 2,048, any duplex pair, or a module that was one (R584, 16 R765). -/
def State.fullConf (s : State) : Bool := decide (2048 < s.inst.tableSize) || s.duplexed || s.inst.keepFull

/-- The module has stopped or is fenced: nothing is released (R684, R756). -/
def State.moduleStopped (s : State) : Bool := s.rind.stopped || decide (s.dpx.st = .fenced)

/-- After a stop or a fence nothing of the module goes on (14 R684, 16 R756). -/
def State.live (s t : State) : State := if s.moduleStopped then s else t

/-! ## Device time as read -/

/-- A phase source is active (R34). -/
def TimeSt.active (t : TimeSt) : Bool := decide (t.phsrc ≠ 0)
/-- DSTAT.ACQ: a qualified phase source is active and LOCK is 0 (R37). -/
def TimeSt.acq (t : TimeSt) : Bool := t.active && !t.lock
/-- DSTAT.QUAL (R34). -/
def TimeSt.qual (t : TimeSt) : Nat := if t.unsync then 3 else if t.hold then (if t.hold24 then 2 else 1) else if t.lock then 0 else 1

/-- DSTAT as read (R34). -/
def TimeSt.dstat (t : TimeSt) : Word :=
  BitVec.ofNat 64 (b2n t.unsync * 2 ^ 31 + b2n t.hold * 2 ^ 30 + b2n t.lock * 2 ^ 29 + b2n t.slew * 2 ^ 28 + b2n t.flock * 2 ^ 27
    + b2n t.loss * 2 ^ 26 + t.qual * 2 ^ 24 + b2n t.acq * 2 ^ 23 + t.ptpport.toNat * 2 ^ 16 + t.phsrc.toNat * 2 ^ 14
    + t.frsrc.toNat * 2 ^ 12 + t.offset.toNat)

/-- DTIME[9:0] is 0: an epoch boundary (R33). -/
def TimeSt.atEpoch (t : TimeSt) : Bool := decide (t.dtime.toNat % 1024 = 0)

end Sys2Proof.Machine
end

