-- ==== Sys2Proof/Machine/Mem.lean ====
section
/-! DEFINITION. The physical address space (07 R359), near and far memory with poison (13 R627 to R654), the caches
(07 R346 to R358), and the coherent reads and writes that every agent makes. Nothing here makes a report. -/

namespace Sys2Proof.Machine

/-! ## The physical address map (R359, R647, R651) -/

def nearTop : Nat := 0x1400000000
def carveLo : Nat := 0x13C0000000
def ledgerTop : Nat := 0x13C2000000
def farLo : Nat := 0x1000000000000
def farTop : Nat := 0x1100000000000
def ctlLo : Nat := 0xF000000000000
def ctlTop : Nat := 0x10000000000000

def isNear (a : Nat) : Bool := decide (a < nearTop)
def isFar (a : Nat) : Bool := decide (farLo ≤ a) && decide (a < farTop)
def isMem (a : Nat) : Bool := isNear a || isFar a
def isCtl (a : Nat) : Bool := decide (ctlLo ≤ a) && decide (a < ctlTop)
def isCarve (a : Nat) : Bool := decide (carveLo ≤ a) && decide (a < nearTop)
/-- The address lies in some range of R359. -/
def inMap (a : Nat) : Bool := isNear a || isFar a || isCtl a

/-- An installed device backs the address: near memory, or an online far slot below its size (R333, R651). -/
def State.backed (s : State) (a : Nat) : Bool :=
  isNear a || (isFar a && (let f := (a - farLo) / 2 ^ 41
    (s.farSlot f).online && decide ((a - farLo) % 2 ^ 41 < (s.farSlot f).size)))

/-! ## Memory without caches -/

def State.rawByte (s : State) (a : Nat) : Byte := if isNear a then Tab.get 0 s.mem.near a else Tab.get 0 s.mem.far a
def State.setRaw (s : State) (a : Nat) (b : Byte) : State :=
  if isNear a then { s with mem := { s.mem with near := Tab.set 0 s.mem.near a b } } else { s with mem := { s.mem with far := Tab.set 0 s.mem.far a b } }
def State.setRawMany (s : State) (a : Nat) (bs : List Byte) : State :=
  if isNear a then { s with mem := { s.mem with near := Tab.setMany 0 s.mem.near a bs } } else { s with mem := { s.mem with far := Tab.setMany 0 s.mem.far a bs } }
def State.rawLine (s : State) (num : Nat) : List Byte :=
  if isNear (128 * num) then Tab.getMany 0 s.mem.near (128 * num) 128 else Tab.getMany 0 s.mem.far (128 * num) 128

/-- Stripe and line within it of a near line (R628). -/
def stripeOf (a : Nat) : Nat := a / 640
def lineInStripe (a : Nat) : Nat := a % 640 / 128

/-! ## The cross-device code of near memory (R627 to R641) -/

/-- Byte b of a stripe is in data symbol b div 2; symbol n belongs to codeword n div 10 and is held by the device at position n mod 10 (R629). -/
def symOf (b : Nat) : Nat := b / 2
def wordOf (n : Nat) : Nat := n / 10
def posOf (n : Nat) : Nat := n % 10

/-- The channel controller that serves a stripe, and the device that holds a byte of near memory (R627, R628, R630). -/
def controllerOf (st : Nat) : Nat := 4 * (st % 8) + st / 8 % 4
def deviceOf (a : Nat) : Nat := 12 * (stripeOf a % 8 / 4) + posOf (symOf (a % 640))

/-- The lowest line of a poisoned stripe not rewritten, whose first byte holds the mask REWR, and a byte as the devices store it (R639). -/
def rewrLine (m : Nat) : Nat := ((List.range 5).find? (fun j => !bit m j)).getD 0
def State.storedByte (s : State) (a : Nat) : Byte :=
  match Tab.get none s.mem.poison (stripeOf a) with
  | some m => if a % 640 = 128 * rewrLine m then BitVec.ofNat 8 m else Tab.get 0 s.mem.near a
  | none => Tab.get 0 s.mem.near a

/-- Codeword c of a stripe as its group stores it: ten data symbols and two check symbols, inverted while the stripe is poisoned (R629, R633,
R639). -/
def State.codeword (s : State) (st c : Nat) : List (BitVec 16) :=
  let ds := (List.range 10).map (fun p => BitVec.ofNat 16 (ofLe ((List.range 2).map (fun b => s.storedByte (640 * st + 2 * (10 * c + p) + b)))))
  let k := Config.rsCheck st ds
  let inv := (Tab.get none s.mem.poison st).isSome
  ds ++ (if inv then [~~~k.1, ~~~k.2] else [k.1, k.2])

/-- The devices of group g that are marked, as positions 0 to 11 (R627, R635). -/
def State.markedIn (s : State) (g : Nat) : List Nat := (List.range 12).filter (fun p => (s.nmdev (12 * g + p)).marked)

/-- The wrong positions of a codeword. -/
def wrongIn (errs : List (Nat × Nat)) (c : Nat) : List Nat := ((errs.filter (fun e => decide (e.1 = c))).map (·.2)).dedup

/-- What each codeword with a symbol in error decodes to (R633, R634): one wrong symbol is found at its position, 12 being that of the stripe
number, which no device stores; several decode to what the code makes of them. -/
def decodeWords (st : Nat) (errs : List (Nat × Nat)) : List (Nat × Nat) :=
  ((errs.map (·.1)).dedup).map (fun c =>
    match wrongIn errs c with
    | [p] => (c, p)
    | ps => (c, Config.rsPosition st c ps))

/-- The outcomes of R634: no error; all corrected at one device, by its position; a marked device's symbols taken as erasures; uncorrectable. -/
inductive Dec where
  | clean
  | fixed (p : Nat)
  | erased
  | bad
deriving DecidableEq, Repr

/-- Decode stripe st with the symbols errs in error (R634, R636, R637). -/
def State.decode (s : State) (st : Nat) (errs : List (Nat × Nat)) : Dec :=
  if errs.isEmpty then .clean
  else
    match s.markedIn (st % 8 / 4) with
    | [] =>
      (match ((decodeWords st errs).map (·.2)).dedup with
       | [p] => if p < 12 then .fixed p else .bad
       | _ => .bad)
    | [m] => if errs.all (fun e => decide (e.2 = m)) then .erased else .bad
    | _ => .bad

def State.errsOf (s : State) (st : Nat) : List (Nat × Nat) := Tab.get [] s.mem.errs st
def State.decodeNow (s : State) (st : Nat) : Dec := s.decode st (s.errsOf st)

/-- The symbols of a stripe that are delivered wrong as corrected data: those of the codewords with several wrong positions that decode at one device (R637). -/
def State.wrongSyms (s : State) (st : Nat) : List (Nat × Nat) :=
  match s.decodeNow st with
  | .fixed p => (((s.errsOf st).map (·.1)).dedup.filter (fun c => decide (1 < (wrongIn (s.errsOf st) c).length))).flatMap (fun c => (wrongIn (s.errsOf st) c ++ [p]).map (fun q => (c, q)))
  | _ => []

/-- A byte of near memory as a read delivers it where it does not come as poison (R634, R637). -/
def State.nearByte (s : State) (a : Nat) : Byte :=
  let st := stripeOf a
  let n := symOf (a % 640)
  if (s.wrongSyms st).contains (wordOf n, posOf n) then BitVec.ofNat 8 ((Config.rsWrong st (wordOf n) (posOf n)).toNat / 256 ^ (a % 2)) else s.rawByte a

/-- A line of memory as a read delivers it (R631). -/
def State.memLine (s : State) (num : Nat) : List Byte :=
  if isNear (128 * num) && !(s.errsOf (stripeOf (128 * num))).isEmpty then (List.range 128).map (fun k => s.nearByte (128 * num + k)) else s.rawLine num

/-! ## The blocks of far memory (R651 to R655) -/

/-- The usable size of a CXL device of C bytes, at most what a slot shows, and where block b and its check stand in the device (R651, R652). -/
def farUsable (c : Nat) : Nat := Nat.min (2 ^ 41) (256 * (c / 272))
def farBlockAt (b : Nat) : Nat := 256 * b
def farCheckAt (c b : Nat) : Nat := 256 * (c / 272) + 16 * b

/-- CRC-64 as ECMA-182: polynomial 0x42F0E1EBA9EA3693 from 0, most significant bit first (R652). -/
def crc64Bit (r : Nat) : Nat := if bit r 63 then (2 * r % 2 ^ 64) ^^^ 0x42F0E1EBA9EA3693 else 2 * r
def crc64Byte (r : Nat) (b : Byte) : Nat := (List.range 8).foldl (fun x _ => crc64Bit x) (r ^^^ (b.toNat * 2 ^ 56))
def crc64 (bs : List Byte) : Nat := bs.foldl crc64Byte 0

/-- Block of far memory of an address: physical address bits [51:8]; and its check as it is stored: CRC, POISON, BLK (R652). -/
def farBlock (a : Nat) : Nat := a / 256
def State.farTail (s : State) (blk : Nat) : List Byte :=
  leBytes 8 (b2n (s.mem.farPoison.contains (2 * blk)) * 2 ^ 62 + b2n (s.mem.farPoison.contains (2 * blk + 1)) * 2 ^ 63 + blk % 2 ^ 44)
def State.farCheck (s : State) (blk : Nat) : List Byte :=
  leBytes 8 (crc64 (Tab.getMany 0 s.mem.far (256 * blk) 256 ++ s.farTail blk)) ++ s.farTail blk

/-- A block and check as they reach the RX9 verify: the CRC is that of what came, and BLK is the block asked for (R653). -/
def farVerify (blk : Nat) (data check : List Byte) : Bool :=
  decide (leAt check 0 8 = crc64 (data ++ check.drop 8)) && decide (fld (leAt check 8 8) 0 44 = blk % 2 ^ 44)

/-- Both fetches of the block of a far line fail (R653). -/
def State.farBad (s : State) (num : Nat) : Bool := decide (2 ≤ Tab.get 0 s.mem.farFail (num / 2))

/-- A read of the line returns poison (R634, R640, R653). -/
def State.linePoison (s : State) (num : Nat) : Bool :=
  let a := 128 * num
  if isNear a then
    decide (s.decodeNow (stripeOf a) = .bad) || (match Tab.get none s.mem.poison (stripeOf a) with
    | some m => !bit m (lineInStripe a)
    | none => false)
  else s.mem.farPoison.contains num || s.farBad num

/-- Poison a stripe: no line of it is rewritten yet (R639). -/
def State.poisonStripe (s : State) (st : Nat) : State :=
  { s with mem := { s.mem with poison := Tab.set none s.mem.poison st (some 0), errs := Tab.set [] s.mem.errs st [] } }

/-- What a decode leaves in the stripe when it is written back: corrected data with new check symbols, wrong symbols among it as they were delivered, or
poison; no symbol in error (R631, R634, R637, R639, R644). -/
def State.settleStripe (s : State) (st : Nat) : State :=
  let none_ := Tab.set [] s.mem.errs st []
  match s.decodeNow st with
  | .clean => s
  | .bad => s.poisonStripe st
  | .erased => { s with mem := { s.mem with errs := none_ } }
  | .fixed _ =>
    let put := fun (m : Tab Byte) (e : Nat × Nat) => if e.1 < 32 && e.2 < 10 then Tab.setMany 0 m (640 * st + 2 * (10 * e.1 + e.2)) (leBytes 2 (Config.rsWrong st e.1 e.2).toNat) else m
    { s with mem := { s.mem with errs := none_, near := if st < 2 ^ 27 then (s.wrongSyms st).foldl put s.mem.near else s.mem.near } }

/-- A write reads and decodes the stripe before it merges (R631); what it finds is kept until its records are made. -/
def State.readBefore (s : State) (st : Nat) : State :=
  if (s.errsOf st).isEmpty then s else { s.settleStripe st with mem := { (s.settleStripe st).mem with found := s.mem.found ++ [(st, s.errsOf st)] } }

/-- A write of the survivor of a duplex pair during re-pairing to memory below the copy cursor: mirrored on VC3 when
a bundle is up and a credit is left, else marked in the copy bitmap (16 R762). -/
def State.mirrorWrite (s : State) (a : Nat) : State :=
  if s.dpx.st ≠ .repair || s.dpx.cursor ≤ a then s
  else if !s.dpx.paused && (s.dpx.bnds.any (fun e => e.2.st = 2)) && decide (0 < Tab.get 0 s.dpx.credits 3) then
    { s with dpx := { s.dpx with credits := Tab.set 0 s.dpx.credits 3 (Tab.get 0 s.dpx.credits 3 - 1) } }
  else
    let g := if isNear a then a / 4096 else 2 ^ 40 + (a - farLo) / 131072
    if s.dpx.bitmap.contains g then s else { s with dpx := { s.dpx with bitmap := s.dpx.bitmap ++ [g] } }

/-- The check that a write of a far line leaves: the line's POISON bit 0, the other line's 1 when the block did not verify (R654). -/
def State.farWritten (s : State) (num : Nat) : State :=
  let other := if num % 2 = 0 then num + 1 else num - 1
  let keep := s.mem.farPoison.filter (· ≠ num)
  { s with mem := { s.mem with farPoison := if s.farBad num && !keep.contains other then keep ++ [other] else keep, farFail := Tab.set 0 s.mem.farFail (num / 2) 0 } }

/-- A write of a whole line into memory (R631, R641, R654). -/
def State.writeLine (s0 : State) (num : Nat) (bs : List Byte) : State :=
  let a := 128 * num
  if isNear a then
    let s := s0.readBefore (stripeOf a)
    let s1 := (s.setRawMany a bs).mirrorWrite a
    match Tab.get none s.mem.poison (stripeOf a) with
    | none => s1
    | some m =>
      let m2 := m ||| 2 ^ lineInStripe a
      { s1 with mem := { s1.mem with poison := Tab.set none s1.mem.poison (stripeOf a) (if m2 % 32 = 31 then none else some m2) } }
  else ((s0.setRawMany a bs).mirrorWrite a).farWritten num

/-- A write of fewer than 128 bytes within one line: discarded in a line that reads as near poison (R641); in a far block that does not verify it is merged with
what came (R654; log entry 178). -/
def State.writePart (s0 : State) (a : Nat) (bs : List Byte) : State :=
  if isNear a then
    let s := s0.readBefore (stripeOf a)
    if s.linePoison (a / 128) then s else (s.setRawMany a bs).mirrorWrite a
  else
    let s := if s0.farBad (a / 128) then s0.setRawMany (a / 128 * 128) ((List.range 128).map (fun k => Config.farWrong (a / 128 * 128 + k))) else s0
    ((s.setRawMany a bs).mirrorWrite a).farWritten (a / 128)

/-! ## Caches -/

def lineBytes (d : BitVec 1024) : List Byte := leBytes 128 d.toNat
def lineOf (bs : List Byte) : BitVec 1024 := BitVec.ofNat 1024 (ofLe bs)

/-- Sets, ways and the depth of the tree of a cache (R346). -/
structure Geo where
  sets : Nat
  ways : Nat
  depth : Nat
deriving DecidableEq, Repr

def geoL1i : Geo := ⟨128, 4, 2⟩
def geoL1d : Geo := ⟨64, 8, 3⟩
def geoL2 : Geo := ⟨1024, 16, 4⟩
def geoL3 : Geo := ⟨32768, 32, 5⟩

def Cache.at (c : Cache) (g : Geo) (set way : Nat) : Option Line := Tab.get none c.lines (set * g.ways + way)
def Cache.put (c : Cache) (g : Geo) (set way : Nat) (l : Option Line) : Cache := { c with lines := Tab.set none c.lines (set * g.ways + way) l }

/-- The line held, wherever it stands. -/
def Cache.find (c : Cache) (num : Nat) : Option Line := c.lines.findSome? (fun e => e.2.bind (fun l => if l.num = num then some l else none))

/-- The way of a set that holds the line. -/
def Cache.wayOf (c : Cache) (g : Geo) (num : Nat) : Option Nat :=
  firstBelow g.ways (fun w => match c.at g (num % g.sets) w with | some l => decide (l.num = num) | none => false)

/-- Set the bits on the path to a way so that they point away from it (R347): node i of the tree is bit i, a 0
bit points to the lower half. -/
def plruTouch : Nat → Nat → Nat → Nat → Nat
  | 0, bits, _, _ => bits
  | d + 1, bits, node, way =>
    let hi := bit way d
    let cleared := if bit bits node then bits - 2 ^ node else bits
    plruTouch d (if hi then cleared else cleared + 2 ^ node) (2 * node + b2n hi) way

/-- The way reached by following the bits from the root, keeping to halves that hold an eligible way (R347). -/
def plruPick (elig : Nat → Bool) : Nat → Nat → Nat → Nat → Nat
  | 0, _, _, base => base
  | d + 1, bits, node, base =>
    let want := bit bits node
    let lo := base
    let hi := base + 2 ^ d
    let hasIn := fun b : Nat => (List.range (2 ^ d)).any (fun k => elig (b + k))
    let goHi := if want then hasIn hi else !hasIn lo
    plruPick elig d bits (2 * node + b2n goHi) (if goHi then hi else lo)

def Cache.touch (c : Cache) (g : Geo) (set way : Nat) : Cache := { c with plru := Tab.set 0 c.plru set (plruTouch g.depth (Tab.get 0 c.plru set) 1 way) }

/-- The way that a fill of a set takes (R347): none when no way is eligible. -/
def Cache.victim (c : Cache) (g : Geo) (elig : Nat → Bool) (set : Nat) : Option Nat :=
  match firstBelow g.ways (fun w => elig w && decide (c.at g set w = none)) with
  | some w => some w
  | none => if (List.range g.ways).any elig then some (plruPick elig g.depth (Tab.get 0 c.plru set) 1 0) else none

/-- Put a line in; the cache and the line evicted. A line already held is replaced in its way. -/
def Cache.fill (c : Cache) (g : Geo) (elig : Nat → Bool) (l : Line) : Cache × Option Line :=
  let set := l.num % g.sets
  match c.wayOf g l.num with
  | some w => ((c.put g set w (some l)).touch g set w, none)
  | none =>
    match c.victim g elig set with
    | none => (c, some l)
    | some w => ((c.put g set w (some l)).touch g set w, c.at g set w)

/-- Drop the line. -/
def Cache.drop (c : Cache) (g : Geo) (num : Nat) : Cache :=
  match c.wayOf g num with
  | some w => c.put g (num % g.sets) w none
  | none => c

/-- Replace the held line's data and dirty mark; nothing when it is not held. -/
def Cache.update (c : Cache) (g : Geo) (num : Nat) (d : BitVec 1024) (dirty : Bool) : Cache :=
  match c.wayOf g num with
  | some w => c.put g (num % g.sets) w (some { num := num, dirty := dirty, data := d })
  | none => c

/-- A hit on the line touches its way. -/
def Cache.hit (c : Cache) (g : Geo) (num : Nat) : Cache :=
  match c.wayOf g num with
  | some w => c.touch g (num % g.sets) w
  | none => c

/-! ## Coherence -/

/-- CCTL fields (R350). -/
def Pair.scrw (p : Pair) : Nat := fld p.cctl.toNat 12 4
def Pair.l2on (p : Pair) : Bool := bit p.cctl.toNat 2
def Pair.l1dOn (p : Pair) : Bool := bit p.cctl.toNat 1 && p.l2on
def Pair.l1iOn (p : Pair) : Bool := bit p.cctl.toNat 0 && p.l2on

/-- The number of the L1D line of the scratchpad that holds an offset: above every line of memory (R328, R349). -/
def scrLine (off : Nat) : Nat := 2 ^ 45 + off / 128

/-- A dirty line that leaves L1D, or is cleaned there, is written back: into L2, or into the scratchpad ways (R346). -/
def Pair.l1dBack (p : Pair) (v : Line) : Pair :=
  if !v.dirty then p
  else if 2 ^ 45 ≤ v.num then { p with scr := Tab.setMany 0 p.scr ((v.num - 2 ^ 45) * 128) (lineBytes v.data) }
  else { p with l2 := p.l2.update geoL2 v.num v.data true }

def Pair.eligL2 (p : Pair) (w : Nat) : Bool := decide (w < 16 - p.scrw)
def Chip.eligL3 (c : Chip) (w : Nat) : Bool := !c.l3off.contains w

/-- The first dirty copy of a line: L1D before L2 before L3, since an L1D copy is the newer. -/
def State.dirtyCopy (s : State) (num : Nat) : Option Line :=
  let pick := fun l : Option Line => l.bind (fun x => if x.dirty then some x else none)
  match s.pairs.findSome? (fun e => pick (e.2.l1d.find num)) with
  | some l => some l
  | none =>
    match s.pairs.findSome? (fun e => pick (e.2.l2.find num)) with
    | some l => some l
    | none => s.chips.findSome? (fun e => pick (e.2.l3.find num))

/-- Any copy of a line in a data cache. -/
def State.anyCopy (s : State) (num : Nat) : Option Line :=
  match s.pairs.findSome? (fun e => e.2.l1d.find num) with
  | some l => some l
  | none =>
    match s.pairs.findSome? (fun e => e.2.l2.find num) with
    | some l => some l
    | none => s.chips.findSome? (fun e => e.2.l3.find num)

/-- The data of a line as the coherent domain holds it; none when it reads as poison. -/
def State.cohLine (s : State) (num : Nat) : Option (List Byte) :=
  match s.dirtyCopy num with
  | some l => some (lineBytes l.data)
  | none =>
    match s.anyCopy num with
    | some l => some (lineBytes l.data)
    | none => if s.linePoison num then none else some (s.memLine num)

/-- A pair without the line. -/
def Pair.dropLine (p : Pair) (num : Nat) : Pair := { p with l1i := p.l1i.drop geoL1i num, l1d := p.l1d.drop geoL1d num, l2 := p.l2.drop geoL2 num }
def Pair.holds (p : Pair) (num : Nat) : Bool := (p.l1i.find num).isSome || (p.l1d.find num).isSome || (p.l2.find num).isSome

/-- Drop every copy of a line (INVAL of R355). -/
def State.dropLine (s : State) (num : Nat) : State :=
  let s1 := s.pairs.foldl (fun t e => if e.2.holds num then t.setPair e.1 ((t.pair e.1).dropLine num) else t) s
  s.chips.foldl (fun t e => if (e.2.l3.find num).isSome then t.setChip e.1 { t.chip e.1 with l3 := (t.chip e.1).l3.drop geoL3 num } else t) s1

/-- Write back the dirty copy of a line, leaving every copy clean (CLEAN of R355). -/
def State.cleanLine (s : State) (num : Nat) : State :=
  match s.dirtyCopy num with
  | none => s
  | some l =>
    let s1 := s.writeLine num (lineBytes l.data)
    let s2 := s.pairs.foldl (fun t e => if e.2.holds num then t.setPair e.1 { t.pair e.1 with
      l1d := (t.pair e.1).l1d.update geoL1d num l.data false, l2 := (t.pair e.1).l2.update geoL2 num l.data false } else t) s1
    s.chips.foldl (fun t e => if (e.2.l3.find num).isSome then t.setChip e.1 { t.chip e.1 with l3 := (t.chip e.1).l3.update geoL3 num l.data false } else t) s2

/-- Write back and drop every copy (CLINV of R355). -/
def State.flushLine (s : State) (num : Nat) : State := (s.cleanLine num).dropLine num

/-- A line as it goes into a cache that may hold it: a dirty copy there stays dirty under a clean one, which was filled from it (R346). -/
def Cache.merged (c : Cache) (l : Line) : Line :=
  match c.find l.num with
  | some o => if o.dirty && !l.dirty then o else l
  | none => l

/-- Put a line into the L3 of a chiplet; a dirty victim goes to memory (R358). -/
def State.l3Put (s : State) (c : Nat) (l : Line) : State :=
  let ch := s.chip c
  let (l3, ev) := ch.l3.fill geoL3 ch.eligL3 (ch.l3.merged l)
  let s1 := s.setChip c { ch with l3 := l3 }
  match ev with
  | some v => if v.dirty then s1.writeLine v.num (lineBytes v.data) else s1
  | none => s1

/-- Take the newest data of a line that a pair holds, and drop it from the pair's L1 caches (R346 inclusion). -/
def Pair.newest (p : Pair) (l : Line) : Line :=
  match p.l1d.find l.num with
  | some x => if x.dirty then { l with data := x.data, dirty := true } else l
  | none => l

/-- Put a line into the L2 of slot n; the victim leaves the pair's L1 caches and goes to L3 (R346). -/
def State.l2Put (s : State) (n : Nat) (l : Line) : State :=
  let p := s.pair n
  let (l2, ev) := p.l2.fill geoL2 p.eligL2 l
  match ev with
  | none => s.setPair n { p with l2 := l2 }
  | some v =>
    let v2 := p.newest v
    (s.setPair n { p with l2 := l2, l1i := p.l1i.drop geoL1i v.num, l1d := p.l1d.drop geoL1d v.num }).l3Put (n / 16) v2

/-- Put a line into the L1D of slot n; a dirty victim is written back. -/
def State.l1dPut (s : State) (n : Nat) (l : Line) : State :=
  let p := s.pair n
  let (l1d, ev) := p.l1d.fill geoL1d (fun _ => true) l
  s.setPair n { (match ev with | some v => p.l1dBack v | none => p) with l1d := l1d }

/-- A hit in the L3 of a chiplet touches its way (R347). -/
def State.l3Touch (s : State) (k num : Nat) : State :=
  let c := s.chip k
  if (c.l3.find num).isSome then s.setChip k { c with l3 := c.l3.hit geoL3 num } else s

/-- A line is looked for below the L1 caches: the L2 of slot n brings it in unless it is held; a hit in L2, or in the L3 of the
chiplet, touches its way (R347). -/
def State.l2Get (s : State) (n : Nat) (l : Line) : State :=
  let p := s.pair n
  if (p.l2.find l.num).isSome then s.setPair n { p with l2 := p.l2.hit geoL2 l.num } else (s.l3Touch (n / 16) l.num).l2Put n l

/-- Bring a line into L2 and, with L1D on, into L1D of slot n; a line that L1D holds is touched (R347); a poisoned line is not
brought in. -/
def State.fillData (s : State) (n num : Nat) (l1 : Bool) : State :=
  let p := s.pair n
  if !p.l2on then s
  else
    match s.cohLine num with
    | none => s
    | some bs =>
      let l : Line := { num := num, dirty := false, data := lineOf bs }
      if l1 && (p.l1d.find num).isSome then s.setPair n { p with l1d := p.l1d.hit geoL1d num }
      else
        let s1 := s.l2Get n l
        if l1 && p.l1dOn then s1.l1dPut n l else s1

/-- Bring a line into L2 and L1I of slot n (a fetch). -/
def State.fillFetch (s : State) (n num : Nat) : State :=
  let p := s.pair n
  if !p.l1iOn then s
  else
    match s.cohLine num with
    | none => s
    | some bs =>
      let l : Line := { num := num, dirty := false, data := lineOf bs }
      let s1 := if (p.l1i.find num).isSome then s else s.l2Get n l
      let p1 := s1.pair n
      let (l1i, _) := p1.l1i.fill geoL1i (fun _ => true) l
      s1.setPair n { p1 with l1i := l1i }

/-- Overwrite bytes of a line's data at an offset. -/
def overlay (d : List Byte) (o : Nat) (bs : List Byte) : List Byte := d.take o ++ bs ++ d.drop (o + bs.length)

/-- An agent's write of bytes that lie within one line: any cached copy is written back and dropped first. -/
def State.agentPart (s : State) (a : Nat) (bs : List Byte) : State :=
  if !s.backed a then s
  else
    let s1 := s.flushLine (a / 128)
    if bs.length = 128 then s1.writeLine (a / 128) bs else s1.writePart a bs

/-- An agent's write of any bytes, line by line; n bounds the number of lines. -/
def State.agentWriteN : Nat → State → Nat → List Byte → State
  | 0, s, _, _ => s
  | n + 1, s, a, bs =>
    let k := 128 - a % 128
    if bs.isEmpty then s else State.agentWriteN n (s.agentPart a (bs.take k)) (a + k) (bs.drop k)

def State.agentWrite (s : State) (a : Nat) (bs : List Byte) : State := State.agentWriteN (bs.length / 128 + 2) s a bs

/-- The result of a coherent read of bytes: the bytes, poison, or an address that nothing backs. -/
inductive RdRes where
  | ok (bs : List Byte)
  | poison (pa : Nat)
  | unbacked (pa : Nat)
deriving DecidableEq, Repr

/-- A coherent read of bytes, line by line. -/
def State.cohReadN : Nat → State → Nat → Nat → RdRes
  | 0, _, _, _ => .ok []
  | n + 1, s, a, len =>
    if len = 0 then .ok []
    else
      let k := Nat.min len (128 - a % 128)
      if !s.backed a then .unbacked a
      else
        match s.cohLine (a / 128) with
        | none => .poison a
        | some d =>
          match State.cohReadN n s (a + k) (len - k) with
          | .ok bs => .ok ((d.drop (a % 128)).take k ++ bs)
          | r => r

def State.cohRead (s : State) (a len : Nat) : RdRes := State.cohReadN (len / 128 + 2) s a len

/-- A store released by a core of slot n into cached memory: allocated dirty in L1D, or in L2 with L1D off, every
other copy dropped, the L2 line below it as it stood before (R316, R346); bytes of one line. A part of a poisoned line is discarded (R641). -/
def State.coreStore (s : State) (n a : Nat) (bs : List Byte) : State :=
  let num := a / 128
  let p := s.pair n
  if !s.backed a then s
  else if !p.l2on then s.agentPart a bs
  else
    match (if bs.length = 128 then some (List.replicate 128 0) else s.cohLine num) with
    | none => s
    | some d =>
      let l : Line := { num := num, dirty := true, data := lineOf (overlay d (a % 128) bs) }
      let own := s.pair n
      let below : Line := match s.cohLine num with
        | some o => { num := num, dirty := (s.dirtyCopy num).isSome, data := lineOf o }
        | none => { l with dirty := false }
      let s0 := if (own.l1d.find num).isSome || (own.l2.find num).isSome then s else s.l3Touch (n / 16) num
      let s1 := s0.dropLine num
      let s2 := s1.setPair n { s1.pair n with l1d := own.l1d, l2 := own.l2 }
      if own.l1dOn then
        let s3 := if (own.l1d.find num).isSome then s2 else s2.l2Get n below
        s3.l1dPut n l
      else s2.l2Put n l

end Sys2Proof.Machine
end

