-- ==== Sys2Proof/Machine/Translate.lean ====
section
/-! DEFINITION. Address translation (07 R359 to R372): page entries, the two-stage walk, level H, the TLB, and the
hypervisor-stage translation that hub agents make (12 R589). -/

namespace Sys2Proof.Machine

/-- The access kinds that a stage permits or refuses (R367). -/
inductive Need where
  | r | w | rw | x
deriving DecidableEq, Repr

/-- A translation: physical address and region type, or a fault of a stage with the IPA of a hypervisor-stage
fault and the address of an entry that nothing backs and so read all ones (R333), or a poisoned entry at an address. -/
inductive TrRes where
  | ok (pa : Nat) (mt : Nat)
  | fault (hyp : Bool) (fipa hole : Option Nat)
  | poison (pa : Nat)
deriving DecidableEq, Repr

/-- A leaf reached by one stage: output address of the input address, permissions U X W R from bit 3 down, MT. -/
inductive StRes where
  | ok (oa : Nat) (perms : BitVec 4) (mt : Nat) (lvl : Nat)
  | fault (fipa : Option Nat) (hyp : Bool) (hole : Option Nat)
  | poison (pa : Nat)
deriving DecidableEq, Repr

/-- What an entry is at a level (R365, R366): a table, a leaf, or a breach. -/
inductive Pte where
  | table (oa : Nat)
  | leaf (oa : Nat) (perms : BitVec 4) (mt : Nat)
  | bad
deriving DecidableEq, Repr

/-- Read an entry (R365); hyp: the hypervisor stage, whose U must be 0. -/
def pteOf (hyp : Bool) (lvl : Nat) (e : Nat) : Pte :=
  let oa := fld e 12 40 * 4096
  if !bit e 0 || fld e 52 8 ≠ 0 || fld e 9 3 ≠ 0 then .bad
  else if bit e 1 then
    if lvl = 3 || (lvl = 2 && decide (oa % 2 ^ 30 ≠ 0)) || (lvl = 1 && decide (oa % 2 ^ 21 ≠ 0)) || (hyp && bit e 8) || decide (3 < fld e 2 3) then .bad
    else .leaf oa (BitVec.ofNat 4 (fld e 5 4)) (fld e 2 3)
  else if lvl = 0 || fld e 2 10 ≠ 0 then .bad
  else .table oa

/-- Read an 8-byte entry: its value, a fault (address outside memory), poison, or an entry that nothing backs or that stands in the carve-out, whose all ones are a
breach (R333, R365, R366, R369, 13 R648). -/
inductive EntRes where
  | ok (v : Nat)
  | bad
  | poison
  | hole
deriving DecidableEq, Repr

def State.readEntry (s : State) (pa : Nat) : EntRes :=
  if !isMem pa then .bad
  else if isCarve pa then .hole
  else
    match s.cohRead pa 8 with
    | .ok bs => .ok (ofLe bs)
    | .poison _ => .poison
    | .unbacked _ => .hole

/-- The walk of the hypervisor stage, or of level H (hyp false: U is an ordinary bit), from a table at a level.
Table addresses are physical; held gives the next table of a level where a TLB holds the entry (R370). -/
def State.walkPhys (s : State) (hyp : Bool) (held : Nat → Option Nat) : Nat → Nat → Nat → StRes
  | 0, tab, a =>
    match s.readEntry (tab + 8 * fld a 12 9) with
    | .bad => .fault (some a) true none
    | .hole => .fault (some a) true (some (tab + 8 * fld a 12 9))
    | .poison => .poison (tab + 8 * fld a 12 9)
    | .ok e =>
      match pteOf hyp 0 e with
      | .leaf oa p mt => .ok (oa + a % 2 ^ 12) p mt 0
      | _ => .fault (some a) true none
  | n + 1, tab, a =>
    let lo := 12 + 9 * (n + 1)
    let idx := if n + 1 = 3 then a / 2 ^ 39 else fld a lo 9
    match held (n + 1) with
    | some t => State.walkPhys s hyp held n t a
    | none =>
      match s.readEntry (tab + 8 * idx) with
      | .bad => .fault (some a) true none
      | .hole => .fault (some a) true (some (tab + 8 * idx))
      | .poison => .poison (tab + 8 * idx)
      | .ok e =>
        match pteOf hyp (n + 1) e with
        | .table t => State.walkPhys s hyp held n t a
        | .leaf oa p mt => .ok (oa + a % 2 ^ lo) p mt (n + 1)
        | .bad => .fault (some a) true none

/-- The tables that such a walk passes: level and address of the next table. -/
def State.pathPhys (s : State) (hyp : Bool) (held : Nat → Option Nat) : Nat → Nat → Nat → List (Nat × Nat)
  | 0, _, _ => []
  | n + 1, tab, a =>
    let idx := if n + 1 = 3 then a / 2 ^ 39 else fld a (12 + 9 * (n + 1)) 9
    match (match held (n + 1) with
      | some t => some t
      | none => match s.readEntry (tab + 8 * idx) with
        | .ok e => (match pteOf hyp (n + 1) e with | .table t => some t | _ => none)
        | _ => none) with
    | some t => (n + 1, t) :: State.pathPhys s hyp held n t a
    | none => []

/-- The index of level k of an address. -/
def walkIdx (k a : Nat) : Nat := if k = 3 then a / 2 ^ 39 else fld a (12 + 9 * k) 9

/-- The addresses of the entries that a walk reads, from the tables that it passes; a level that a TLB holds is not read. -/
def entriesOf (held : Nat → Option Nat) (root a : Nat) (ts : List (Nat × Nat)) : List Nat :=
  ((3, root) :: ts.map (fun t => (t.1 - 1, t.2))).filterMap (fun t => if (held t.1).isSome then none else some (t.2 + 8 * walkIdx t.1 a))

/-- Permission of a stage for an access; user: level A, supFetch: a fetch at level S (R367). -/
def permOk (perms : BitVec 4) (need : Need) : Bool :=
  let r := perms.getLsbD 0
  let w := perms.getLsbD 1
  let x := perms.getLsbD 2
  match need with
  | .r => r
  | .w => w
  | .rw => r && w
  | .x => x

/-- The level-A and level-S rules on U, bit 3 (R367). -/
def userOk (perms : BitVec 4) (priv : BitVec 2) (need : Need) : Bool :=
  let u := perms.getLsbD 3
  if priv = 0 then u else if priv = 1 then !(decide (need = .x) && u) else true

/-- A leaf entry of a stage that covers an address (R370). -/
def tlbFind (t : List TlbEntry) (stage inst a : Nat) : Option TlbEntry :=
  t.find? (fun e => !e.table && e.stage = stage && (stage = 2 || e.inst = inst) && e.page = a / 2 ^ (12 + 9 * e.lvl))

/-- The non-leaf entry of a level held for an address: the table of the next level (R370). -/
def tlbTable (t : List TlbEntry) (stage inst lvl a : Nat) : Option Nat :=
  (t.find? (fun e => e.table && e.stage = stage && (stage = 2 || e.inst = inst) && e.lvl = lvl && e.page = a / 2 ^ (12 + 9 * lvl))).map (·.oa)

def tlbRes (e : TlbEntry) (a : Nat) : StRes := .ok (e.oa + a % 2 ^ (12 + 9 * e.lvl)) e.perms e.mt.toNat e.lvl

/-- The hypervisor stage of an IPA of an instance from root (R362, R366), 8,192 root entries, through a TLB. -/
def State.hypStage (s : State) (t : List TlbEntry) (inst root ipa : Nat) : StRes :=
  match tlbFind t 1 inst ipa with
  | some e => tlbRes e ipa
  | none => if 2 ^ 52 ≤ ipa then .fault (some ipa) true none else s.walkPhys true (fun k => tlbTable t 1 inst k ipa) 3 (root / 2 ^ 16 * 2 ^ 16 % 2 ^ 52) ipa
def State.hypPath (s : State) (t : List TlbEntry) (inst root ipa : Nat) : List (Nat × Nat) :=
  if 2 ^ 52 ≤ ipa then [] else s.pathPhys true (fun k => tlbTable t 1 inst k ipa) 3 (root / 2 ^ 16 * 2 ^ 16 % 2 ^ 52) ipa

/-- The hypervisor stage for a logical core. -/
def State.hypOf (s : State) (c : Core) (ipa : Nat) : StRes := s.hypStage c.tlb c.lctxCur.inst c.lctxCur.hroot.toNat ipa

/-- The guest stage from a table at a level: table addresses are IPAs (R369). A physical address in no range that the hypervisor stage gives for one is that
stage's fault (R359); one in control space is a table address outside memory, the guest stage's (R366). -/
def State.walkGuest (s : State) (c : Core) (vaw : Nat) : Nat → Nat → Nat → StRes
  | 0, tab, va =>
    match s.hypOf c (tab + 8 * fld va 12 9) with
    | .fault f _ o => .fault f true o
    | .poison p => .poison p
    | .ok pa hp _ _ =>
      if !permOk hp .r then .fault (some (tab + 8 * fld va 12 9)) true none
      else
        match s.readEntry pa with
        | .bad => if inMap pa then .fault none false none else .fault (some (tab + 8 * fld va 12 9)) true none
        | .hole => .fault none false (some pa)
        | .poison => .poison pa
        | .ok e =>
          match pteOf false 0 e with
          | .leaf oa p mt => .ok (oa + va % 2 ^ 12) p mt 0
          | _ => .fault none false none
  | n + 1, tab, va =>
    let lo := 12 + 9 * (n + 1)
    let idx := if n + 1 = 3 then fld va 39 (vaw - 39) else fld va lo 9
    match tlbTable c.tlb 0 c.lctxCur.inst (n + 1) va with
    | some t => State.walkGuest s c vaw n t va
    | none =>
      match s.hypOf c (tab + 8 * idx) with
      | .fault f _ o => .fault f true o
      | .poison p => .poison p
      | .ok pa hp _ _ =>
        if !permOk hp .r then .fault (some (tab + 8 * idx)) true none
        else
          match s.readEntry pa with
          | .bad => if inMap pa then .fault none false none else .fault (some (tab + 8 * idx)) true none
          | .hole => .fault none false (some pa)
          | .poison => .poison pa
          | .ok e =>
            match pteOf false (n + 1) e with
            | .table t => State.walkGuest s c vaw n t va
            | .leaf oa p mt => .ok (oa + va % 2 ^ lo) p mt (n + 1)
            | .bad => .fault none false none

/-- The tables that the guest walk passes: level and IPA of the next table. -/
def State.pathGuest (s : State) (c : Core) (vaw : Nat) : Nat → Nat → Nat → List (Nat × Nat)
  | 0, _, _ => []
  | n + 1, tab, va =>
    let idx := if n + 1 = 3 then fld va 39 (vaw - 39) else fld va (12 + 9 * (n + 1)) 9
    match (match tlbTable c.tlb 0 c.lctxCur.inst (n + 1) va with
      | some t => some t
      | none => match s.hypOf c (tab + 8 * idx) with
        | .ok pa _ _ _ => (match s.readEntry pa with
          | .ok e => (match pteOf false (n + 1) e with | .table t => some t | _ => none)
          | _ => none)
        | _ => none) with
    | some t => (n + 1, t) :: State.pathGuest s c vaw n t va
    | none => []

/-- Bits [63:VAW] all equal bit VAW - 1 (R362). -/
def canonical (vaw va : Nat) : Bool :=
  let top := va / 2 ^ (vaw - 1)
  decide (top = 0) || decide (top = 2 ^ (65 - vaw) - 1)

def rootOf (vaw : Nat) (r : Word) : Nat := fld r.toNat 12 40 * 4096 / 2 ^ (vaw - 36) * 2 ^ (vaw - 36)

/-- The guest stage: the virtual address as IPA when GEN is 0 (R363). -/
def State.guestOf (s : State) (c : Core) (va : Nat) : StRes :=
  let x := c.lctxCur
  if !x.gen then .ok va 15 0 0
  else if !canonical x.vaw va then .fault none false none
  else
    match tlbFind c.tlb 0 x.inst va with
    | some e => tlbRes e va
    | none => s.walkGuest c x.vaw 3 (rootOf x.vaw x.groot) va

/-- The combined region type (R368): WB 0, UC 1, DEV 2, SCR 3; none is a hypervisor-stage fault. -/
def combineMt (g h : Nat) : Option Nat :=
  if (g = 3 && (h = 1 || h = 2)) || (h = 3 && (g = 1 || g = 2)) then none
  else if g = 2 || h = 2 then some 2
  else if g = 3 || h = 3 then some 3
  else if g = 1 || h = 1 then some 1
  else some 0

/-- A fetch is refused from DEV and SCR (R328). -/
def mtRefuses (need : Need) (mt : Nat) : Bool := decide (need = .x) && (decide (mt = 2) || decide (mt = 3))

/-- Translation of an access of logical core state c at level priv (R360 to R368). -/
def State.translate (s : State) (c : Core) (priv : BitVec 2) (need : Need) (va : Nat) : TrRes :=
  if priv = 2 then
    if c.lctxCur.hxen then
      let vaw := c.lctxCur.vaw
      if !canonical vaw va then .fault true none none
      else
        let r := match tlbFind c.tlb 2 0 va with
          | some e => tlbRes e va
          | none => s.walkPhys false (fun k => tlbTable c.tlb 2 0 k va) 3 (rootOf vaw c.lctxCur.hxroot) (va % 2 ^ vaw)
        match r with
        | .fault _ _ o => .fault true none o
        | .poison p => .poison p
        | .ok pa p mt _ =>
          if !permOk p need || mtRefuses need mt then .fault true none none
          else if !inMap pa || (decide (need = .x) && isCtl pa) then .fault true none none
          else .ok pa mt
    else if 2 ^ 52 ≤ va || !inMap va then .fault true none none
    else if isCtl va then (if need = .x then .fault true none none else .ok va 2)
    else .ok va 0
  else
    match s.guestOf c va with
    | .fault f h o => .fault h f o
    | .poison p => .poison p
    | .ok ipa gp gm _ =>
      if c.lctxCur.gen && (!permOk gp need || !userOk gp priv need) then .fault false none none
      else
        match s.hypOf c ipa with
        | .fault f _ o => .fault true f o
        | .poison p => .poison p
        | .ok pa hp hm _ =>
          if !permOk hp need then .fault true (some ipa) none
          else
            match combineMt gm hm with
            | none => .fault true (some ipa) none
            | some mt =>
              if mtRefuses need mt then (if mtRefuses need gm then .fault false none none else .fault true (some ipa) none)
              else if !inMap pa || (decide (need = .x) && isCtl pa) then .fault true (some ipa) none
              else .ok pa mt

/-- The entries that a completed walk of an address enters in the TLB, leaf and non-leaf (R370). -/
def State.tlbEntries (s : State) (c : Core) (priv : BitVec 2) (va : Nat) : List TlbEntry :=
  let x := c.lctxCur
  let mk := fun (stage a : Nat) (r : StRes) => match r with
    | .ok oa p mt lvl => [{ stage := stage, inst := x.inst, lvl := lvl, page := a / 2 ^ (12 + 9 * lvl), oa := oa / 2 ^ (12 + 9 * lvl) * 2 ^ (12 + 9 * lvl), perms := p, mt := BitVec.ofNat 3 mt : TlbEntry }]
    | _ => []
  let tb := fun (stage a : Nat) (ts : List (Nat × Nat)) => ts.map (fun t =>
    ({ stage := stage, inst := x.inst, lvl := t.1, page := a / 2 ^ (12 + 9 * t.1), oa := t.2, perms := 0, mt := 0, table := true } : TlbEntry))
  let hyp := fun ipa : Nat => tb 1 ipa (s.hypPath c.tlb x.inst x.hroot.toNat ipa) ++ mk 1 ipa (s.hypOf c ipa)
  if priv = 2 then
    (if x.hxen && canonical x.vaw va then
      tb 2 va (s.pathPhys false (fun k => tlbTable c.tlb 2 0 k va) 3 (rootOf x.vaw x.hxroot) (va % 2 ^ x.vaw))
      ++ mk 2 va (s.walkPhys false (fun k => tlbTable c.tlb 2 0 k va) 3 (rootOf x.vaw x.hxroot) (va % 2 ^ x.vaw)) else [])
  else
    (if x.gen && canonical x.vaw va then tb 0 va (s.pathGuest c x.vaw 3 (rootOf x.vaw x.groot) va) else [])
    ++ (match s.guestOf c va with
      | .ok ipa p mt lvl => (if x.gen then mk 0 va (.ok ipa p mt lvl) else []) ++ hyp ipa
      | _ => [])

/-- The physical addresses of the entries that the walk of an address reads (R369): those of the guest stage, each behind the walk of its IPA, and those of the
hypervisor stage, or those of level H. -/
def State.hypReads (s : State) (c : Core) (ipa : Nat) : List Nat :=
  if (tlbFind c.tlb 1 c.lctxCur.inst ipa).isSome || decide (2 ^ 52 ≤ ipa) then []
  else entriesOf (fun k => tlbTable c.tlb 1 c.lctxCur.inst k ipa) (c.lctxCur.hroot.toNat / 2 ^ 16 * 2 ^ 16 % 2 ^ 52) ipa (s.hypPath c.tlb c.lctxCur.inst c.lctxCur.hroot.toNat ipa)
def State.walkReads (s : State) (c : Core) (priv : BitVec 2) (va : Nat) : List Nat :=
  let x := c.lctxCur
  if priv = 2 then
    (if x.hxen && canonical x.vaw va && (tlbFind c.tlb 2 0 va).isNone then
      entriesOf (fun k => tlbTable c.tlb 2 0 k va) (rootOf x.vaw x.hxroot) (va % 2 ^ x.vaw) (s.pathPhys false (fun k => tlbTable c.tlb 2 0 k va) 3 (rootOf x.vaw x.hxroot) (va % 2 ^ x.vaw))
    else [])
  else
    (if x.gen && canonical x.vaw va && (tlbFind c.tlb 0 x.inst va).isNone then
      (entriesOf (fun k => tlbTable c.tlb 0 x.inst k va) (rootOf x.vaw x.groot) (va % 2 ^ x.vaw) (s.pathGuest c x.vaw 3 (rootOf x.vaw x.groot) va)).flatMap
        (fun ipa => s.hypReads c ipa ++ (match s.hypOf c ipa with | .ok pa _ _ _ => [pa] | _ => []))
    else [])
    ++ (match s.guestOf c va with | .ok ipa _ _ _ => s.hypReads c ipa | _ => [])

/-! ## Hub agents (R589) -/

/-- A hub agent's access to one address of instance i: translated through HROOT of the plan, needing R or W in
WB or UC; instance 0 is not translated (12 R583). -/
inductive AgRes where
  | ok (pa : Nat)
  | fault
  | poison (pa : Nat)
deriving DecidableEq, Repr

def State.agentAddr (s : State) (i : Nat) (write : Bool) (ipa : Nat) : AgRes :=
  if i = 0 then (if isMem ipa then .ok ipa else .fault)
  else
    match s.hypStage s.inst.hubTlb i (s.ins i).plan.hroot ipa with
    | .fault _ _ _ => .fault
    | .poison p => .poison p
    | .ok pa p mt _ =>
      if !permOk p (if write then .w else .r) || 2 ≤ mt || !isMem pa then .fault else .ok pa

/-- The outcome of an agent's read of bytes: carve: a carve-out byte was reached, which reads all ones (13 R648). -/
inductive AgRead where
  | ok (bs : List Byte) (carve : List Nat)
  | fault (ipa : Nat)
  | poison (pa : Nat)
deriving DecidableEq, Repr

/-- Read bytes for an instance, page by page (4 KiB) and line by line; n bounds the pieces. -/
def State.agentReadN (s : State) (i : Nat) : Nat → Nat → Nat → AgRead
  | 0, _, _ => .ok [] []
  | n + 1, a, len =>
    if len = 0 then .ok [] []
    else
      let k := Nat.min len (128 - a % 128)
      match s.agentAddr i false a with
      | .fault => .fault a
      | .poison p => .poison p
      | .ok pa =>
        let here : Option (List Byte × List Nat) :=
          if isCarve pa || !s.backed pa then some (List.replicate k 255, [pa])
          else (s.cohLine (pa / 128)).map (fun d => ((d.drop (pa % 128)).take k, []))
        match here with
        | none => .poison pa
        | some (bs, cs) =>
          match State.agentReadN s i n (a + k) (len - k) with
          | .ok bs2 cs2 => .ok (bs ++ bs2) (cs ++ cs2)
          | r => r

def State.agentRead (s : State) (i a len : Nat) : AgRead := s.agentReadN i (len / 128 + 2) a len

/-- Check a write of bytes for an instance: the physical pieces, or the fault. -/
inductive AgWr where
  | ok (ps : List (Nat × Nat × List Byte)) (carve : List Nat)
  | fault (ipa : Nat)
  | poison (pa : Nat)
deriving DecidableEq, Repr

def State.agentPieces (s : State) (i : Nat) : Nat → Nat → List Byte → AgWr
  | 0, _, _ => .ok [] []
  | n + 1, a, bs =>
    if bs.isEmpty then .ok [] []
    else
      let k := 128 - a % 128
      match s.agentAddr i true a with
      | .fault => .fault a
      | .poison p => .poison p
      | .ok pa =>
        match State.agentPieces s i n (a + k) (bs.drop k) with
        | .ok ps cs =>
          if isCarve pa || !s.backed pa then .ok ps (pa :: cs) else .ok ((a, pa, bs.take k) :: ps) cs
        | r => r

/-- Set the dirty-log bit of one page of instance i (R617): its log bit, or LOGALL when no range covers it. -/
def State.dirtyPage (s : State) (i page : Nat) : State :=
  if i = 0 then s
  else
    let rec go : List (Nat × Nat) → Nat → Nat
      | [], _ => 0
      | (base, n) :: t, off => if base ≤ page && page < base + n then off + (page - base) else go t (off + n)
    { s with inst := { s.inst with dirty := Tab.set false s.inst.dirty (2 ^ 25 * i + go (s.ins i).plan.logs 0) true } }

/-- The translation of a page that a hub agent has used stays in its TLB, the leaf and the tables above it (R370, 12 R589; log entry 124). -/
def State.hubFill (s : State) (i ipa : Nat) : State :=
  if i = 0 then s
  else
    let root := (s.ins i).plan.hroot
    match s.hypStage s.inst.hubTlb i root ipa with
    | .ok oa p mt lvl =>
      let sz := fun k : Nat => 2 ^ (12 + 9 * k)
      let tabs := (s.hypPath s.inst.hubTlb i root ipa).map (fun t =>
        ({ stage := 1, inst := i, lvl := t.1, page := ipa / sz t.1, oa := t.2, perms := 0, mt := 0, table := true } : TlbEntry))
      let leaf : TlbEntry := { stage := 1, inst := i, lvl := lvl, page := ipa / sz lvl, oa := oa / sz lvl * sz lvl, perms := p, mt := BitVec.ofNat 3 mt }
      { s with inst := { s.inst with hubTlb := s.inst.hubTlb ++ (tabs ++ [leaf]).filter (fun e => !s.inst.hubTlb.contains e) } }
    | _ => s

/-- Perform checked pieces and log their pages (R617, R618). -/
def State.agentDo (s : State) (i : Nat) (ps : List (Nat × Nat × List Byte)) : State :=
  ps.foldl (fun t p => ((t.agentWrite p.2.1 p.2.2).dirtyPage i (p.1 / 4096)).hubFill i p.1) s

end Sys2Proof.Machine
end

