-- ==== Sys2Proof/Machine/Events.lean ====
section
/-! DEFINITION. The event router (05 R246 to R250) and virtual event vectors (12 R603 to R608). -/

namespace Sys2Proof.Machine

/-- ERDST.VIRT, and DEST as a logical core and a vector (R246). -/
def ErSrc.virt (e : ErSrc) : Bool := bit e.dst.toNat 31
def ErSrc.lc (e : ErSrc) : Nat := fld e.dst.toNat 8 7
def ErSrc.vec (e : ErSrc) : Nat := fld e.dst.toNat 0 6
def ErSrc.vvec (e : ErSrc) : Nat := fld e.dst.toNat 0 16

/-- An input intr v waits to be agreed at the pair (R262). -/
def Core.hasIntr (c : Core) (v : Nat) : Bool := c.inputs.any (fun i => decide (i.kind = .intr v))

/-- Set VPEND[v] of a core: an agreed vector also counts since the captures (R264, R277). -/
def Core.setVpend (c : Core) (v : Nat) : Core :=
  let m : Word := BitVec.ofNat 64 (2 ^ (v % 64))
  { c with arch := { c.arch with vpend := c.arch.vpend ||| m }, sealed := { c.sealed with agreed := c.sealed.agreed ||| m },
           capturing := c.capturing.map (fun k => { k with agreed := k.agreed ||| m }) }

/-- Core vector v reaches logical core l: an input to be agreed on a checked or RX7-compatible pair (R262, R264, R299), VPEND at
once on a split half. An event whose VPEND is 1, or that already waits to be agreed, adds nothing (R247). -/
def State.raiseCore (s : State) (l v : Nat) : State :=
  let c := s.core l
  if bit c.arch.vpend.toNat v || c.hasIntr v then s
  else if s.checkedPair l then s.setCore l { c with inputs := c.inputs ++ [{ kind := .intr v, e := none, o := none }] }
  else s.setCore l (c.setVpend v)

/-- Raise the core vector of virtual vector v at the logical core and with the vectors of d: CVEC when the instance is current, else ALTVEC;
held while the logical core does not exist (R605, R606). -/
def State.vvGive (s : State) (v : Nat) (d : Nat × BitVec 6 × BitVec 6) : State :=
  let x := s.vv v
  if !s.lcExists d.1 then s.setVv v { x with held := true, deferred := false, dest := d }
  else
    let cur := decide ((s.core d.1).lctxCur.inst = x.ins)
    (s.setVv v { x with next := s.time.ticks + x.modt.toNat, deferred := false, held := false }).raiseCore d.1 (if cur then d.2.1 else d.2.2).toNat

/-- What VVCFG says now. -/
def Vv.now (x : Vv) : Nat × BitVec 6 × BitVec 6 := (x.lcore, x.cvec, x.altvec)

/-- The core vector of v is raised now, or at the end of its moderation interval (R606). -/
def State.vvCore (s : State) (v : Nat) : State :=
  let x := s.vv v
  if s.time.ticks < x.next then s.setVv v { x with deferred := true, dest := x.now } else s.vvGive v x.now

/-- Virtual vector v is raised (R605, R606). -/
def State.raiseVv (s : State) (v : Nat) : State :=
  let x := s.vv v
  if x.pv then s
  else
    let s1 := s.setVv v { x with pv := true }
    if !x.en then s1 else s1.vvCore v

/-- One event of source n: delivered, or held when EN is 0 or the target does not exist (R247). The destination of the
raise is kept: its pending bit is the one that a MODE 1 source watches. -/
def State.erEvent (s : State) (n : Nat) : State :=
  let e := s.er n
  let s1 := s.setEr n { e with last := some e.dst }
  if e.en && e.virt then s1.raiseVv e.vvec
  else if e.en && s.lcExists e.lc then s1.raiseCore e.lc e.vec
  else s.setEr n { e with held := true, last := none }

/-- The input of source n rises: one event when it was low (R246). -/
def State.erRise (s : State) (n : Nat) : State :=
  let e := s.er n
  if e.level then s else (s.setEr n { e with level := true }).erEvent n

/-- The input of source n falls (R246, R247). -/
def State.erFall (s : State) (n : Nat) : State := s.setEr n { s.er n with level := false }

/-- A held event of source n is delivered once EN is 1 and the target exists (R247). -/
def State.erRecheck (s : State) (n : Nat) : State :=
  let e := s.er n
  if e.held && e.en && (e.virt || s.lcExists e.lc) then (s.setEr n { e with held := false }).erEvent n else s

/-- Every held event and held virtual vector whose logical core has come to exist (R247, R605). -/
def State.erRecheckAll (s : State) : State :=
  let s1 := s.router.srcs.foldl (fun t e => t.erRecheck e.1) s
  s1.inst.vvs.foldl (fun t e => if e.2.held && t.lcExists e.2.dest.1 then t.vvGive e.1 e.2.dest else t) s1

/-- While MODE is 1, an asserted source raises again when the pending bit that its last raise set has been cleared, whatever
ERDST holds now; with EN = 0 the event is held (R247). p tells that bit by a destination. -/
def State.erAgain (s : State) (p : ErSrc → Bool) : State :=
  s.router.srcs.foldl (fun t e =>
    match e.2.last with
    | some d => if e.2.level && e.2.mode && p { dst := d } then t.erEvent e.1 else t
    | none => t) s

/-- The pending bit that the last raise of source n set still stands. -/
def State.erStands (s : State) (n : Nat) : Bool :=
  match (s.er n).last with
  | none => false
  | some d =>
    let e : ErSrc := { dst := d }
    if e.virt then (s.vv e.vvec).pv else bit (s.core e.lc).arch.vpend.toNat e.vec || (s.core e.lc).hasIntr e.vec

end Sys2Proof.Machine
end

