-- ==== Sys2Proof/Machine/InstOps.lean ====
section
/-! DEFINITION. The reset of an instance (12 R620 to R625), with what it does in the array (09 R483, 08 R433), the
engines (11 R578 to R581) and the channel subsystem (10 R542, R543). -/

namespace Sys2Proof.Machine

/-- The numbers of a range. -/
def rangeFrom (a n : Nat) : List Nat := (List.range n).map (a + ·)

/-- A Vat is one of the plan's (R586). -/
def Plan.hasVat (p : Plan) (v : Nat) : Bool := bit p.vatMask v

/-- The work of instance i that a unit still holds, with the generation test g (R622, R623). -/
def State.oldLed (s : State) (i : Nat) (g : Nat → Bool) : Nat :=
  (s.chan.led.filter (fun e => e.2.ins = i && decide (e.2.st ≠ .free) && decide (e.2.st ≠ .retired) && g e.2.gen)).length
def State.oldJobs (s : State) (i : Nat) (g : Nat → Bool) : Nat :=
  (s.eng.jobs.filter (fun e => e.2.live && e.2.ins = i && g e.2.gen)).length
def State.work (s : State) (i : Nat) (g : Nat → Bool) : Nat := s.oldLed i g + s.oldJobs i g

/-- OLDWORK: work of generations other than the present one (R623, R625). -/
def State.oldWork (s : State) (i : Nat) : Nat := s.work i (fun g => g ≠ (s.ins i).gen)

/-- The descriptors of a queue pair between its head and its tail word; none when the tail cannot be read (R620). -/
def State.untaken (s : State) (q : Nat) : Nat :=
  let x := s.qp q
  match s.agentRead ((x.owner).getD 0) x.tailptr 8 with
  | .ok bs _ => (ofLe bs % 2 ^ 16 % 2 ^ x.sqlog + 2 ^ x.sqlog - x.head) % 2 ^ x.sqlog
  | _ => 0

/-- The queue pairs, vectors and partition handles of a plan. -/
def Plan.qps (p : Plan) : List Nat := rangeFrom p.qpFirst p.nqp
def Plan.vvs (p : Plan) : List Nat := rangeFrom p.vvFirst p.nvv
def Plan.phs (p : Plan) : List Nat := rangeFrom p.phFirst p.nph
def Plan.epsL (p : Plan) : List Nat := rangeFrom p.epFirst p.nep
def Plan.slots (p : Plan) : List Nat := rangeFrom p.ksFirst p.nks
def Plan.vats (p : Plan) : List Nat := (List.range 256).filter p.hasVat

/-- Held completions of a queue pair by the unit they belong to: engine, array (R596, R625). -/
def heldEng (x : Qp) : Nat := (x.waitC.filter (fun c => 32 ≤ leAt c.bytes 12 1 && decide (leAt c.bytes 12 1 ≠ 64))).length
def heldArr (x : Qp) : Nat := (x.waitC.filter (fun c => decide (leAt c.bytes 12 1 = 64))).length
/-- Those of the channel that keep no ledger entry: of a LACK, or of a descriptor that was refused. -/
def State.heldChan (s : State) (x : Qp) : Nat := (x.waitC.filter (fun c => decide (leAt c.bytes 12 1 < 32) && (s.keeps c).isNone)).length

/-- A queue pair after the acceptance step (R620). -/
def Qp.afterReset (x : Qp) : Qp := { x with head := 0, tail := 0, cidx := 0, phase := true, err := false, bell := false, comp := false, waitC := [] }

/-- A sequencer of a reset instance: its job is gone, and it is idle, unless a configuration fault had left it stopped (08 R429, 09 R483). -/
def Sequencer.reset (x : Sequencer) (c : Option Capture) : Sequencer :=
  { x with job := none, st := if x.job.isSome then .idle else if x.st = .captured then (match c with | some k => if k.pre = .stopped then .stopped else .idle | none => .idle) else x.st,
           xfer := none, waits := .none, orLeft := 0 }
/-- A capture of its partition ends; the command that asked for it is told at CAPTURE_EDGE (log entry 164). -/
def Capture.reset (c : Capture) : Option Capture := if c.by_ = 1 then some { c with edge := false, todo := [], failed := true } else none

/-- Stop the array jobs of instance i, running or preempted (09 R483), and the captures of its partitions; the state and how many jobs there were. -/
def State.stopArray (s : State) (i : Nat) : State × Nat :=
  let run := (s.arr.seqs.filter (fun e => e.2.job.isSome && e.2.inst = i)).map (·.1)
  let all := (s.arr.seqs.filter (fun e => e.2.inst = i && (e.2.job.isSome || (s.cap e.1).isSome))).map (·.1)
  let s1 := all.foldl (fun t q => (t.setSq q ((t.sq q).reset (t.cap q))).setCap q ((t.cap q).bind Capture.reset)) s
  let kept := (s.ins i).plan.phs.filter (fun p => (s.part p).kept.job.isSome)
  let s2 := (s.ins i).plan.phs.foldl (fun t p => t.setPart p { t.part p with kept := {}, saved := false, saveValid := false, bell := false, comp := false }) s1
  (s2, run.length + kept.length)

/-- The Vats of instance i leave their state for UNCFG and are cleared; VAT_CLEAR_COMPLETE ends it (08 R431 to R433). -/
def State.clearVats (s : State) (i : Nat) : State :=
  (s.ins i).plan.vats.foldl (fun t v => t.setVat v { t.vat v with st := .uncfg, pe := {}, res := [], car := [], clearing := true }) s

/-- The units of progress of an engine job, where its descriptor tells them: blocks of a compression, 64 KiB of SRC of a KE job that writes as it goes, and one for jobs
with no boundary before their end (R577); none for a decompression. -/
def EngJob.units (j : EngJob) : Option Nat :=
  let n := leAt j.desc 0x20 4
  match j.opc with
  | 0x20 | 0x22 => let b := 2 ^ leAt j.desc 0x2B 1; some ((n + b - 1) / b)
  | 0x21 | 0x23 => none
  | 0x30 | 0x31 | 0x32 | 0x33 | 0x34 | 0x35 => some ((n + 65535) / 65536)
  | _ => some 1

/-- A running job has the rest of the epoch to its next boundary (R579); whether that is its end is free unless it has only one unit, since progress is timing (log
entry 50). -/
def State.openWindow (s : State) (n : Nat) : State :=
  let (w, s1) := s.draw
  let j := s1.job n
  s1.setJob n { j with window := true, windowAt := s1.time.ticks, lastUnit := (match j.units with | some u => decide (u ≤ 1) | none => false) || w.getLsbD 0 }

/-- Discard the engine jobs of instance i that have not started (R578, R579); window marks the running ones. -/
def State.dropJobs (s : State) (i : Nat) (window : Bool) : State × Nat :=
  let mine := s.eng.jobs.filter (fun e => e.2.live && e.2.ins = i)
  let queued := mine.filter (fun e => !e.2.started)
  let s1 := queued.foldl (fun t e => t.setJob e.1 {}) s
  let s2 := if window then (mine.filter (fun e => e.2.started)).foldl (fun t e => t.openWindow e.1) s1 else s1
  (s2, queued.length)

/-- Empty the key slots of instance i (R581). -/
def State.emptyKeys (s : State) (i : Nat) : State := (s.ins i).plan.slots.foldl (fun t k => t.setKey k none) s

/-- The abort of R519 exists for the transport of an endpoint: not for a network interface. -/
def Endp.aborts (e : Endp) : Bool := decide (e.typ ≠ 5)

/-- An attempt is on its path: sent, not failed and not over (R517). -/
def Led.live (e : Led) : Bool :=
  (decide (e.st = .issued) || decide (e.st = .accepted) || decide (e.st = .data)) && decide (e.attempt ≠ 0) && !e.waiting && !e.rfence && e.pendStatus.isNone

/-- Bytes leave by a port. -/
def State.emit (s : State) (lp : Nat) (bs : List Byte) : State := { s with chan := { s.chan with tx := Tab.set [] s.chan.tx lp bs } }

/-- A command of the device to a target, its abort among them, leaves by the port of a path; in a duplex pair it is compared first (R540, 16 R752). -/
def State.output (s : State) (lp : Nat) (bs : List Byte) : State :=
  if s.dpx.st = .paired then { s with dpx := { s.dpx with outs := s.dpx.outs ++ [(s.dpx.marks, lp, bs)] } } else s.emit lp bs

/-- The first tick boundary after an event of now, from which its whole ticks are counted: this tick's own for what acts at it (10 R526). -/
def TimeSt.start (t : TimeSt) : Nat := if t.edge then t.ticks else t.ticks + 1

/-- DTIME at which n whole ticks have passed since now. -/
def TimeSt.deadline (t : TimeSt) (n : Nat) : Word := t.dtime + BitVec.ofNat 64 (t.start - t.ticks + n)

/-- f acts at the boundary of the present tick. -/
def State.atEdge (s : State) (f : State → State) : State :=
  let t := f { s with time := { s.time with edge := true } }
  { t with time := { t.time with edge := s.time.edge } }

/-- The abort of the attempt on path k of entry l is sent now, unless one is already unanswered or the transport has none (R519, R815). -/
def State.sendAbort (s : State) (l k : Nat) : State :=
  let e := s.led l
  if (s.ep e.ep).typ = 5 || e.aborts.any (fun a => decide (a.1 = k)) then s
  else (s.setLed l { e with aborts := e.aborts ++ [(k, s.time.start)] }).output ((s.ep e.ep).paths.getD k {}).lport (leBytes 4 e.xid.toNat)

/-- The unanswered aborts of entry l of attempts before the present one: they are answered, or time out, apart from it (R519, R815). -/
def State.leaveAborts (s : State) (l : Nat) : State :=
  let e := s.led l
  let old := e.aborts.map (fun a => ({ lidx := l, ep := e.ep, path := a.1, sent := a.2 } : Orphan))
  ({ s with chan := { s.chan with orphans := s.chan.orphans ++ old } } : State).setLed l { e with aborts := [] }

/-- Start the drain of the channel entries of instance i (R543): the abort is sent at once for each entry that has sent an attempt and is not COMPLETE, also where
its path has failed and another event would fence it; an entry with nothing to wait for is retired now. The state and how many were retired. -/
def State.drainLed (s : State) (i : Nat) : State × Nat :=
  let mine := (s.chan.led.filter (fun e => e.2.ins = i && decide (e.2.st ≠ .free) && decide (e.2.st ≠ .retired))).map (·.1)
  let s1 := mine.foldl (fun t l =>
    let e := t.led l
    let t1 := t.setLed l { e with drain := true }
    if e.st = .complete || decide (e.attempt = 0) || (!e.live && e.aborts.isEmpty && e.closing.isEmpty) then t1
    else (t1.leaveAborts l).sendAbort l e.path) s
  let ended := mine.filter (fun l => decide ((s1.led l).st = .complete) || (s1.led l).aborts.isEmpty)
  let s2 := mine.foldl (fun t l => t.setLed l (if ended.contains l then { t.led l with st := .retired } else { t.led l with rfence := true })) s1
  (s2, ended.length)

/-- A completion of instance i waits for room in a ring, or for a mirror, and belongs to entry l. -/
def State.cplWaits (s : State) (l : Nat) : Bool :=
  s.inst.qps.any (fun q => q.2.waitC.any (fun c => decide (s.keeps c = some l)))

/-- The COMPLETE entries of the old generation are retired in the compact configuration, and those whose completion has not been written are counted;
held: these (R542). The state and how many entries were retired (R625). -/
def State.retireHeld (s : State) (i : Nat) (held : List Nat) : State × Nat :=

  let mine := (s.chan.led.filter (fun e => e.2.ins = i && decide (e.2.st = .complete))).map (·.1)
  let s1 := mine.foldl (fun t l => t.setLed l { t.led l with st := .retired }) s
  ({ s1 with chan := { s1.chan with oldDrops := s1.chan.oldDrops + (mine.filter held.contains).length } }, mine.length)

/-- Buckets at the end of a reset: every balance is its BURST (R610). -/
def Inst.refill (x : Inst) : Inst := { x with bks := x.bks.foldl (fun m e => Tab.set {} m e.1 { e.2 with bal := (e.2.burst : Int) }) x.bks }

/-- Return the resources of a removed instance to the pools (R623): queue pairs, vectors, handles, and every
endpoint that no entry of its old work names. -/
def State.releasePlan (s : State) (i : Nat) : State :=
  let p := (s.ins i).plan
  let s1 := p.qps.foldl (fun t q => t.setQp q {}) s
  let s2 := p.vvs.foldl (fun t v => t.setVv v {}) s1
  let s3 := p.phs.foldl (fun t h => t.setPart h {}) s2
  let busy := fun e : Nat => s3.chan.led.any (fun l => l.2.ep = e && decide (l.2.st ≠ .free) && decide (l.2.st ≠ .retired))
  let s4 := (s3.chan.led.filter (fun e => decide (e.2.ins = i) && decide (e.2.st ≠ .free) && decide (e.2.st ≠ .retired))).foldl (fun t e => t.setLed e.1 { e.2 with removed := true }) s3
  p.epsL.foldl (fun t e => if busy e then t.setEp e { t.ep e with made := false } else t.setEp e {}) s4

/-- The doorbells of instance i are cleared: at the acceptance, and those set since as the reset completes (R620). -/
def State.clearBells (s : State) (i : Nat) : State :=
  let p := (s.ins i).plan
  let s1 := p.qps.foldl (fun t q => if (t.qp q).bell then t.setQp q { t.qp q with bell := false } else t) s
  p.phs.foldl (fun t h => if (t.part h).bell then t.setPart h { t.part h with bell := false } else t) s1

/-- The virtual vectors of instance i are cleared (R620, R624; log entry 183). -/
def State.clearVvs (s : State) (i : Nat) : State :=
  (s.ins i).plan.vvs.foldl (fun t v => t.setVv v { t.vv v with pv := false, deferred := false, held := false }) s

/-- The completions that have waited for a full ring during the drain are discarded and counted with their work (R596, R625). -/
def State.dropHeld (s : State) (i : Nat) : State :=
  let qs := (s.ins i).plan.qps
  let sum := fun f : Qp → Nat => (qs.map (fun q => f (s.qp q))).foldl (· + ·) 0
  let s1 := qs.foldl (fun t q => if (t.qp q).waitC.isEmpty then t else t.setQp q { t.qp q with waitC := [] }) s
  let x := s1.ins i
  s1.setIns i { x with cnt := { x.cnt with sqeng := x.cnt.sqeng + sum heldEng, sqarr := x.cnt.sqarr + sum heldArr, sqchan := x.cnt.sqchan + sum s.heldChan } }

/-- The reset or removal is complete; of a removed plan HROOT stays, through which old work of the compact configuration runs on (R621, R623): keys emptied, balances refilled, and the instance in the state that R724 and
R682 give. -/
def State.finishReset (s : State) (i : Nat) : State :=
  let x := s.ins i
  let s1 := ((s.emptyKeys i).clearVvs i).clearBells i
  let x1 := { x.refill with drainMb := none, deferred := false, epochWait := false, sideDone := false }
  if x.removing then
    (s1.releasePlan i).setIns i { st := .none, gen := x.gen, cnt := x.cnt, plan := { hroot := x.plan.hroot } }
  else if x.isolating then s1.setIns i { x1 with st := .isolated, isolating := false }
  else s1.setIns i { x1 with st := if x.wasRun then .running else .prepared }

/-- The acceptance step of R620 and the actions that follow it at once (R621 to R624). -/
def State.acceptReset (s : State) (i : Nat) : State :=
  let x := s.ins i
  let p := x.plan
  let qs := p.qps
  let sqdesc := (qs.map (fun q => if (s.qp q).made then s.untaken q else 0)).foldl (· + ·) 0
  let heng := (qs.map (fun q => heldEng (s.qp q))).foldl (· + ·) 0
  let harr := (qs.map (fun q => heldArr (s.qp q))).foldl (· + ·) 0
  let held := (s.chan.led.filter (fun e => e.2.ins = i && s.cplWaits e.1)).map (·.1)
  let hchn := (qs.map (fun q => s.heldChan (s.qp q))).foldl (· + ·) 0
  let s1 := qs.foldl (fun t q => t.setQp q (t.qp q).afterReset) s
  let s2 := (p.phs.foldl (fun t h => if (t.part h).comp then t.setPart h { t.part h with comp := false } else t) (s1.clearVvs i)).clearBells i
  let (s3, arr) := s2.stopArray i
  let s4 := s3.clearVats i
  let (s5, eng) := s4.dropJobs i s.fullConf
  let (s6, chn) := if s.fullConf then s5.drainLed i else s5.retireHeld i held
  let x6 := { x with gen := (x.gen + 1) % 256, deferred := false, st := .draining, drainEp := 0,
                     cnt := { sqdesc := sqdesc, sqeng := eng + heng, sqarr := arr + harr, sqchan := chn + hchn, unfenced := 0 } }
  let s7 := s6.setIns i x6
  if s.fullConf then s7 else s7.finishReset i

/-- The acceptance of a reset or removal of instance i, delayed while work carries the next generation in the compact
configuration (R622). -/
def State.tryAccept (s : State) (i : Nat) : State :=
  let x := s.ins i
  if !s.fullConf && decide (0 < s.work i (fun g => g = (x.gen + 1) % 256)) then s.setIns i { x with deferred := true, epochWait := false }
  else (s.setIns i { x with epochWait := false }).acceptReset i

/-- The drain of instance i begins: it takes nothing more (R624). -/
def State.startDrain (s : State) (i : Nat) : State :=
  let x := s.ins i
  (s.setIns i { x with wasRun := decide (x.st = .running) || decide (x.st = .isolated), st := .draining, epochWait := false }).tryAccept i

/-- A reset or removal of instance i begins; by a command in a duplex pair at the next epoch boundary, until which the instance runs on (R626). -/
def State.beginReset (s : State) (i : Nat) (mb : Option Nat) (removing isolating : Bool) : State :=
  let s1 := s.setIns i { s.ins i with drainMb := mb, removing := removing, isolating := isolating }
  if decide (s.dpx.st = .paired) && mb.isSome then s1.setIns i { s1.ins i with epochWait := true } else s1.startDrain i

/-- No unit holds work of the draining instance (R624). -/
def State.drained (s : State) (i : Nat) : Bool :=
  decide (s.work i (fun _ => true) = 0) && (s.ins i).plan.vats.all (fun v => !(s.vat v).clearing)

/-- The writes of an old generation are discarded and counted in the compact configuration (R578, 12 R621). -/
def State.oldGen (s : State) (i gen : Nat) : Bool := !s.fullConf && decide ((s.ins i).gen ≠ gen)

def State.countDrop (s : State) (i : Nat) : State := s.setIns i { s.ins i with discarded := (s.ins i).discarded + 1 }

end Sys2Proof.Machine
end

