-- ==== Sys2Proof/Machine/Report.lean ====
section
/-! DEFINITION. How the Rind collector takes a report (14 R671 to R694): level, capture record, log, event-router
input, machine check, isolation, fence and stop. Also taking a logical core offline (06 R288) and stopping
the module (14 R684). -/

namespace Sys2Proof.Machine

/-- The classes of R671. -/
def clCE : BitVec 3 := 0
def clDE : BitVec 3 := 1
def clUE : BitVec 3 := 2
def clFC : BitVec 3 := 3
def clFD : BitVec 3 := 4

/-- Take a logical core offline (R288): it stops at its sealed checkpoint, the stores that the seal covers stay to
be released, everything after the seal is discarded. -/
def Core.goOffline (c : Core) : Core :=
  { c with run := .offline, arch := c.sealed.arch, group := [], misses := [], capturing := none, freezes := [], barrier := none, waiting := false,
           devOut := [], inputs := [], sb := c.sb.filter (fun e => decide (e.cov = 2) && (match e.kind with | .hole _ _ => false | _ => true)), mchk := none, poisoned := none,
           entryWait := none, owed := 0, retries := 0, inRetry := false, persistent := false, haltReq := [], halting := false, acks := [], rlog := [], capDue := false,
           mchkIn := none, vecIn := [] }

/-- CCTL of a pair goes back to the value of a checkpoint, with the scratchpad bytes that a later write discarded (07 R354). -/
def Pair.cctlBack (p : Pair) (k : Ckpt) : Pair :=
  { p with cctl := k.cctl, scr := p.lost.foldl (fun m e => Tab.set 0 m e.1 e.2) p.scr, lost := [] }

/-- The control registers that a pair holds go back with its core: CCTL and the counters' configuration; of a split pair only CCTL, which E alone
writes (06 R276, R292; log entry 133). -/
def State.restorePair (s : State) (l : Nat) (k : Ckpt) : State :=
  let n := pairOf l
  let p := s.pair n
  if s.checkedPair l then
    { s.setPair n { p.cctlBack k with lead := 0 } with
        perf := { s.perf with cfgs := Tab.putSlice s.perf.cfgs (perfKey n 0) (perfKey (n + 1) 0) k.cfgs, filts := Tab.putSlice s.perf.filts (8 * n) (8 * n + 8) k.filts } }
  else if l % 2 = 0 then s.setPair n (p.cctlBack k)
  else s

/-- Logical core l goes offline, and what its pair holds goes back to the seal with it (R288). -/
def State.offline (s : State) (l : Nat) : State := (s.setCore l (s.core l).goOffline).restorePair l (s.core l).sealed

/-- Stop every unit and hold the outputs safe (R684). -/
def State.stopModule (s : State) : State :=
  { s with rind := { s.rind with stopped := true },
           pup := { s.pup with st := .stopped },
           pwr := { s.pwr with safe := true, selfRefresh := true },
           chan := { s.chan with ports := [] },
           dpx := { s.dpx with bnds := [], hbOut := false } }

/-- Fence this module (16 R756): it stops as under R684, and its pair state is FENCED. -/
def State.fenceModule (s : State) : State :=
  let t := s.stopModule
  { t with dpx := { t.dpx with st := .fenced } }

/-- The master of a report is a logical core, itself or its table walker (R688). -/
def masterCore (p : Payload) : Option Nat := if p.unit = 1 || p.unit = 2 then some p.msub.toNat else none

/-- The source is one of a logical core's own: its halves, the L2 of its pair, its DEV errors and watchdog (R682, R686; DEDUCED, log entry 186). -/
def coreSource (n : Nat) : Bool := decide (n < 612) || (decide (1152 ≤ n) && decide (n < 1280))

/-- The logical core that a report at L3 isolates: its master, for a fault of that core (R682). -/
def faultCore (n : Nat) (p : Payload) : Option Nat := if coreSource n then masterCore p else none

/-- RCFG of a source (R677). -/
def State.rcfg (s : State) (n : Nat) : Nat := ((s.src n).rcfgX ^^^ rcfgGeneric).toNat
def rcfgBase (r : Nat) (cls : Nat) : Nat := fld r (6 * cls) 3
def rcfgCap (r : Nat) (cls : Nat) : Nat := fld r (6 * cls + 3) 3

/-- The level of a report before R682 and R683 (R674, R675). -/
def State.baseLevel (s : State) (n : Nat) (cls : Nat) : Nat :=
  let r := s.rcfg n
  let x := s.src n
  let b := Nat.max (rcfgBase r cls) (if cls = 3 then 3 else if cls = 4 then 4 else 0)
  match (if x.pend then Tab.get none x.last cls else none) with
  | some l => Nat.min 5 (Nat.max l (Nat.min (l + 1) (rcfgCap r cls)))
  | none => b

/-- The level taken: L3 with no core at fault and no instance is L4 (R682), and L4 without a valid peer is L5 (R683, R757). -/
def State.takenLevel (s : State) (n : Nat) (p : Payload) : Nat :=
  let l := s.baseLevel n p.cls.toNat
  let l := if l = 3 && (faultCore n p).isNone && decide (p.ins = 0) then 4 else l
  if l = 4 && decide (s.dpx.st ≠ .paired) then 5 else l

/-- The words of a capture record (R687). -/
def recWords (s : State) (n : Nat) (p : Payload) (lvl : Nat) (seq : Nat) : List Word :=
  let w := fun x : Nat => BitVec.ofNat 64 x
  [ w (n % 2 ^ 11 + p.cls.toNat * 2 ^ 16 + lvl * 2 ^ 20 + b2n (s.src n).susp * 2 ^ 23 + p.atype.toNat * 2 ^ 24 + p.ins.toNat * 2 ^ 32
       + p.unit.toNat * 2 ^ 48 + p.msub.toNat * 2 ^ 56),
    w ((if p.avalid then p.addr.toNat else 0) + b2n p.avalid * 2 ^ 52 + p.aspace.toNat * 2 ^ 53),
    s.time.dtime,
    w (seq % 2 ^ 32 + s.time.qual * 2 ^ 32),
    w p.synd.toNat, w (p.synd.toNat / 2 ^ 64),
    w (2 ^ p.cls.toNat * 2 ^ 32 + lvl * 2 ^ 37), 0 ]

def RSrc.word (x : RSrc) (k : Nat) : Word := Tab.get 0 x.words k

/-- Put the eight words of a record in place. -/
def RSrc.setRec (x : RSrc) (ws : List Word) : RSrc := { x with words := Tab.setMany 0 x.words 0 ws }

/-- Append a log entry; a full ring loses its oldest (R693, R695). -/
def State.logAdd (s : State) (ws : List Word) : State :=
  { s with rind := { s.rind with log := (if 16384 ≤ s.rind.log.length then s.rind.log.drop 1 else s.rind.log) ++ [ws], nextSeq := (s.rind.nextSeq + 1) % 2 ^ 32 } }

/-- Capture, or count into, the record of a source, and log (R687, R689, R693, R694). -/
def State.recordReport (s : State) (n : Nat) (p : Payload) (lvl : Nat) : State :=
  let x := s.src n
  let cls := p.cls.toNat
  let seq := s.rind.nextSeq
  if !x.pend then
    let ws := recWords s n p lvl seq
    (s.setSrc n { (x.setRec ws) with pend := true, last := Tab.set none [] cls (some lvl) }).logAdd ws
  else
    let w6 := (x.word 6).toNat
    let supp := fld w6 0 32
    let mask := fld w6 32 5
    let lmax := fld w6 37 3
    let supp2 := if supp = 2 ^ 32 - 1 then supp else supp + 1
    let w6n : Word := BitVec.ofNat 64 (supp2 + (mask ||| 2 ^ cls) * 2 ^ 32 + (Nat.max lmax lvl) * 2 ^ 37)
    let s1 := s.setSrc n { x with words := Tab.set 0 x.words 6 w6n, last := Tab.set none x.last cls (some lvl) }
    if lmax < lvl || !bit mask cls then
      let w0 := putFld (putFld (x.word 0) 16 3 cls) 20 3 lvl
      let w3 := putFld (x.word 3) 0 32 seq
      s1.logAdd [w0, x.word 1, x.word 2, w3, x.word 4, x.word 5, w6n, 0]
    else s1

/-- The router input rises, falling for one cycle between two rises (R680). -/
def State.rindRise (s : State) (n : Nat) : State := (s.erFall n).erRise n

/-- A report of class UE at L1 or above routes a machine check to its core (R681, R243). It takes the place of one that still pends (DESIGN CHOICE: R243 does
not say which is kept; log entry 155). -/
def State.routeMchk (s : State) (n : Nat) (p : Payload) (lvl : Nat) : State :=
  match masterCore p with
  | some l =>
    if p.cls = clUE && decide (1 ≤ lvl) && bit (s.rcfg n) 30 && s.lcExists l then
      s.setCore l { s.core l with mchk := some (n, if p.avalid then p.addr.toNat else 0) }
    else s
  | none => s

/-- The isolation of level L3 (R682). -/
def State.isolate (s : State) (n : Nat) (p : Payload) : State :=
  match faultCore n p with
  | some l => if (s.core l).run = .offline then s else s.offline l
  | none =>
    let i := p.ins.toNat
    let x := s.ins i
    if i = 0 || decide (x.st = .none) then s
    else if x.st = .draining then s.setIns i { x with isolating := true }
    else if x.epochWait then (s.setIns i { x with isolating := true }).startDrain i
    else s.beginReset i none false true

/-- The collector takes one report of source n (R668 to R694); a stop in a pair makes the fence of the level below it as well (R672), and a report after
a stop is recorded at the level it would be taken at and takes no action (R685). -/
def State.report (s : State) (n : Nat) (p : Payload) : State :=
  if s.rind.stopped then s.recordReport n p (s.takenLevel n p)
  else
    let x := s.src n
    let lvl := s.takenLevel n p
    let newSince := !x.pend || decide (fld (x.word 6).toNat 37 3 < lvl) || !bit (fld (x.word 6).toNat 32 5) p.cls.toNat
    let s1 := s.recordReport n p lvl
    let s2 := if 1 ≤ lvl && newSince then s1.rindRise n else s1
    let s3 := s2.routeMchk n p lvl
    if lvl < 3 then s3
    else
      let s4 := s3.isolate n p
      if lvl = 3 then s4 else if s.dpx.st = .paired then s4.fenceModule else s4.stopModule

/-- A payload without address, master or syndrome. -/
def pay (cls : BitVec 3) : Payload :=
  { cls := cls, addr := 0, avalid := false, aspace := 0, atype := 0x0D, unit := 0, msub := 0, ins := 0, synd := 0 }

/-- The payload of an event of logical core l itself; its instance is the core's current one (14 R687). -/
def State.payPair (s : State) (l : Nat) (cls : BitVec 3) : Payload :=
  { pay cls with unit := 1, msub := BitVec.ofNat 8 l, ins := BitVec.ofNat 13 (s.core l).lctxCur.inst }

/-- The report of a logical core's own access: physical address, access type (R342, R333, R648). -/
def payCore (cls : BitVec 3) (s : State) (l : Nat) (a : Nat) (atype : Nat) : Payload :=
  { cls := cls, addr := BitVec.ofNat 52 a, avalid := true, aspace := 0, atype := BitVec.ofNat 8 atype, unit := 1, msub := BitVec.ofNat 8 l,
    ins := BitVec.ofNat 13 (s.core l).lctxCur.inst, synd := 0 }

/-- The report of a hub agent's access: unit and number, instance, address (R688). -/
def payAgent (cls : BitVec 3) (unit msub ins : Nat) (a : Nat) (aspace atype : Nat) : Payload :=
  { cls := cls, addr := BitVec.ofNat 52 a, avalid := true, aspace := BitVec.ofNat 3 aspace, atype := BitVec.ofNat 8 atype, unit := BitVec.ofNat 8 unit,
    msub := BitVec.ofNat 8 msub, ins := BitVec.ofNat 13 ins, synd := 0 }

/-- A raise of vector v by an owner i (R604): discarded, counted and reported when another instance owns it. -/
def State.raiseVvFrom (s : State) (i v : Nat) : State :=
  if (s.vv v).ins = i then s.raiseVv v
  else
    ({ s with inst := { s.inst with discRaise := s.inst.discRaise + 1 } } : State).report 1283
      { pay clDE with ins := BitVec.ofNat 13 i, synd := BitVec.ofNat 128 v }

end Sys2Proof.Machine
end

