-- ==== Sys2Proof/Machine/NearMem.lean ====
section
/-! DEFINITION. What the controllers of near and far memory report as they decode (13 R634 to R642, R653): correction, attribution and marking
of a device, poison; and the reads and writes of memory that a core or a hub agent makes, with those reports (12 R589, 13 R648). -/

namespace Sys2Proof.Machine

/-! ## Attribution and marking (R635, R636) -/

/-- Device d meets a condition of R635: it is marked with a DE record, a second one of its group with an FD record (R636). -/
def State.markDev (s : State) (d reason : Nat) (p : Payload) : State :=
  let x := s.nmdev d
  if x.marked then s
  else
    let second := !(s.markedIn (d / 12)).isEmpty
    (s.setNmdev d { x with marked := true, reason := BitVec.ofNat 4 reason }).report (912 + d) { p with cls := if second then clFD else clDE }

/-- n codewords of one stripe are attributed to device d (R635, R650): its counts, and marking by count or by a wide stripe. -/
def State.attribute (s : State) (d n : Nat) (p : Payload) : State :=
  let x := s.nmdev d
  let sec := s.time.dtime.toNat / 2 ^ 20
  let k := if x.second = sec then x.inSecond + n else n
  let s1 := s.setNmdev d { x with cecnt := satTo 65535 (x.cecnt + n), second := sec, inSecond := k }
  if 8 ≤ n then s1.markDev d 4 p else if 1024 ≤ k then s1.markDev d 3 p else s1

/-! ## Decoding a stripe (R634) -/

/-- The records that a decode of stripe st with the symbols errs in error makes, and what it attributes (R634, R635); p: the payload by class. -/
def State.decodeRep (s : State) (st : Nat) (errs : List (Nat × Nat)) (p : BitVec 3 → Payload) : State :=
  let g := st % 8 / 4
  let ws := decodeWords st errs
  let hits := fun q : Nat => (ws.filter (fun e => decide (e.2 = q))).length
  let s1 := match s.decode st errs with
    | .clean | .erased => s
    | .fixed q => s.report (912 + 12 * g + q) (p clCE)
    | .bad => s.report (904 + st % 8) (p clUE)
  if errs.isEmpty || !(s.markedIn g).isEmpty then s1
  else (((ws.map (·.2)).dedup).filter (· < 12)).foldl (fun t q => t.attribute (12 * g + q) (hits q) (p clDE)) s1

/-- A read transfers the whole stripe and decodes it (R631, R634): one found uncorrectable is written back poisoned (R639). -/
def State.seeStripe (s : State) (st : Nat) (p : BitVec 3 → Payload) : State :=
  let errs := s.errsOf st
  if errs.isEmpty then s
  else
    let t := s.decodeRep st errs p
    if s.decodeNow st = .bad then t.poisonStripe st else t

/-- A read or a write fetches the block of a far line and its check; one that fails is fetched once more, and a second failure makes a UE record (R653,
R654). -/
def State.seeBlock (s : State) (num : Nat) (p : BitVec 3 → Payload) : State :=
  match Tab.get 0 s.mem.farFail (num / 2) with
  | 0 => s
  | 1 => { s with mem := { s.mem with farFail := Tab.set 0 s.mem.farFail (num / 2) 0 } }
  | _ => s.report (968 + (128 * num - farLo) / 2 ^ 41 % 8) (p clUE)

/-- Nothing is found as a line is read: a cache holds it, no device backs it, or no symbol of its stripe and no fetch of its block is in error. -/
def State.quiet (s : State) (num : Nat) : Bool :=
  (s.anyCopy num).isSome || !s.backed (128 * num)
  || (if isNear (128 * num) then (s.errsOf (stripeOf (128 * num))).isEmpty else decide (Tab.get 0 s.mem.farFail (num / 2) = 0))

/-- The address that the record of a line names: the first byte of the stripe, as for a scrub (R644), or that of the far line (R653). -/
def seenAt (num : Nat) : Nat := if isNear (128 * num) then 640 * stripeOf (128 * num) else 128 * num

/-- An access reads a line of memory; p: the payload by class and address. -/
def State.seeLine (s : State) (num : Nat) (p : BitVec 3 → Nat → Payload) : State :=
  if s.quiet num then s
  else if isNear (128 * num) then s.seeStripe (stripeOf (128 * num)) (fun c => p c (seenAt num)) else s.seeBlock num (fun c => p c (seenAt num))

/-- The records of what write-backs of cached lines found, which name no master (R631, R634; log entry 118). -/
def State.flushFound (s : State) : State :=
  if s.mem.found.isEmpty then s
  else s.mem.found.foldl (fun t e => t.decodeRep e.1 e.2 (fun c => payAgent c 0 0 0 (640 * e.1) 0 0)) { s with mem := { s.mem with found := [] } }

/-! ## What a core's accesses find -/

/-- An access of core l at an address, or a walk made for it with unit 2. The poison that it is given is its machine check: the record of that poison
routes no second one (DEDUCED: 05 R243 names the two as one or the other, and gives both the record's source and address; log entry 176). -/
def State.coreFinds (s : State) (l a atype : Nat) (unit : BitVec 8) : State :=
  if s.quiet (a / 128) then s
  else (s.seeLine (a / 128) (fun c x => { payCore c s l x atype with unit := unit })).modCore l (fun d => { d with mchk := (s.core l).mchk })
def State.coreSees (s : State) (l a atype : Nat) : State := s.coreFinds l a atype 1
def State.walkSees (s : State) (l a : Nat) : State := s.coreFinds l a 0x05 2

/-! ## What hub agents read and write (12 R589, 13 R648) -/

/-- The reports that an agent's carve-out and unbacked bytes make (R648, R333). -/
def State.repCarve (s : State) (unit msub ins atype : Nat) (as : List Nat) : State :=
  as.foldl (fun t a => if isCarve a then t.report 1282 (payAgent clDE unit msub ins a 0 atype)
    else t.report (968 + (a - farLo) / 2 ^ 41 % 8) (payAgent clUE unit msub ins a 0 atype)) s

/-- A walk made for a hub agent that finds an entry that nothing backs, or a poisoned one, makes a UE record with the agent's unit as master, one that finds an
entry in the carve-out a DE record (07 R333, R589, 13 R648, 14 R688). -/
def State.hubWalkRep (s : State) (unit msub i a : Nat) : State :=
  if i = 0 then s
  else
    let rep := fun (t : State) (n pa : Nat) => t.report n (payAgent clUE unit msub i pa 0 0x05)
    match s.hypStage s.inst.hubTlb i (s.ins i).plan.hroot a with
    | .fault _ _ (some pa) => if isCarve pa then s.report 1282 (payAgent clDE unit msub i pa 0 0x05) else rep s (968 + (pa - farLo) / 2 ^ 41 % 8) pa
    | .poison pa =>
      if isNear pa && (s.errsOf (stripeOf pa)).isEmpty then rep s (904 + stripeOf pa % 8) pa
      else if isNear pa then s.seeLine (pa / 128) (fun c x => payAgent c unit msub i x 0 0x05)
      else rep s (968 + (pa - farLo) / 2 ^ 41 % 8) pa
    | _ => s

/-- What the reading of n bytes from a for instance i leaves: the records of the lines that it decodes (write: a write that failed, which reads none) and of the
walk that fails, at which it ends, and the translations that the hub keeps (R589, R370). -/
def State.seeN (unit msub i : Nat) (write : Bool) : Nat → State → Nat → Nat → State
  | 0, s, _, _ => s
  | n + 1, s, a, len =>
    if len = 0 then s
    else
      let k := Nat.min len (128 - a % 128)
      match s.agentAddr i write a with
      | .ok pa => State.seeN unit msub i write n ((if write then s else s.seeLine (pa / 128) (fun c x => payAgent c unit msub i x 0 0x0A)).hubFill i a) (a + k) (len - k)
      | _ => s.hubWalkRep unit msub i a
def State.agentSees (s : State) (unit msub i a n : Nat) (write : Bool) : State := State.seeN unit msub i write (n / 128 + 2) s a n

/-- A read of n bytes by a hub agent, with the records that it makes. -/
def State.agentGet (s : State) (unit msub i a n : Nat) : State × AgRead :=
  match s.agentRead i a n with
  | .ok bs cs => ((s.repCarve unit msub i 0x0A cs).agentSees unit msub i a n false, .ok bs cs)
  | r => (s.agentSees unit msub i a n false, r)

/-- The access of n bytes from a ends at a poisoned entry of the walk (R589); k bounds the lines. -/
def State.hubPoisonN (s : State) (i : Nat) (write : Bool) : Nat → Nat → Bool
  | 0, _ => false
  | k + 1, a =>
    match s.agentAddr i write a with
    | .ok _ => State.hubPoisonN s i write k (a + (128 - a % 128))
    | .poison _ => true
    | .fault => false
def State.readType (s : State) (i a n : Nat) : Nat := if s.hubPoisonN i false (n / 128 + 2) a then 0x05 else 0x0A

/-- A write of bytes for instance i by a hub agent: none when all is done; else the failure. Carve-out bytes are
discarded and reported (R589, R648). -/
inductive AgEnd where
  | ok | fault (ipa : Nat) | poison (pa : Nat)
deriving DecidableEq, Repr

def State.agentStore (s : State) (unit msub i : Nat) (ipa : Nat) (bs : List Byte) : State × AgEnd :=
  match s.agentPieces i (bs.length / 128 + 2) ipa bs with
  | .ok ps cs => (((ps.foldl (fun t p => t.seeLine (p.2.1 / 128) (fun c x => payAgent c unit msub i x 0 0x0B)) s).agentDo i ps).repCarve unit msub i 0x0B cs, .ok)
  | .fault a => (s.agentSees unit msub i ipa bs.length true, .fault a)
  | .poison p => (s.agentSees unit msub i ipa bs.length true, .poison p)

end Sys2Proof.Machine
end

