-- ==== Sys2Proof/Machine/BitSpace.lean ====
section
/-! DEFINITION. Bit space (02 R72 to R76, 03 R136 to R139, 12 R591): which access is allowed, what a bit reads as, and
what a write through the bit's access code does at its unit. -/

namespace Sys2Proof.Machine

/-- The bit-space instructions, as R73 tells them apart. -/
inductive BitIns where
  | ld | st | set | clr | flip | tas | xch
deriving DecidableEq, Repr

/-- The regions of R73 and what a bit of each stands for. -/
inductive BitAt where
  | priv (k : Nat)
  | shared (k : Nat)
  | plane (vat key col : Nat)
  | pend (n : Nat)
  | susp (n : Nat)
  | clsAny (k : Nat)
  | deverr (l : Nat)
  | qpBell (q : Nat)
  | qpComp (q : Nat)
  | pv (v : Nat)
  | phBell (p : Nat)
  | phComp (p : Nat)
  | mbBell (m : Nat)
  | mbComp (m : Nat)
  | kick (l : Nat)
  | dirty (i k : Nat)
  | nothing
deriving DecidableEq, Repr

/-- What the bit address names (R73, R75, R473, R591, R603, R616, R691, R706, R709). A bit of a level H region that no chapter assigns is
nothing, and an access to it takes BSPACE (DESIGN CHOICE outside the Rind region, of which R691 says so; log entry 33). -/
def bitAt (ba : Nat) : BitAt :=
  if ba < 0x10000 then .priv ba
  else if 0x0100000000 ≤ ba ∧ ba < 0x0101000000 then .shared (ba - 0x0100000000)
  else if 0x1000000000 ≤ ba ∧ ba < 0x1040000000 then
    let o := ba - 0x1000000000
    .plane (fld o 22 8) (fld o 12 10 * 64 + fld o 6 6) (fld o 0 6)
  else if 0x2000000000 ≤ ba ∧ ba < 0x2000000800 then .pend (ba - 0x2000000000)
  else if 0x2000001000 ≤ ba ∧ ba < 0x2000001800 then .susp (ba - 0x2000001000)
  else if 0x2000002000 ≤ ba ∧ ba < 0x2000002005 then .clsAny (ba - 0x2000002000)
  else if 0x2F00000000 ≤ ba ∧ ba < 0x2F00000080 then .deverr (ba - 0x2F00000000)
  else if 0x3000000000 ≤ ba ∧ ba < 0x3000040000 then (if ba % 2 = 0 then .qpBell ((ba - 0x3000000000) / 2) else .qpComp ((ba - 0x3000000000) / 2))
  else if 0x3040000000 ≤ ba ∧ ba < 0x3040010000 then .pv (ba - 0x3040000000)
  else if 0x3080000000 ≤ ba ∧ ba < 0x3080002000 then (if ba % 2 = 0 then .phBell ((ba - 0x3080000000) / 2) else .phComp ((ba - 0x3080000000) / 2))
  else if 0x30C0000000 ≤ ba ∧ ba < 0x30C0000080 then (if ba % 2 = 0 then .mbBell ((ba - 0x30C0000000) / 2) else .mbComp ((ba - 0x30C0000000) / 2))
  else if 0x30C0000100 ≤ ba ∧ ba < 0x30C0000180 then .kick (ba - 0x30C0000100)
  else if 0x4000000000 ≤ ba ∧ ba < 0x8000000000 then .dirty ((ba - 0x4000000000) / 2 ^ 25) ((ba - 0x4000000000) % 2 ^ 25)
  else .nothing

/-- The instructions a region allows (R73). -/
def BitAt.allows (b : BitAt) (i : BitIns) : Bool :=
  match b with
  | .priv _ => true
  | .shared _ => true
  | .plane _ _ _ => decide (i ≠ .tas) && decide (i ≠ .xch)
  | .pend _ | .susp _ | .clsAny _ | .deverr _ => decide (i = .ld) || decide (i = .st) || decide (i = .set)
  | .qpBell _ | .qpComp _ | .pv _ | .phBell _ | .phComp _ | .mbBell _ | .mbComp _ | .kick _ =>
    decide (i = .ld) || decide (i = .st) || decide (i = .set) || decide (i = .clr)
  | .dirty _ _ => decide (i = .ld) || decide (i = .clr) || decide (i = .xch)
  | .nothing => false

/-- The line of near memory that backs a bit of a dirty-page log (12 R616, 13 R647; log entry 145). -/
def logLine (i k : Nat) : Nat := (0x13D2000000 + 65536 * (Config.logUnit i (k / 2 ^ 19) % 11264) + k % 2 ^ 19 / 8) / 128

/-- The address of the poison that a read of the bit returns: a bit of a dirty-page log stands in a line of near memory (05 R243). -/
def State.bitPoison (s : State) : BitAt → Option Nat
  | .dirty i k => if s.linePoison (logLine i k) then some (128 * logLine i k) else none
  | _ => none

/-- An instance other than 0 holds the shared bit. -/
def State.sharedOwner (s : State) (k : Nat) : Nat :=
  match s.inst.insts.find? (fun e => e.2.plan.brFirst ≤ k && decide (k < e.2.plan.brFirst + e.2.plan.nbr)) with
  | some e => e.1
  | none => 0

/-- The instance that holds a Vat. -/
def State.vatOwner (s : State) (v : Nat) : Nat :=
  match s.inst.insts.find? (fun e => e.2.plan.hasVat v) with
  | some e => e.1
  | none => 0

/-- The bits that the plan's dirty-log ranges back (R616, R618); LOGALL, the first, is there for every instance but 0, which has no log (R583). -/
def State.dirtyBacked (s : State) (i k : Nat) : Bool :=
  decide (i ≠ 0) && decide ((s.ins i).st ≠ .none) && (decide (k = 0) || decide (k < ((s.ins i).plan.logs.map (·.2)).foldl (· + ·) 0))

/-- The bit lies in the reach of a logical core l at level priv whose current instance is i (R73, R74, R591). -/
def State.bitReach (s : State) (l : Nat) (priv : BitVec 2) (i : Nat) (b : BitAt) : Bool :=
  let h := decide (priv = 2)
  let sup := decide (priv ≠ 0)
  match b with
  | .priv _ => true
  | .shared k => h || decide (s.sharedOwner k = i)
  | .plane v _ _ => decide (v < s.nVats) && !((s.vat v).chk && decide (v % 2 = 1)) && (h || decide (s.vatOwner v = i))
  | .pend _ | .susp _ | .clsAny _ => h
  | .deverr m => h || (sup && decide (m = l))
  | .kick m => h || (sup && decide (m = l))
  | .qpBell q | .qpComp q => h || decide ((s.qp q).owner.getD 0 = i)
  | .pv v => h || decide ((s.vv v).ins = i)
  | .phBell p | .phComp p => h || decide ((s.part p).owner.getD 0 = i)
  | .mbBell m | .mbComp m => h && decide (1 ≤ m) && decide (m ≤ 15)
  | .dirty j _ => h || (sup && decide (j = i))
  | .nothing => false

/-- The check of R137. -/
def State.bitOk (s : State) (l : Nat) (priv : BitVec 2) (ba : Nat) (ins : BitIns) : Bool :=
  decide (ba < 2 ^ 40) && (bitAt ba).allows ins && s.bitReach l priv (s.core l).lctxCur.inst (bitAt ba)

/-- The bit is a plain RW bit: forwarding of R314 applies. -/
def BitAt.rw (b : BitAt) : Bool :=
  match b with
  | .priv _ | .shared _ | .plane _ _ _ | .dirty _ _ => true
  | _ => false

/-- The unit's value of a bit; core-private bits are those of l. A bit of a Vat that is being cleared has its old value or is 0 already: which is free, since the
order of clearing is not given (08 R433; log entry 163). -/
def State.bitGet (s : State) (l : Nat) (b : BitAt) : Bool :=
  match b with
  | .priv k => Tab.get false (s.core l).bitram k
  | .shared k => Tab.get false s.bits k
  | .plane v key col => bit (Tab.get 0 (s.vat v).planes key).toNat col && !((s.vat v).clearing && (Config.free (s.freeCtr + 65536 * v + key)).getLsbD col)
  | .pend n => (s.src n).pend
  | .susp n => (s.src n).susp
  | .clsAny k => s.rind.srcs.any (fun e => e.2.pend && bit (e.2.word 6).toNat (32 + k))
  | .deverr m => (s.core m).deverr
  | .qpBell q => decide ((s.qp q).kind = 0) && (s.qp q).bell
  | .qpComp q => decide ((s.qp q).kind = 0) && (s.qp q).comp
  | .pv v => (s.vv v).pv
  | .phBell p => (s.part p).bell
  | .phComp p => (s.part p).comp
  | .mbBell m => (s.mb m).bell
  | .mbComp m => (s.mb m).comp
  | .kick m => (s.core m).kick
  | .dirty i k => s.dirtyBacked i k && Tab.get false s.inst.dirty (2 ^ 25 * i + k)
  | .nothing => false

/-- Write one bit of a word. -/
def setBit (w : Word) (i : Nat) (v : Bool) : Word := putFld w i 1 (b2n v)

/-- Acknowledge a source (14 R676, R680, R692): the last levels go, the router input falls. An acknowledgement in the cycle in which a report of the
source is taken has no effect. -/
def State.acknowledge (s : State) (n : Nat) : State :=
  let x := s.src n
  if x.race = some s.time.ticks then s.setSrc n { x with race := none } else (s.setSrc n { x with pend := false, last := [] }).erFall n

/-- Clear PV[v]; an asserted MODE 1 source raises it again (R605, R247). -/
def State.pvClear (s : State) (v : Nat) : State :=
  (s.setVv v { s.vv v with pv := false }).erAgain (fun e => e.virt && decide (e.vvec = v))

/-- Set the doorbell of mailbox m: the command is queued; no effect while one is queued or running (15 R711, R712). -/
def State.ringMailbox (s : State) (m : Nat) : State :=
  let x := s.mb m
  if x.st = .idle || x.st = .done then s.setMb m { x with st := .queued, bell := true } else s

/-- A bit-space write of a plane bit: the Mould port writes the whole word (08 R405, R413); cyc: the array cycles that have passed. -/
def Vat.putPlaneBit (x : Vat) (key col : Nat) (v : Bool) (cyc : Nat) : Vat :=
  let old := Tab.get 0 x.planes key
  { x with planes := Tab.set 0 x.planes key (setBit old col v), mport := some (key, old, col, false, cyc) }

/-- A write of v to a bit through its access code (R139). -/
def State.bitPut (s : State) (l : Nat) (b : BitAt) (v : Bool) : State :=
  match b with
  | .priv k => s.setCore l { s.core l with bitram := Tab.set false (s.core l).bitram k v }
  | .shared k => { s with bits := Tab.set false s.bits k v }
  | .plane t key col =>
    let n := (s.sq (s.vat t).part).cyc
    let s1 := s.setVat t ((s.vat t).putPlaneBit key col v n)
    if (s.vat t).chk then s1.setVat (t + 1) ((s1.vat (t + 1)).putPlaneBit key col v n) else s1
  | .pend n => if v then s.acknowledge n else s
  | .susp n => if v then s.setSrc n { s.src n with susp := false } else s
  | .clsAny _ => s
  | .deverr m => if v then s.setCore m { s.core m with deverr := false } else s
  | .qpBell q => if v && decide ((s.qp q).kind = 0) && (s.qp q).made then s.setQp q { s.qp q with bell := true } else s
  | .qpComp q => if v then s.setQp q { s.qp q with comp := false } else s
  | .pv x => if v then s.pvClear x else s
  | .phBell p => if v then s.setPart p { s.part p with bell := true } else s
  | .phComp p => if v then s.setPart p { s.part p with comp := false } else s
  | .mbBell m => if v then s.ringMailbox m else s
  | .mbComp m => if v then s.setMb m { s.mb m with comp := false } else s
  | .kick m => if v then s.setCore m { s.core m with kick := true } else s
  | .dirty i k => if s.dirtyBacked i k then { s with inst := { s.inst with dirty := Tab.set false s.inst.dirty (2 ^ 25 * i + k) v } } else s
  | .nothing => s

/-- The last bit-space write of a plane bit has been of the inverse of what it read: made again, it reads again (08 R405, R406). -/
def Vat.flipped (x : Vat) : Vat := { x with mport := x.mport.map (fun m => (m.1, m.2.1, m.2.2.1, true, m.2.2.2.2)) }
def State.flipped (s : State) (b : BitAt) : State :=
  match b with
  | .plane t _ _ =>
    let s1 := s.setVat t (s.vat t).flipped
    if (s.vat t).chk then s1.setVat (t + 1) (s1.vat (t + 1)).flipped else s1
  | _ => s

/-- A bit write at its unit: a given value, or the inverse of the value read (R139). -/
def State.bitDo (s : State) (l : Nat) (b : BitAt) (op : BitOp) : State :=
  match op with
  | .put v => s.bitPut l b v
  | .flip => (s.bitPut l b (!s.bitGet l b)).flipped b

/-- A write to a bit of a CAPTURED Vat waits until the Vat leaves that state (08 R437). -/
def State.bitWaits (s : State) (b : BitAt) : Bool :=
  match b with
  | .plane v _ _ => decide ((s.vat v).st = .captured)
  | _ => false

end Sys2Proof.Machine
end

