-- ==== Sys2Proof/Machine/CtlSpace.lean ====
section
/-! DEFINITION. The registers in control space (07 R359): what each reads as, with the clearing reads of 00 R17 and
R20, and what a write does. An address that no register answers, and an access below level H to a register
that level H reaches, completes as an error (07 R342; log entry 12). -/

namespace Sys2Proof.Machine

/-- The code of a sequencer state (09 R449). -/
def SqSt.code : SqSt → Nat
  | .unused => 0
  | .idle => 1
  | .progload => 2
  | .run => 3
  | .wait => 4
  | .captured => 5
  | .stopped => 6

def VatSt.code : VatSt → Nat
  | .uncfg => 0
  | .loading => 1
  | .ready => 2
  | .captured => 3

/-- SQSTAT (R448). -/
def Sequencer.stat (q : Sequencer) : Nat :=
  q.ph * 2 ^ 48 + q.inst * 2 ^ 32 + q.pc % 2 ^ 13 * 2 ^ 16 + (match q.xfer with | some x => x.idx % 256 | none => 255) * 2 ^ 8
    + q.att % 4 * 2 ^ 6 + b2n (decide (0 < q.orLeft)) * 2 ^ 5 + q.st.code

/-- VSTAT (08 R422): V(2k+1) of a checked pair mirrors V(2k) but for its own counters and ECC marks. -/
def State.vstat (s : State) (v : Nat) : Nat :=
  let x := s.vat v
  let m := if s.isTwin v then s.vat (v - 1) else x
  x.collcnt * 2 ^ 48 + b2n x.coll * 2 ^ 16 + b2n m.cmpf * 2 ^ 15 + b2n x.eccu * 2 ^ 14 + b2n x.eccc * 2 ^ 13 + m.part % 16 * 2 ^ 8 + b2n m.chk * 2 ^ 7
    + m.gang % 8 * 2 ^ 4 + m.st.code

/-- PUPSTAT (15 R699, R700). -/
def PupSt.code : PupSt → Nat
  | .boot => 0
  | .bringup => 1
  | .serving => 2
  | .recovery => 3
  | .restart => 4
  | .stopped => 5

def PupSub.stat (p : PupSub) : Nat :=
  p.filmaj * 2 ^ 56 + p.filmin * 2 ^ 48 + p.effmaj * 2 ^ 40 + p.effmin * 2 ^ 32 + b2n p.trial * 2 ^ 7 + b2n p.slot * 2 ^ 6 + p.st.code

def MbSt.code : MbSt → Nat
  | .idle => 0
  | .queued => 1
  | .running => 2
  | .done => 3

/-- MBCTL (15 R710). -/
def Mailbox.ctl (m : Mailbox) : Nat := m.lastSeq % 2 ^ 32 * 2 ^ 32 + m.vvec.toNat * 2 ^ 16 + b2n m.ven * 2 ^ 15 + m.st.code

/-- The pair states (16 R760). -/
def DpxSt.code : DpxSt → Nat
  | .standalone => 0
  | .pairing => 1
  | .paired => 2
  | .simplex => 3
  | .repair => 4
  | .fenced => 5

/-- TWSTAT and TWSKEW (16 R746). -/
def DpxSub.twstat (d : DpxSub) : Nat :=
  satTo 65535 d.replay * 2 ^ 48 + satTo 255 d.lag * 2 ^ 40 + b2n d.hbin * 2 ^ 11 + b2n d.leadSt * 2 ^ 10 + b2n d.sideB * 2 ^ 9 + b2n d.steer * 2 ^ 8
    + (Tab.get {} d.bnds 1).st % 4 * 2 ^ 6 + (Tab.get {} d.bnds 0).st % 4 * 2 ^ 4 + d.st.code
def DpxSub.twskew (d : DpxSub) : Nat := d.delay.toNat * 2 ^ 48 + d.offset.toNat

/-- CVCFG, ERCTL, VVCFG and the LCTX words (05 R246, 12 R603, 07 R363). -/
def CoreVec.word (c : CoreVec) : Nat := c.modt.toNat * 2 ^ 6 + b2n c.lvl * 2 ^ 4 + c.prio.toNat
def ErSrc.ctl (e : ErSrc) : Nat := b2n e.held * 8 + b2n e.mode * 2 + b2n e.en
def Vv.word (v : Vv) : Nat :=
  v.ins * 2 ^ 51 + b2n v.en * 2 ^ 50 + v.modt.toNat * 2 ^ 40 + b2n v.pv * 2 ^ 39 + v.lcore % 128 * 2 ^ 32 + v.altvec.toNat * 2 ^ 8 + v.cvec.toNat
def Lctx.ctl (x : Lctx) : Nat := x.inst * 2 ^ 16 + b2n x.hxen * 2 ^ 9 + b2n x.gen * 2 ^ 8 + x.vaw

/-- NMDEV (13 R650). -/
def State.nmdevWord (s : State) (d : Nat) : Nat :=
  let x := s.nmdev d
  x.cecnt * 2 ^ 48 + x.reason.toNat * 2 ^ 4 + b2n (decide (10 ≤ d % 12)) * 2 + b2n x.marked

/-- The cursor that NMSCRUB shows: of code channel 0 (13 R650). -/
def State.nmscrub (s : State) : Nat := s.mem.passes % 2 ^ 32 * 2 ^ 32 + Tab.get 0 s.mem.cursor 0 % 2 ^ 24

/-- DEV window registers (10 R506). -/
def DevWin.reg (w : DevWin) (k : Nat) : Nat :=
  match k with
  | 0 => w.base.toNat
  | 1 => w.log2
  | 2 => w.tgt.toNat
  | _ => w.tmo.toNat * 2 ^ 48 + w.ep.toNat * 2 ^ 32 + b2n w.wack * 4 + b2n w.kind * 2 + b2n w.en

/-- Where the access to physical address pa in the window goes: TADDR is the PCIe address of byte 0, and in configuration space the byte offset is bus, device,
function and register, from the first bus on (R506). -/
def DevWin.target (w : DevWin) (pa : Nat) : PcieAddr :=
  let o := pa - w.base.toNat
  if w.kind then .config ((w.tgt.toNat / 2 ^ 28 + o / 2 ^ 20) % 256) (o / 2 ^ 15 % 32) (o / 2 ^ 12 % 8) (o % 2 ^ 12)
  else .memory ((w.tgt.toNat + o) % 2 ^ 64)

/-! ## Reads -/

/-- The counters outside the cores: the unit's value index space and whether the resource is present (17 R780). -/
inductive PmAt where
  | val (key : Nat) (ok : Bool)
  | cfg (key : Nat) (ok : Bool)
  | other
deriving DecidableEq, Repr

/-- Counter registers by address: keys are the control-space value addresses (R780). -/
def State.pmAt (s : State) (a : Nat) : PmAt :=
  let o := a - ctlLo
  if 0xA00000 ≤ o ∧ o < 0xA01000 then .val o true
  else if 0xA01000 ≤ o ∧ o < 0xA02000 then .cfg (o - 0x1000) true
  else if 0xA10000 ≤ o ∧ o < 0xA14000 then
    let c := (o - 0xA10000) / 0x1000
    let k := o % 0x1000
    if k < 0x300 then .val o (s.fuse.big || decide (c < 3)) else if 0x800 ≤ k ∧ k < 0xB00 then .cfg (o - 0x800) (s.fuse.big || decide (c < 3)) else .other
  else if 0xA20000 ≤ o ∧ o < 0xA23000 then
    let k := o % 0x200
    if k < 0xC0 then .val o true else if 0x100 ≤ k ∧ k < 0x1C0 then .cfg (o - 0x100) true else .other
  else .other

/-! ## Counters (17 R769 to R781) -/

/-- A filter set of a pair. -/
def State.filt (s : State) (n k : Nat) : Filt := Tab.get {} s.perf.filts (8 * n + k)

/-- The counter belongs to a logical pair. -/
def ofPair (key : Nat) : Bool := decide (key < 16384)

/-- The counters beside it, and whether its number is odd. -/
def pmPrev (key : Nat) : Nat := if ofPair key then key - 1 else key - 8
def pmNext (key : Nat) : Nat := if ofPair key then key + 1 else key + 8
def pmOdd (key : Nat) : Bool := if ofPair key then decide (key % 2 = 1) else decide (key / 8 % 2 = 1)

/-- The configuration of a counter, and its CHAIN (R776, R781). -/
def State.pmCfg (s : State) (key : Nat) : Nat := (Tab.get 0 s.perf.cfgs key).toNat
def State.pmChain (s : State) (key : Nat) : Bool := !pmOdd key && (if ofPair key then bit (s.pmCfg key) 4 else bit (s.pmCfg key) 0)
/-- The counter counts the wraps of the one below it and ignores its own event (R779). -/
def State.pmChained (s : State) (key : Nat) : Bool := pmOdd key && s.pmChain (pmPrev key)

/-- The class of event i of a pair (R774). -/
def pmClass (i : Nat) : Nat :=
  if i < 16 then 0 else if i < 40 then 1 else if i < 48 then 7 else if i < 96 then 2 else if i < 112 then 3 else if i < 128 then 4 else if i < 144 then 5
  else if i < 168 then 6 else 4

/-- An event of a pair: its class, the level and the instance at which it occurs, its half (0 E, 1 O), and its physical address if it carries
one. -/
structure PmEvent where
  cls : Nat
  priv : Nat
  inst : Nat
  half : Nat
  addr : Option Nat
deriving DecidableEq, Repr

/-- The event passes every test of a filter set (R777). -/
def Filt.admits (f : Filt) (e : PmEvent) : Bool :=
  bit f.cls.toNat e.cls && bit f.priv.toNat e.priv && (!f.ien || decide (e.inst = f.ins.toNat))
  && (decide (f.half = 0) || (decide (f.half = 1) && decide (e.half = 0)) || (decide (f.half = 2) && decide (e.half = 1)))
  && (match e.addr with | some a => decide (f.lo.toNat ≤ a) && decide (a ≤ f.hi.toNat) | none => true)

/-- An event of counter i of pair n as the free values w and u describe it: only classes 2 and 3 carry an address, and every event of a checked pair
counts as E (R774, R777). -/
def State.pmEvent (s : State) (n i : Nat) (w u : Word) : PmEvent :=
  { cls := pmClass i, priv := fld w.toNat 0 8 % 3, inst := fld w.toNat 8 13, half := if (s.pair n).mode = .split then fld w.toNat 21 1 else 0,
    addr := if pmClass i = 2 || pmClass i = 3 then some (u.toNat % 2 ^ 52) else none }

/-- An event of a counter is admitted: by the filter set of a pair's counter, or by the instance to which an event outside the cores is attributed, if
to any (R777, R781). -/
def State.pmAdmits (s : State) (key : Nat) (w u : Word) : Bool :=
  if ofPair key then (s.filt (key / 256) (s.pmCfg key % 8)).admits (s.pmEvent (key / 256) (key % 256) w u)
  else !bit (s.pmCfg key) 1 || (w.getLsbD 0 && decide (fld w.toNat 8 13 = fld (s.pmCfg key) 16 13))

/-- The admitted events since the counter was last read are added, modulo 2^48, and each wrap counts in the next counter when it is chained
(R770, R779). How many events occurred, and with what attributes, are free values (log entry 6). -/
def State.pmAdvance (s : State) (key : Nat) : State :=
  if s.pmChained key then s
  else
    let d := (Config.freeCount s.freeCtr key).toNat
    let w := Config.free (s.freeCtr + 1)
    let u := Config.free (s.freeCtr + 2)
    let tot := (Tab.get 0 s.perf.vals key).toNat + (if s.pmAdmits key w u then d + 2 ^ 48 * fld w.toNat 32 16 else 0)
    let v1 := Tab.set 0 s.perf.vals key (BitVec.ofNat 48 tot)
    let v2 := if s.pmChain key then Tab.set 0 v1 (pmNext key) (Tab.get 0 v1 (pmNext key) + BitVec.ofNat 48 (tot / 2 ^ 48)) else v1
    { s with freeCtr := s.freeCtr + 3, perf := { s.perf with vals := v2 } }

/-- A counter as it is read: the count of every event before the read (R773). -/
def State.pmRead (s : State) (key : Nat) : Nat × State :=
  let t := s.pmAdvance (if s.pmChained key then pmPrev key else key)
  ((Tab.get 0 t.perf.vals key).toNat, t)

/-- Before its configuration changes, a counter and the one that it may be chained to count what has occurred (R778); so do all counters of a pair
that use a filter set p. -/
def State.pmSettle (s : State) (key : Nat) : State := (s.pmAdvance key).pmAdvance (pmNext key)
def State.pmSettleAll (s : State) (n : Nat) (p : Nat → Bool) : State :=
  (List.range 174).foldl (fun t i => if p (t.pmCfg (perfKey n i) % 8) then t.pmAdvance (perfKey n i) else t) s

/-- The value of the 8-byte register at an address, with the state after it (clears are ctlClear's). none: no
register answers. -/
def State.ctlReg (s : State) (a : Nat) : Option (Nat × State) :=
  let o := a - ctlLo
  let r := fun v : Nat => some (v, s)
  if o = 0x1000 then r s.time.dtime.toNat
  else if o = 0x1008 then r s.time.dstat.toNat
  else if o = 0x1010 then r s.time.dtofs.toNat
  else if 0x200000 ≤ o ∧ o < 0x208000 then
    let n := (o - 0x200000) / 16
    r (if o % 16 = 0 then (s.er n).ctl else (s.er n).dst.toNat)
  else if 0x210000 ≤ o ∧ o < 0x220000 then r (s.cv ((o - 0x210000) / 512) (o % 512 / 8)).word
  else if 0x220000 ≤ o ∧ o < 0x222000 then
    let c := s.core ((o - 0x220000) / 64)
    match o % 64 / 8 with
    | 0 => r c.lctx.ctl
    | 1 => r c.lctx.groot.toNat
    | 2 => r c.lctx.hroot.toNat
    | 3 => r c.lctx.hxroot.toNat
    | 4 => r c.fipa.toNat
    | _ => none
  else if 0x300000 ≤ o ∧ o < 0x300800 then (if (o - 0x300000) / 8 < s.nVats then r (s.vstat ((o - 0x300000) / 8)) else none)
  else if 0x310000 ≤ o ∧ o < 0x310400 then
    let n := (o - 0x310000) / 0x40
    if s.nSqs ≤ n then none
    else if o % 0x40 = 0 then r (s.sq n).stat
    else if o % 0x40 = 8 then r ((s.sq n).cyc % 2 ^ 48)
    else none
  else if 0x400000 ≤ o ∧ o < 0x420000 then r ((s.win ((o - 0x400000) / 32)).reg (o % 32 / 8))
  else if 0x500000 ≤ o ∧ o < 0x580000 then r (s.vv ((o - 0x500000) / 8)).word
  else if 0x600000 ≤ o ∧ o < 0x6000C0 then r (s.nmdevWord ((o - 0x600000) / 8))
  else if o = 0x600100 then r s.nmscrub
  else if 0x700000 ≤ o ∧ o < 0x704000 then r (s.rcfg ((o - 0x700000) / 8))
  else if 0x800000 ≤ o ∧ o < 0x820000 then r ((s.src ((o - 0x800000) / 64)).word (o % 64 / 8)).toNat
  else if o = 0x900000 then r s.dpx.twstat
  else if o = 0x900008 then r s.dpx.twskew
  else if o = 0xA30000 then r s.perf.base.toNat
  else if o = 0xA30008 then r (b2n s.perf.snapEn * 2 ^ 32 + s.perf.nslot * 2 ^ 16 + s.perf.interval)
  else if o = 0xA30010 then r (b2n s.perf.fault * 2 ^ 32 + s.perf.seq % 2 ^ 32)
  else if 0x1001000 ≤ o ∧ o < 0x1010000 then r (ofLe (Tab.getMany 0 (s.mb ((o - 0x1000000) / 0x1000)).bytes (o % 0x1000) 8))
  else if 0x1040008 ≤ o ∧ o < 0x1040080 then r (s.mb ((o - 0x1040000) / 8)).ctl
  else if o = 0x1040200 then r s.pup.stat
  else
    match s.pmAt a with
    | .val k ok => if ok then some (s.pmRead k) else r 0
    | .cfg k ok => r (if ok then (Tab.get 0 s.perf.cfgs k).toNat else 0)
    | .other => none

/-- The read-clear fields of the register at an address are cleared (R17): COLLCNT, CECNT, REPLAY. -/
def State.ctlClear (s : State) (a : Nat) : State :=
  let o := a - ctlLo
  if 0x300000 ≤ o ∧ o < 0x300800 then s.setVat ((o - 0x300000) / 8) { s.vat ((o - 0x300000) / 8) with collcnt := 0 }
  else if 0x600000 ≤ o ∧ o < 0x6000C0 then s.setNmdev ((o - 0x600000) / 8) { s.nmdev ((o - 0x600000) / 8) with cecnt := 0 }
  else if o = 0x900000 then { s with dpx := { s.dpx with replay := 0 } }
  else s

/-- The register is read at level H only: all but device time (01 R31, R34, R35; log entry 12). -/
def ctlNeedsH (a : Nat) : Bool := decide (0x2000 ≤ a - ctlLo)

/-- A read of size bytes at a naturally aligned address by level priv: the value, or an error; with the state
after it. A read that covers any byte of bits [63:48] clears the read-clear field there as a whole, so that one byte of it
returns its half and clears both (00 R17, R20; log entry 126: the spec says nothing of a read narrower than the field). -/
def State.ctlRead (s : State) (priv : BitVec 2) (a size : Nat) : Option (Nat × State) :=
  if ctlNeedsH a && decide (priv ≠ 2) then none
  else
    match s.ctlReg (a / 8 * 8) with
    | none => none
    | some (v, t) => some (fld v (8 * (a % 8)) (8 * size), if 6 < a % 8 + size then t.ctlClear (a / 8 * 8) else t)

/-! ## Writes -/

/-- The word after a write of size bytes at offset o of the register, over the old value. -/
def mergeWord (old : Nat) (o size val : Nat) : Nat := (putFld (BitVec.ofNat 64 old) (8 * o) (8 * size) val).toNat

/-- The written bits alone, 0 elsewhere: what a W1C field sees. -/
def onlyWritten (o size val : Nat) : Nat := mergeWord 0 o size val

/-- ERCTL of source n := w (05 R246, R249): a held event goes once EN is 1 and its target exists. A source that is asserted as
MODE becomes 1 raises its event, unless that of its last raise still stands (R247; log entry 125). -/
def State.erctlSet (s : State) (n w : Nat) : State :=
  let e := s.er n
  let s1 := s.setEr n { e with mode := bit w 1, en := bit w 0 }
  if !e.mode && bit w 1 && e.level && !e.held && !s.erStands n then s1.erEvent n else s1.erRecheck n

/-- A write of the merged value w (written bits wr) to the register at an 8-byte address: none when it is refused. -/
def State.ctlSet (s : State) (a w wr : Nat) : Option State :=
  let o := a - ctlLo
  if o = 0x1008 then some (if bit wr 26 then { s with time := { s.time with loss := false } } else s)
  else if 0x200000 ≤ o ∧ o < 0x208000 then
    let n := (o - 0x200000) / 16
    if o % 16 = 0 then some (s.erctlSet n w)
    else some ((s.setEr n { s.er n with dst := BitVec.ofNat 64 (fld w 31 1 * 2 ^ 31 + fld w 0 16) }).erRecheck n)
  else if 0x210000 ≤ o ∧ o < 0x220000 then
    let l := (o - 0x210000) / 512
    let v := o % 512 / 8
    let x := s.cv l v
    some (s.setCv l v { x with prio := if fld w 0 3 ≤ 4 then BitVec.ofNat 3 w else x.prio, lvl := bit w 4, modt := BitVec.ofNat 10 (fld w 6 10) })
  else if 0x220000 ≤ o ∧ o < 0x222000 then
    let l := (o - 0x220000) / 64
    let c := s.core l
    let x := c.lctx
    let root : Word := BitVec.ofNat 64 (fld w 12 40 * 4096)
    match o % 64 / 8 with
    | 0 => some (s.setCore l { c with lctx := { x with inst := fld w 16 13, hxen := bit w 9, gen := bit w 8,
                                                       vaw := if 48 ≤ fld w 0 6 ∧ fld w 0 6 ≤ 57 then fld w 0 6 else x.vaw } })
    | 1 => some (s.setCore l { c with lctx := { x with groot := root } })
    | 2 => some (s.setCore l { c with lctx := { x with hroot := root } })
    | 3 => some (s.setCore l { c with lctx := { x with hxroot := root } })
    | 4 => some s
    | _ => none
  else if 0x300000 ≤ o ∧ o < 0x300800 then
    let v := (o - 0x300000) / 8
    if s.nVats ≤ v then none
    else
      let x := s.vat v
      let s1 := s.setVat v { x with coll := x.coll && !bit wr 16, cmpf := x.cmpf && !bit wr 15, eccu := x.eccu && !bit wr 14, eccc := x.eccc && !bit wr 13 }
      some (if s.isTwin v && bit wr 15 then s1.setVat (v - 1) { s1.vat (v - 1) with cmpf := false } else s1)
  else if 0x400000 ≤ o ∧ o < 0x420000 then
    let k := (o - 0x400000) / 32
    let x := s.win k
    some (s.setWin k (match o % 32 / 8 with
      | 0 => { x with base := BitVec.ofNat 64 (w / 2 ^ 16 * 2 ^ 16) }
      | 1 => if 16 ≤ fld w 0 6 ∧ fld w 0 6 ≤ 44 then { x with log2 := fld w 0 6 } else x
      | 2 => { x with tgt := BitVec.ofNat 64 w }
      | _ => { x with tmo := BitVec.ofNat 16 (fld w 48 16), ep := BitVec.ofNat 16 (fld w 32 16), wack := bit w 2, kind := bit w 1, en := bit w 0 }))
  else if 0x500000 ≤ o ∧ o < 0x580000 then
    let v := (o - 0x500000) / 8
    some (s.setVv v { s.vv v with en := bit w 50, modt := BitVec.ofNat 10 (fld w 40 10), lcore := fld w 32 7, altvec := BitVec.ofNat 6 (fld w 8 6), cvec := BitVec.ofNat 6 w })
  else if o = 0xA30000 then some { s with perf := { s.perf with base := BitVec.ofNat 64 (fld w 17 35 * 2 ^ 17) } }
  else if o = 0xA30008 then
    some { s with perf := { s.perf with snapEn := bit w 32, nslot := if fld w 16 8 = 0 then s.perf.nslot else fld w 16 8,
                                        interval := if fld w 0 16 = 0 then s.perf.interval else fld w 0 16 } }
  else if o = 0xA30010 then some { s with perf := { s.perf with fault := s.perf.fault && !bit wr 32 } }
  else if 0x1040008 ≤ o ∧ o < 0x1040080 then
    let m := (o - 0x1040000) / 8
    some (s.setMb m { s.mb m with vvec := BitVec.ofNat 16 (fld w 16 16), ven := bit w 15 })
  else if (s.ctlReg a).isNone then none
  else
    match s.pmAt a with
    | .cfg k true => let t := s.pmSettle k; some { t with perf := { t.perf with cfgs := Tab.set 0 t.perf.cfgs k (BitVec.ofNat 64 (fld w 16 13 * 2 ^ 16 + fld w 1 1 * 2 + (if k / 8 % 2 = 1 then 0 else fld w 0 1))) } }
    | _ => some s

/-- A write of size bytes at a naturally aligned address by level priv (05 R246, 15 R708, R712); none: it completes as an
error. -/
def State.ctlWrite (s : State) (priv : BitVec 2) (a size val : Nat) : Option State :=
  let o := a - ctlLo
  if ctlNeedsH a && decide (priv ≠ 2) then none
  else if 0x1001000 ≤ o ∧ o < 0x1010000 then
    let m := (o - 0x1000000) / 0x1000
    let x := s.mb m
    if x.st = .queued || x.st = .running then none
    else some (s.setMb m { x with bytes := Tab.setMany 0 x.bytes (o % 0x1000) (leBytes size val) })
  else
    match s.ctlReg (a / 8 * 8) with
    | none => none
    | some (old, _) => s.ctlSet (a / 8 * 8) (mergeWord old (a % 8) size val) (onlyWritten (a % 8) size val)

end Sys2Proof.Machine
end

