-- ==== Sys2Proof/Machine/Status.lean ====
section
/-! DEFINITION. The values of STATUS (15 R732), the mailbox header and payload as the Puppeteer reads them (15 R719), and
how the Puppeteer completes a command (15 R714). -/

namespace Sys2Proof.Machine

/-! ## Status codes (R732) -/

def scOk : Nat := 0x0000
def scMbOpcode : Nat := 0x0001
def scMbLength : Nat := 0x0002
def scMbField : Nat := 0x0003
def scMbFil : Nat := 0x0004
def scMbDenied : Nat := 0x0005
def scAddrFault : Nat := 0x0006
def scMaintOnly : Nat := 0x0007
def scTimeSynced : Nat := 0x0010
def scTimeNoref : Nat := 0x0011
def scPairBusy : Nat := 0x0101
def scPairMode : Nat := 0x0102
def scPairOffline : Nat := 0x0103
def scCtxFault : Nat := 0x0104
def scCfgFormat : Nat := 0x0201
def scCfgDigest : Nat := 0x0202
def scCfgAbsent : Nat := 0x0203
def scCfgOwner : Nat := 0x0204
def scCfgPartition : Nat := 0x0205
def scCfgCheckpair : Nat := 0x0206
def scCfgGang : Nat := 0x0207
def scCfgEdge : Nat := 0x0208
def scCfgMultidrive : Nat := 0x0209
def scCfgBusy : Nat := 0x020A
def scCfgFault : Nat := 0x020B
def scMouldRange : Nat := 0x0210
def scMouldFault : Nat := 0x0211
def scArrayFault : Nat := 0x0212
def scArrayNotready : Nat := 0x0213
def scArrayTimeout : Nat := 0x0214
def scSqIllop : Nat := 0x0215
def scSqPc : Nat := 0x0216
def scSqBspace : Nat := 0x0217
def scSqCaptured : Nat := 0x0218
def scJobField : Nat := 0x0301
def scJobFault : Nat := 0x0302
def scSquashed : Nat := 0x0303
def scMemPoison : Nat := 0x0304
def scIoError : Nat := 0x0311
def scLinkDown : Nat := 0x0312
def scPathExhausted : Nat := 0x0313
def scOutcomeUnknown : Nat := 0x0314
def scPortBusy : Nat := 0x0318
def scEpUnsupported : Nat := 0x0319
def scFarState : Nat := 0x031A
def scMismatch : Nat := 0x0401
def scDstFull : Nat := 0x0402
def scOutputLimit : Nat := 0x0403
def scDataError : Nat := 0x0404
def scCheckError : Nat := 0x0405
def scFmtUnsupported : Nat := 0x0406
def scAuthFail : Nat := 0x0407
def scKeyOwner : Nat := 0x0408
def scKeyEmpty : Nat := 0x0409
def scKeyUsage : Nat := 0x040A
def scEngineFault : Nat := 0x040B
def scPoolEmpty : Nat := 0x0501
def scPlanInvalid : Nat := 0x0502
def scInstBusy : Nat := 0x0503
def scInstState : Nat := 0x0504
def scRindLevel : Nat := 0x0601
def scFwSignature : Nat := 0x0701
def scFwRollback : Nat := 0x0702
def scFwImage : Nat := 0x0703
def scFwState : Nat := 0x0704
def scFwFlash : Nat := 0x0705
def scDuplexUnsync : Nat := 0x0801
def scDuplexState : Nat := 0x0802
def scLevelMismatch : Nat := 0x0803

/-! ## A mailbox as the Puppeteer reads it -/

/-- n bytes at offset o of mailbox m, as a number. -/
def State.mbF (s : State) (m o n : Nat) : Nat := ofLe (Tab.getMany 0 (s.mb m).bytes o n)
/-- n bytes at offset o of its payload (R707). -/
def State.mbP (s : State) (m o n : Nat) : Nat := s.mbF m (0x20 + o) n
def State.mbPBytes (s : State) (m o n : Nat) : List Byte := Tab.getMany 0 (s.mb m).bytes (0x20 + o) n
/-- The header fields OPCODE, LENGTH, SEQ and INST (R719). -/
def State.mbOp (s : State) (m : Nat) : Nat := s.mbF m 0 2
def State.mbLen (s : State) (m : Nat) : Nat := s.mbF m 4 2
def State.mbSeq (s : State) (m : Nat) : Nat := s.mbF m 8 4
def State.mbInst (s : State) (m : Nat) : Nat := s.mbF m 0x0C 2

/-- The Puppeteer runs commands: it has booted and is not restarting (R697, R700). -/
def State.pupUp (s : State) : Bool := decide (s.pup.st ≠ .boot) && decide (s.pup.st ≠ .restart)

/-- The objects of R716. -/
inductive MbObj where
  | ins (i : Nat) | pair (n : Nat) | group (g : Nat) | far (f : Nat) | part (p : Nat) | src (n : Nat) | time | firmware | duplex
deriving DecidableEq, Repr

/-- The object that the command of mailbox m acts on. -/
def State.mbObj (s : State) (m : Nat) : Option MbObj :=
  let o := s.mbOp m
  if o = 0x0102 || o = 0x0103 then some .time
  else if 0x0202 ≤ o && decide (o ≤ 0x020A) then some (.ins (s.mbInst m))
  else if 0x0301 ≤ o && decide (o ≤ 0x0305) then some (.pair (s.mbP m 0 1))
  else if o = 0x0402 || o = 0x0403 then some (.part (s.mbP m 0 2))
  else if o = 0x0501 then some (.group (s.mbP m 0 1))
  else if o = 0x0502 then some (.group (s.mbP m 0 1 / 8))
  else if o = 0x0504 || o = 0x0505 then some (.far (s.mbP m 0 1))
  else if o = 0x0601 then some (.src (s.mbP m 0 2))
  else if 0x0701 ≤ o && decide (o ≤ 0x0704) then some .firmware
  else if 0x0801 ≤ o && decide (o ≤ 0x0805) then some .duplex
  else none

/-- No command taken before that of mailbox m still runs on its object (R716); the refusals with PAIR_BUSY and INST_BUSY do
not wait, PAIR_STATUS does (log entry 175). -/
def State.mbTurn (s : State) (m : Nat) : Bool :=
  let o := s.mbOp m
  o = 0x0207 || o = 0x0208 || (decide (0x0302 ≤ o) && decide (o ≤ 0x0305)) || (s.mbObj m).isNone
  || !(s.pup.taken.takeWhile (· ≠ m)).any (fun k => decide (s.mbObj k = s.mbObj m))

/-- The command in mailbox m is running, is op, and its turn has come; after a stop only mailbox 0 is served (14 R684), and a
command whose completion is held back has done its work (R698). -/
def State.runs (s : State) (m op : Nat) : Bool := s.pupUp && (decide (m = 0) || !s.moduleStopped) && decide ((s.mb m).st = .running) && decide (s.mbOp m = op) && s.mbTurn m
  && !s.pup.held.any (fun e => decide (e.1 = m))

/-- The response to a command that came by datagram returns in the same form, the image of mailbox 0 with its tag, while the management network is
enabled (R730, R731). -/
def State.netReply (s : State) : State :=
  let p := s.pup
  let img := Tab.getMany 0 (s.mb 0).bytes 0 4096
  if p.netReq then { s with pup := { p with netReq := false, netOut := if p.mnEn then img ++ hmacSha256 p.mnKey img else p.netOut } } else s

/-- The Puppeteer writes the completion of the command of mailbox m (R714, R721); its raise of a virtual vector is always delivered (12 R604). -/
def State.mbWrite (s : State) (m status : Nat) (resp : List Byte) : State :=
  let x := s.mb m
  let r := padTo ((resp.length + 7) / 8 * 8) resp
  let hdr := leBytes 2 status ++ leBytes 2 r.length ++ leBytes 4 0 ++ leBytes 8 s.time.dtime.toNat
  let bytes := Tab.setMany 0 (Tab.setMany 0 x.bytes 0x20 r) 0x10 hdr
  let s1 := s.setMb m { x with bytes := bytes, lastSeq := s.mbSeq m, lastOp := some (s.mbOp m), lastStatus := status, lastResp := r, st := .done, bell := false, comp := true }
  let s1 : State := { s1 with pup := { s1.pup with taken := s1.pup.taken.filter (· ≠ m), unserved := 0 } }
  let s2 := if m = 0 then s1.netReply else s1
  if x.ven then s2.raiseVv x.vvec.toNat else s2

/-- No completion is written in a restart, nor after it before every command of the journal has done its work (R698); after a stop the journal's commands
of mailboxes 1 to 15 are not waited for (14 R684). -/
def State.mbHolds (s : State) : Bool := decide (s.pup.st = .restart) || s.pup.journal.any (fun k => decide (k = 0) || !s.moduleStopped)

/-- The completions held back are written, in the order in which their commands ended. -/
def State.mbFlush (s : State) : State :=
  if s.mbHolds then s
  else s.pup.held.foldl (fun t e => t.mbWrite e.1 e.2.1 e.2.2) { s with pup := { s.pup with journal := [], held := [] } }

/-- The work of mailbox m's command is done: its completion is written, or waits for the journal's (R698). -/
def State.mbDone (s : State) (m status : Nat) (resp : List Byte) : State :=
  if s.mbHolds then
    ({ s with pup := { s.pup with taken := s.pup.taken.filter (· ≠ m), journal := s.pup.journal.filter (· ≠ m), held := s.pup.held ++ [(m, status, resp)] } } : State).mbFlush
  else s.mbWrite m status resp

end Sys2Proof.Machine
end

