-- ==== Sys2Proof/Machine/Queue.lean ====
section
/-! DEFINITION. Queue pairs (12 R592 to R602): descriptors, the completion writer, tokens and deficits (12 R609 to R612), and the
events of queues and virtual vectors. -/

namespace Sys2Proof.Machine

/-! ## Reading a ring -/

def State.qpOwner (s : State) (q : Nat) : Nat := ((s.qp q).owner).getD 0

/-- VVEC none. -/
def vvNone : Nat := 0xFFFFFFFF

/-- A completion waits for the ring of q (R601). -/
def State.holdCpl (s : State) (q : Nat) (c : HeldCpl) : State := s.setQp q { s.qp q with waitC := (s.qp q).waitC ++ [c] }

/-- The queue pair of the descriptor that a completion answers: its QP field (R599). -/
def HeldCpl.own (c : HeldCpl) : Nat := leAt c.bytes 4 4

/-- A ring, a descriptor or an index word cannot be read or written (R596): the queue pair is in ERROR. The completions that
wait for its ring go to the rings of their descriptors' own queue pairs, where they wait to be written. -/
def State.qpError (s : State) (q a aspace atype : Nat) : State :=
  let x := s.qp q
  let i := s.qpOwner q
  let s0 := s.setQp q { x with err := true, waitC := x.waitC.filter (fun c => decide (c.own = q)) }
  let s1 := ((x.waitC.filter (fun c => decide (c.own ≠ q))).foldl (fun t c => t.holdCpl c.own c) s0).report 1280 { payAgent clDE 0x0B 0 i a aspace atype with synd := BitVec.ofNat 128 q }
  if x.vvec = vvNone then s1 else s1.raiseVvFrom i x.vvec

/-- The address space of the addresses that an instance gives (R583). -/
def ipaSpace (i : Nat) : Nat := if i = 0 then 0 else 1

/-- Read bytes for queue pair q by the queue service; a failure is ERROR, with the access type of a table walk where a poisoned entry of one has ended it (R589,
14 R688). -/
def State.qpRead (s : State) (q a n : Nat) : State × Option (List Byte) :=
  let i := s.qpOwner q
  match s.agentGet 0x0B 0 i a n with
  | (t, .ok bs _) => (t, some bs)
  | (t, .fault f) => (t.qpError q f (ipaSpace i) 0x0A, none)
  | (t, .poison p) => (t.qpError q p 0 (s.readType i a n), none)

/-- The descriptor at the submission head (R594). -/
def State.peek (s : State) (q : Nat) : AgRead := let x := s.qp q; s.agentRead (s.qpOwner q) (x.sqbase + 64 * x.head) 64
def State.peekD (s : State) (q : Nat) : Option (List Byte) := match s.peek q with | .ok bs _ => some bs | _ => none

/-- The fields of the common part (R597). -/
def dOpc (d : List Byte) : Nat := leAt d 0 1
def dFlags (d : List Byte) : Nat := leAt d 1 1
def dCq (d : List Byte) : Nat := leAt d 4 4
def dTag (d : List Byte) : Nat := leAt d 8 4
/-- n bytes at offset o of the opcode-specific bytes. -/
def dF (d : List Byte) (o n : Nat) : Nat := leAt d (16 + o) n

/-- The completion ring of q can take no entry: its next entry is the one before the head (R601). -/
def State.ringFull (s : State) (q : Nat) : Bool :=
  let x := s.qp q
  match s.agentRead (s.qpOwner q) x.headptr 8 with
  | .ok bs _ => decide ((x.cidx + 1) % 2 ^ x.cqlog = ofLe bs % 2 ^ 16 % 2 ^ x.cqlog)
  | _ => false

/-- Queue pair q of instance i takes completions (R596, R598). -/
def State.cqUsable (s : State) (i q : Nat) : Bool := let x := s.qp q; x.made && !x.err && decide (x.owner = some i)

/-- The head word of a ring is looked at; the queue pair is in ERROR when it cannot be read (R596, R601). -/
def State.probe (s : State) (q : Nat) : State :=
  if s.cqUsable (s.qpOwner q) q then (s.qpRead q (s.qp q).headptr 8).1 else s

/-- The completion ring that a completion of own goes to: the one it names, else its own (R596, R598). -/
def State.cqFor (s : State) (i own cq : Nat) : Nat := if s.cqUsable i cq then cq else own

/-! ## The completion writer (R599 to R602) -/

/-- The 32 bytes of a completion, PHASE still 0; extra: its 16 opcode-specific bytes. -/
def cplBytes (tag qp status sqhead opc : Nat) (extra : List Byte) : List Byte :=
  leBytes 4 tag ++ leBytes 4 qp ++ leBytes 2 status ++ leBytes 2 sqhead ++ leBytes 1 opc ++ [0, 0, 0] ++ extra

/-- A ledger entry whose completion has been written is RETIRED, but for OUTCOME_UNKNOWN (10 R523). -/
def State.retireLed (s : State) (c : HeldCpl) : State :=
  match s.keeps c with
  | some k => if (s.led k).status = scOutcomeUnknown then s else s.setLed k { s.led k with st := .retired }
  | none => s

/-- Write a completion into the ring of q, set its completion bit and raise its vector (R600, R602, R593); false when the
ring cannot be written, with q in ERROR; flag 2 is the CBIT of an array job, for the partition of its own queue pair (09 R473). -/
def State.writeCpl (s : State) (q : Nat) (c : HeldCpl) : State × Bool :=
  let x := s.qp q
  let i := s.qpOwner q
  let (s1, r) := s.agentStore 0x0B 0 i (x.cqbase + 32 * x.cidx) (c.bytes.set 13 (BitVec.ofNat 8 (b2n x.phase)))
  match r with
  | .fault f => (s1.qpError q f (ipaSpace i) 0x0B, false)
  | .poison p => (s1.qpError q p 0 0x05, false)
  | .ok =>
    let nxt := (x.cidx + 1) % 2 ^ x.cqlog
    let y := s1.qp q
    let s2 := s1.setQp q { y with cidx := nxt, phase := if nxt = 0 then !y.phase else y.phase, comp := y.comp || (bit c.flags 0 && decide (y.kind = 0)) }
    let s3 := if bit c.flags 0 && decide (y.kind = 1) then s2.setPart y.ph { s2.part y.ph with comp := true } else s2
    let ph := (s3.qp (leAt c.bytes 4 4)).ph
    let s4 := if bit c.flags 2 then s3.setPart ph { s3.part ph with comp := true } else s3
    let s5 := if bit c.flags 1 && decide (y.vvec ≠ vvNone) then s4.raiseVvFrom i y.vvec else s4
    (s5.retireLed c, true)

/-- Deliver a completion to ring t of instance i, or to own when t is in ERROR, or hold it (R596, R601); n bounds the rings
tried. -/
def State.deliverN : Nat → State → Nat → Nat → Nat → HeldCpl → State
  | 0, s, _, own, _, c => s.holdCpl own c
  | n + 1, s, i, own, t, c =>
    let u := s.cqFor i own t
    if !s.cqUsable i u then s.holdCpl own c
    else
      let s1 := s.probe u
      if !s1.cqUsable i u then State.deliverN n s1 i own t c
      else if !(s1.qp u).waitC.isEmpty || s1.ringFull u then s1.holdCpl u c
      else
        let (s2, ok) := s1.writeCpl u c
        if ok then s2 else State.deliverN n s2 i own t c

def State.deliverCpl (s : State) (i own t : Nat) (c : HeldCpl) : State := s.deliverN 3 i own t c

/-- A completion of work of generation gen of instance i falls due; that of an old generation is discarded and counted in
the compact configuration (R621), and raises no vector in the full one (R620). -/
def State.complete (s : State) (i gen own cq : Nat) (c : HeldCpl) : State :=
  let old := decide ((s.ins i).gen ≠ gen)
  if !s.fullConf && old then
    let s1 := s.setIns i { s.ins i with discarded := (s.ins i).discarded + 1 }
    match s1.keeps c with
    | some k => s1.setLed k { s1.led k with st := .retired }
    | none => s1
  else s.deliverCpl i own cq (if old then { c with flags := c.flags - 2 * b2n (bit c.flags 1) } else c)

/-- Write held completions while the ring has room; n bounds them. -/
def State.pollN : Nat → State → Nat → State
  | 0, s, _ => s
  | n + 1, s, q =>
    let s0 := if (s.qp q).waitC.isEmpty then s else s.probe q
    let x := s0.qp q
    match x.waitC with
    | [] => s0
    | c :: cs =>
      if !x.made || x.err || s0.ringFull q then s0
      else
        let (s1, ok) := (s0.setQp q { x with waitC := cs }).writeCpl q c
        if ok then State.pollN n s1 q else s1.holdCpl c.own c

def State.poll (s : State) (q : Nat) : State := s.pollN ((s.qp q).waitC.length) q

/-! ## Descriptors -/

def isChanOpc (o : Nat) : Bool := decide (o ∈ [0x10, 0x11, 0x12, 0x13, 0x14, 0x15, 0x18, 0x1A, 0x1B, 0x1F])
def isEngOpc (o : Nat) : Bool := (decide (0x20 ≤ o) && decide (o ≤ 0x23)) || (decide (0x30 ≤ o) && decide (o ≤ 0x3C))
def usesCe (o : Nat) : Bool := decide (0x20 ≤ o) && decide (o ≤ 0x23)
def usesKe (o : Nat) : Bool := decide (o = 0x22) || decide (o = 0x23) || (decide (0x30 ≤ o) && decide (o ≤ 0x3C))

/-- The instance has a share in what the opcode needs (R598); instance 0 owns what no plan holds (R583). -/
def State.hasShare (s : State) (i o : Nat) : Bool :=
  let p := (s.ins i).plan
  i = 0 || ((!usesCe o || decide (p.ceMask ≠ 0)) && (!usesKe o || decide (p.keMask ≠ 0)) && (!(isChanOpc o && decide (o ≠ 0x1F)) || decide (p.nledger ≠ 0)))

/-- The descriptor completes at once with JOB_FIELD (R598). -/
def State.descBad (s : State) (q : Nat) (d : List Byte) : Bool :=
  let x := s.qp q
  let i := s.qpOwner q
  let o := dOpc d
  !(if x.kind = 1 then decide (o = 0x40) else isChanOpc o || isEngOpc o) || !s.hasShare i o
  || decide (4 ≤ dFlags d) || !zeroAt d 2 2 || decide (2 ^ 17 ≤ dCq d) || !zeroAt d 12 4
  || !s.cqUsable i (dCq d) || (decide (o = 0x40) && bit (dFlags d) 0)

/-- The opcode-specific bytes of a completion that refuses a descriptor (R524, R523, R574, R480). -/
def refusedExtra (d : List Byte) : List Byte :=
  let o := dOpc d
  if o = 0x1F then leBytes 4 (dF d 8 8 % 2 ^ 18) ++ List.replicate 12 0
  else if isChanOpc o then leBytes 4 0xFFFFFFFF ++ List.replicate 12 0
  else if 0x20 ≤ o ∧ o < 0x40 then List.replicate 13 0 ++ [255, 255, 0]
  else if o = 0x40 then [0, 255] ++ List.replicate 14 0
  else List.replicate 16 0

/-- The device takes descriptors from q: set up, not in ERROR, with descriptors before its tail, its instance RUNNING (R594,
R596, R724, R682). -/
def State.canTake (s : State) (q : Nat) : Bool :=
  let x := s.qp q
  x.made && !x.err && decide (x.head ≠ x.tail) && decide ((s.ins (s.qpOwner q)).st = .running) && !s.moduleStopped

def Qp.nextHead (x : Qp) : Nat := (x.head + 1) % 2 ^ x.sqlog
def State.headOn (s : State) (q : Nat) : State := s.setQp q { s.qp q with head := (s.qp q).nextHead }

/-- Complete descriptor d of q, already passed by the head, without running it. -/
def State.completeDesc (s : State) (q : Nat) (d : List Byte) (status : Nat) (extra : List Byte) (ownRing : Bool) : State :=
  let i := s.qpOwner q
  s.deliverCpl i q (if ownRing then q else dCq d) { bytes := cplBytes (dTag d) q status (s.qp q).head (dOpc d) extra, flags := dFlags d % 4, lidx := none }

/-- The rings that descriptor d of q may complete into are looked at (R595, R596, R598). -/
def State.probeDesc (s : State) (q : Nat) (d : List Byte) : State :=
  let s1 := s.probe (if s.descBad q d then q else dCq d)
  if s1.descBad q d then s1.probe q else s1

/-- Complete the refused descriptors at the head, up to the first that is not (R598); n bounds them. -/
def State.skipN : Nat → State → Nat → State
  | 0, s, _ => s
  | n + 1, s, q =>
    if !s.canTake q then s
    else
      match s.qpRead q ((s.qp q).sqbase + 64 * (s.qp q).head) 64 with
      | (s1, none) => s1
      | (s1, some d) =>
        let s2 := s1.probeDesc q d
        if !s2.canTake q || !s2.descBad q d || s2.ringFull q then s2
        else State.skipN n ((s2.headOn q).completeDesc q d scJobField (refusedExtra d) true) q

def State.skipRefused (s : State) (q : Nat) : State := s.skipN (2 ^ (s.qp q).sqlog) q

/-- The descriptor that a command of opcode opc takes: at the head, not refused, its completion ring not full (R594, R595). -/
def State.headIs (s : State) (q opc : Nat) : Option (List Byte) :=
  if !s.canTake q then none
  else
    match s.peekD q with
    | some d => if dOpc d = opc && !s.descBad q d && !s.ringFull (s.cqFor (s.qpOwner q) q (dCq d)) then some d else none
    | none => none

/-! ## Tokens and deficits (R609 to R612) -/

/-- The metered classes. -/
def clsChop : Nat := 0
def clsChbyte : Nat := 1
def clsCe : Nat := 2
def clsKe : Nat := 3
def clsMould : Nat := 4

/-- A unit of 4 KiB for each started 4,096 bytes (R609). -/
def units4k (n : Nat) : Nat := (n + 4095) / 4096

def Inst.bk (x : Inst) (c : Nat) : Bucket := Tab.get {} x.bks c
def State.bk (s : State) (i c : Nat) : Bucket := (s.ins i).bk c
def State.setBk (s : State) (i c : Nat) (b : Bucket) : State := s.setIns i { s.ins i with bks := Tab.set {} (s.ins i).bks c b }

/-- The balance admits work (R610). -/
def Bucket.admits (b : Bucket) : Bool := decide (b.rate = 0xFFFFFFFF) || decide (0 < b.bal)
def Bucket.charge (b : Bucket) (n : Nat) : Bucket := { b with bal := if b.rate = 0xFFFFFFFF then b.bal else b.bal - (n : Int), deficit := b.deficit - (n : Int) }

/-- The bytes of a channel descriptor's data. -/
def isNv (o : Nat) : Bool := decide (0x10 ≤ o) && decide (o ≤ 0x15)
def cDlen (d : List Byte) : Nat := let o := dOpc d; if isNv o then dF d 0x14 4 else if o = 0x18 then dF d 0x28 4 else if o = 0x1F then 0 else dF d 0x10 4

/-- The charges of a channel descriptor (R609): one without data is no work of CHBYTE, and a receive is charged there frame by frame. -/
def chanCharges (d : List Byte) : List (Nat × Nat) :=
  if dOpc d = 0x1B ∨ cDlen d = 0 then [(clsChop, 1)] else [(clsChop, 1), (clsChbyte, units4k (cDlen d))]

/-- What an engine job is charged (R609). -/
def engCharges (d : List Byte) : List (Nat × Nat) :=
  let o := dOpc d
  let u := units4k (dF d 0x10 4)
  (if usesCe o then [(clsCe, u)] else []) ++ (if usesKe o then [(clsKe, if o ∈ [0x36, 0x37, 0x38, 0x39, 0x3A] then 16 else u)] else [])

/-- The charges of a descriptor, in the classes whose work it is. -/
def descCharges (d : List Byte) : List (Nat × Nat) := if isChanOpc (dOpc d) then chanCharges d else engCharges d

/-- The ledger entries that instance i holds (10 R511), those of a removed plan apart (R623). -/
def State.heldLeds (s : State) (i : Nat) : Nat :=
  (s.chan.led.filter (fun e => decide (e.2.ins = i) && decide (e.2.st ≠ .free) && decide (e.2.st ≠ .retired) && !e.2.removed)).length

/-- Instance i may hold one more entry; instance 0 has no plan. -/
def State.ledRoom (s : State) (i : Nat) : Bool := i = 0 || decide (s.heldLeds i < (s.ins i).plan.nledger)

/-- Instances i and j share the units of class c (R612): the channel subsystem as a whole, and the engines of one share. -/
def State.sharesUnit (s : State) (c i j : Nat) : Bool :=
  let p := (s.ins i).plan
  let q := (s.ins j).plan
  if c = clsCe then decide (p.ceMask = q.ceMask) else if c = clsKe then decide (p.keMask = q.keMask) else true

/-- The instances that share the unit of class c with i and have work of it at the head of a queue (R611, R612); may: those of them whose work nothing but the
deficit can hold back (R595; log entry 184). -/
def State.waitingFor (s : State) (c i : Nat) (may : Bool) : List Nat :=
  ((s.inst.qps.filter (fun e =>
    let j := s.qpOwner e.1
    s.sharesUnit c i j && s.canTake e.1 &&
    (match s.peekD e.1 with
    | some d => (descCharges d).any (fun x => decide (x.1 = c)) &&
        (!may || (!s.descBad e.1 d && !s.ringFull (s.cqFor j e.1 (dCq d)) && (descCharges d).all (fun x => (s.bk j x.1).admits) && (!isChanOpc (dOpc d) || dOpc d = 0x1F || s.ledRoom j)))
    | none => false))).map (fun e => s.qpOwner e.1)).dedup

/-- What a round adds to the deficit of instance i (R611). -/
def State.quantum (s : State) (i c : Nat) : Nat := Nat.max 1 ((s.bk i c).weight * (if c = clsChop then 1 else 16))

/-- The rounds after which instance i has a deficit above 0; k: where its deficits in class c at the shared unit stand, the class itself, or one for each chiplet's Mould
(R612). -/
def State.roundsTo (s : State) (i c k : Nat) : Nat := (-(s.bk i k).deficit).toNat / s.quantum i c + 1
def mouldKey (a : Nat) : Nat := 16 + a

/-- A deficit above 0 of an instance with no waiting work at the unit is set to 0 (R611). -/
def State.cutIdle (s : State) (i c : Nat) (ws : List Nat) : State :=
  s.inst.insts.foldl (fun t e => if !ws.contains e.1 && s.sharesUnit c i e.1 && decide (0 < (t.bk e.1 c).deficit) then t.setBk e.1 c { t.bk e.1 c with deficit := 0 } else t) s

/-- Deficit round-robin: instance i may take work of class c now, with the state after the rounds this takes (R611). ws: who has work waiting there; may: whose
work nothing but the deficit holds back, so that a round lasts while one of them has a deficit left. -/
def State.turn (s : State) (i c k : Nat) (ws may : List Nat) : Option State :=
  let all := if ws.contains i then ws else i :: ws
  let act := if may.contains i then may else i :: may
  let s1 := s.cutIdle i k all
  if 0 < (s1.bk i k).deficit then some s1
  else if act.any (fun j => decide (0 < (s1.bk j k).deficit)) then none
  else
    let n := (act.map (fun j => s1.roundsTo j c k)).foldl Nat.min (s1.roundsTo i c k)
    let s2 := all.foldl (fun t j => t.setBk j k { t.bk j k with deficit := (t.bk j k).deficit + ((n * t.quantum j c : Nat) : Int) }) s1
    if 0 < (s2.bk i k).deficit then some s2 else none

/-- Take work of instance i charged in a class: none while its class has no tokens or no deficit (R595, R610, R611). -/
def State.admit1 (s : State) (i c n : Nat) : Option State :=
  if !(s.bk i c).admits then none
  else (s.turn i c c (s.waitingFor c i false) (s.waitingFor c i true)).map (fun t => t.setBk i c ((t.bk i c).charge n))

/-- Start a transfer of instance i charged n units of class MOULD, part a of them at the Mould of each chiplet a of as: its turn must have come at each (R610 to
R612). ws: who waits there. -/
def State.admitMould (s : State) (i n : Nat) (as : List Nat) (part : Nat → Nat) (ws : Nat → List Nat) : Option State :=
  if !(s.bk i clsMould).admits then none
  else
    (as.foldl (fun (t : Option State) a => t.bind (fun u => u.turn i clsMould (mouldKey a) (ws a) ((ws a).filter (fun j => (u.bk j clsMould).admits)))) (some s)).map (fun t =>
      as.foldl (fun u a => u.setBk i (mouldKey a) { u.bk i (mouldKey a) with deficit := (u.bk i (mouldKey a)).deficit - (part a : Int) })
        (t.setBk i clsMould { (t.bk i clsMould).charge n with deficit := (t.bk i clsMould).deficit }))

/-- Charges in several classes together. -/
def State.spend (s : State) (i : Nat) : List (Nat × Nat) → Option State
  | [] => some s
  | (c, n) :: t => match s.admit1 i c n with | some u => u.spend i t | none => none

/-! ## Events -/

/-- A doorbell is found set: it is cleared, the tail is read, and refused descriptors complete (R593, R594, R598, R601). -/
def execQueueDoorbell (qp : Nat) (s : State) : Out :=
  let x := s.qp qp
  let rung := if x.kind = 1 then (s.part x.ph).bell else x.bell
  .next (
    if !rung || !x.made || x.err || s.moduleStopped || decide ((s.ins (s.qpOwner qp)).st ≠ .running) then s
    else
      let s1 := if x.kind = 1 then s.setPart x.ph { s.part x.ph with bell := false } else s.setQp qp { x with bell := false }
      match s1.qpRead qp x.tailptr 8 with
      | (s2, none) => s2
      | (s2, some bs) => ((s2.setQp qp { s2.qp qp with tail := ofLe bs % 2 ^ 16 % 2 ^ x.sqlog }).poll qp).skipRefused qp)

/-- At a tick boundary the head of a full ring is read (R601). -/
def execCompletionRingPoll (qp : Nat) (s : State) : Out := .next (if s.moduleStopped then s else s.poll qp)

/-- An epoch boundary refills every bucket (R610, R615). -/
def State.refill (s : State) : State :=
  let fill := fun b : Bucket => { b with bal := min (b.bal + (b.rate : Int)) (b.burst : Int) }
  s.inst.insts.foldl (fun t e => t.setIns e.1 { t.ins e.1 with bks := (t.ins e.1).bks.foldl (fun m p => Tab.set {} m p.1 (fill p.2)) (t.ins e.1).bks }) s

/-- The refill happens once at the boundary (01 R53). -/
def State.refillDue (s : State) : Bool := s.time.atEpoch && !s.inst.refilled
def execTokenRefill (s : State) : Out :=
  .next (if s.refillDue then ({ s with inst := { s.inst with refilled := true } } : State).refill else s)

/-- The moderation interval of a vector has passed, at its tick and not before (R606, 01 R53). -/
def execVvecModerationExpiry (v : Nat) (s : State) : Out :=
  .next (if (s.vv v).deferred && (s.vv v).next ≤ s.time.ticks then (s.setVv v { s.vv v with deferred := false }).vvGive v (s.vv v).dest else s)

/-- Software clears PV[v] (R603, 05 R247). -/
def execVirtualVectorClear (v : Nat) (s : State) : Out := .next (s.pvClear v)

end Sys2Proof.Machine
end

