-- ==== Sys2Proof/Machine/ArrayEnd.lean ====
section
/-! DEFINITION. The end of an array job and of an attempt, and the array's faults (08 R442, R443, 09 R447, R480, R481, R484). -/

namespace Sys2Proof.Machine

/-- A scalar register (R445). -/
def Sequencer.sr (q : Sequencer) (r : Nat) : Word := if r = 0 then 0 else Tab.get 0 q.s r

/-- The job of sequencer q ends with a status; xerr: the transfer whose status it is, or 0xFF (R480). The cycles after which an OR result can be read have passed
before the sequencer is next looked at (R448; log entry 181). -/
def State.endJob (s : State) (q status xerr : Nat) : State :=
  let x := s.sq q
  match x.job with
  | none => s
  | some j =>
    let extra : List Byte := [BitVec.ofNat 8 (x.att + 1), BitVec.ofNat 8 xerr] ++ leBytes 2 x.lastPc ++ leBytes 4 x.nstored ++ leBytes 8 (x.sr 1).toNat
    (s.setSq q { x with st := .idle, job := none, xfer := none, waits := .none, orLeft := 0 }).complete x.inst j.gen j.qp j.cq
      { bytes := cplBytes j.tag j.qp status j.sqhead 0x40 extra, flags := j.cflags % 4 + 4 * b2n (bit j.flags 1), lidx := none }

/-- The attempt has ended with an array fault (R443, R484): a restart follows, or the job completes. -/
def State.endAttempt (s : State) (q xerr : Nat) : State :=
  let x := s.sq q
  match x.job with
  | none => s
  | some j =>
    if !bit j.flags 0 && !bit j.flags 2 && decide (x.att < j.restarts) then s.setSq q { x with st := .stopped, xfer := none, waits := .none, orLeft := 0 }
    else s.endJob q scArrayFault xerr

/-- The mark that a fault leaves in VSTAT, and its report (08 R409, R442, 09 R447). -/
def State.arrayReport (s : State) (q : Nat) (k : ArrFault) (vat plane row : Nat) : State :=
  let ba := 0x1000000000 + vat * 2 ^ 22 + plane * 2 ^ 12 + row * 2 ^ 6
  let p := fun c : BitVec 3 => ({ pay c with unit := 3, msub := BitVec.ofNat 8 q, ins := BitVec.ofNat 13 (s.sq q).inst } : Payload)
  let at_ := fun c : BitVec 3 => ({ p c with addr := BitVec.ofNat 52 ba, avalid := true, aspace := 2 } : Payload)
  match k with
  | .singleBit => (s.setVat vat { s.vat vat with eccc := true }).report (624 + vat) (at_ clCE)
  | .doubleBit | .mouldDouble => (s.setVat vat { s.vat vat with eccu := true }).report (624 + vat) (at_ clUE)
  | .compare => let v := if s.isTwin vat then vat - 1 else vat; (s.setVat v { s.vat v with cmpf := true }).report (624 + v) (p clUE)
  | .seqMemory => s.report (880 + q) (p clUE)
  | .seqCorrected => s.report (880 + q) (p clCE)

/-- A CAPTURED Vat returns to READY, with its twin (08 R431). -/
def State.readyAgain (s : State) (v : Nat) : State := if (s.vat v).st = .captured then s.setVat v { s.vat v with st := .ready } else s
def State.vatReady (s : State) (v : Nat) : State := if (s.vat v).chk then (s.readyAgain v).readyAgain (v + 1) else s.readyAgain v

/-- The state of a sequencer without a job after a capture: stopped still, if a configuration fault had left it so (08 R429). -/
def Capture.rest (c : Capture) : SqSt := if c.pre = .stopped then .stopped else .idle

/-- An array fault after the capture edge: the capture ends with it and leaves the Vats READY, and with it the attempt of a job; an image that a switch saves is
invalid (08 R443, R444, 09 R491). -/
def State.capBroken (s : State) (q : Nat) (c : Capture) : State :=
  if c.by_ = 2 then s.setCap q (some { c with failed := true })
  else
    let s1 := (c.todo.foldl State.vatReady s).setCap q none
    let s2 := if (s1.sq q).job.isSome then s1.endAttempt q 255 else s1.setSq q { s1.sq q with st := c.rest }
    if c.by_ = 1 then s2.mbDone c.mb scArrayFault [] else s2

/-- An array fault of sequencer q: it is shown, and the attempt in progress ends (R443, R447). -/
def State.arrayFail (s : State) (q : Nat) (k : ArrFault) (vat plane row xerr : Nat) : State :=
  let st := (s.sq q).st
  let s1 := s.arrayReport q k vat plane row
  if s1.moduleStopped then s1
  else if st = .captured then
    (match s1.cap q with
    | some c => if c.edge then s1.capBroken q c else (s1.setCap q (if c.by_ = 0 then none else some c)).endAttempt q xerr
    | none => s1.endAttempt q xerr)
  else if !(st = .progload || st = .run || st = .wait) then s1
  else (s1.setCap q (match s1.cap q with | some c => if c.by_ = 0 then none else some c | none => none)).endAttempt q xerr

/-- A bit-space read of a plane of a checked pair reads the word of both Vats and compares them (R401, R413). -/
def State.planeCompare (s : State) (b : BitAt) : State :=
  match b with
  | .plane v key _ =>
    if (s.vat v).chk && decide (Tab.get 0 (s.vat v).planes key ≠ Tab.get 0 (s.vat (v + 1)).planes key) then s.arrayFail (s.vat v).part .compare v 0 0 255 else s
  | _ => s

end Sys2Proof.Machine
end

