-- ==== Sys2Proof/Machine/Vats.lean ====
section
/-! DEFINITION. The Vats: plane memory, routing and the CELL instruction (08 R373 to R408, 09 R450 to R455), row by row as
64-bit words, bit c for PE (r, c). -/

namespace Sys2Proof.Machine

/-! ## Plane memory -/

/-- The word of plane p, row r (R402). -/
def Vat.plane (x : Vat) (p r : Nat) : Word := Tab.get 0 x.planes (64 * p + r)
def Vat.setPlane (x : Vat) (p r : Nat) (w : Word) : Vat := { x with planes := Tab.set 0 x.planes (64 * p + r) w }

/-- Write a plane word of a logical Vat: both Vats of a pair hold it (R399). -/
def State.setPlaneW (s : State) (v p r : Nat) (w : Word) : State :=
  let s1 := s.setVat v ((s.vat v).setPlane p r w)
  if (s.vat v).chk then s1.setVat (v + 1) ((s1.vat (v + 1)).setPlane p r w) else s1

/-- Write one bit of a plane word in each Vat of a pair, which leaves the other PEs as they are (R399, R417). -/
def State.setPlaneBit (s : State) (v p r c : Nat) (b : Bool) : State :=
  let s1 := s.setVat v ((s.vat v).setPlane p r (setBit ((s.vat v).plane p r) c b))
  if (s.vat v).chk then s1.setVat (v + 1) ((s1.vat (v + 1)).setPlane p r (setBit ((s1.vat (v + 1)).plane p r) c b)) else s1

/-- The Vats of sequencer q's partition, twins among them (R395, R422); those that software names (R415). -/
def State.partVats (s : State) (q : Nat) : List Nat := (List.range s.nVats).filter (fun v => decide ((s.vat v).part = q) && decide ((s.vat v).st ≠ .uncfg))
def State.partOrder (s : State) (q : Nat) : List Nat := (s.partVats q).filter (fun v => !s.isTwin v)

/-! ## Routing -/

inductive Side where
  | north | east | south | west
deriving DecidableEq, Repr

/-- The Vat on a side (R375, R400), whatever its partition. -/
def nextVat (chk : Bool) (v : Nat) : Side → Option Nat
  | .north => if 8 ≤ v % 64 then some (v - 8) else none
  | .south => if v % 64 < 56 then some (v + 8) else none
  | .east => let k := if chk then 2 else 1; if v % 8 + k ≤ 7 then some (v + k) else none
  | .west => let k := if chk then 2 else 1; if k ≤ v % 8 then some (v - k) else none

def Vat.joins (x : Vat) : Side → Bool
  | .north => x.joinN
  | .east => x.joinE
  | .south => x.joinS
  | .west => x.joinW

def Side.code : Side → Nat
  | .north => 0
  | .east => 1
  | .south => 2
  | .west => 3

/-- A JOIN edge towards a Vat that a later image has given to another partition connects nothing (R396). -/
def State.stray (s : State) (v : Nat) (d : Side) : Bool :=
  (s.vat v).joins d &&
    (match nextVat (s.vat v).chk v d with
    | some u => decide ((s.vat u).part ≠ (s.vat v).part) && decide ((s.vat u).st ≠ .uncfg) && decide ((s.vat u).st ≠ .loading)
    | none => false)

/-- X of a row of the Vat that a side reads: the joined neighbour, which gives 0 while it is UNCFG or LOADING, or itself under WRAP
(R390, R432); over an edge that connects nothing, a free value (log entry 140). -/
def State.edgeX (s : State) (v : Nat) (d : Side) (r : Nat) : Word :=
  let x := s.vat v
  if s.stray v d then Config.free (s.freeCtr + (4 * v + d.code) * 64 + r)
  else
    match (if x.joins d then nextVat x.chk v d else none) with
    | some u => Tab.get 0 (s.vat u).pe.x r
    | none => Tab.get 0 x.pe.x r

def allOnes : Word := BitVec.allOnes 64
def fillW (b : Bool) : Word := if b then allOnes else 0

/-- The latency of the broadcast lines and of the global OR tree (R394). -/
def Sequencer.lat (q : Sequencer) : Nat := if (List.range 4).countP (fun k => q.chips.getLsbD k) ≤ 1 then 8 else 14

/-- Line g as a PE reads it in this cycle (R392, R394). -/
def Sequencer.line (q : Sequencer) (g : Nat) : Bool := (q.glHist.getD (q.lat - 1) 0).getLsbD g

/-- Write a scalar register: S0 discards (R445). -/
def Sequencer.setSr (q : Sequencer) (r : Nat) (w : Word) : Sequencer := if r = 0 then q else { q with s := Tab.set 0 q.s r w }

/-- The index that RIX or WIX chooses (R453). -/
def Sequencer.index (q : Sequencer) (k : Nat) : Nat := if k = 0 then 0 else if k ≤ 4 then Tab.get 0 q.ix (k - 1) else (q.sr k).toNat % 1024

/-- An input source of row r (R379, R451). -/
def State.cellSrc (s : State) (q : Sequencer) (v : Nat) (code p r : Nat) : Word :=
  let x := s.vat v
  let e := x.pe
  match code with
  | 0 => Tab.get 0 e.a r
  | 1 => Tab.get 0 e.c r
  | 2 => Tab.get 0 e.m r
  | 3 => Tab.get 0 e.x r
  | 4 => Tab.get 0 e.q r
  | 5 => x.plane p r
  | 6 => if r = 0 then s.edgeX v .north 63 else Tab.get 0 e.x (r - 1)
  | 7 => (Tab.get 0 e.x r >>> 1) ||| (s.edgeX v .east r <<< 63)
  | 8 => if r = 63 then s.edgeX v .south 0 else Tab.get 0 e.x (r + 1)
  | 9 => (Tab.get 0 e.x r <<< 1) ||| (s.edgeX v .west r >>> 63)
  | 10 => fillW (decide (Tab.get 0 e.x r &&& Tab.get 0 x.rdrv r ≠ 0))
  | 11 => (List.range 64).foldl (fun w k => w ||| (Tab.get 0 e.x k &&& Tab.get 0 x.cdrv k)) 0
  | 20 => 0
  | 21 => allOnes
  | n => fillW (q.line (n - 12))

/-! ## The cell function unit (R378, R383, R386) -/

/-- A truth table over three words, bit by bit. -/
def lut3 (t : Byte) (i0 i1 i2 : Word) : Word :=
  (List.range 8).foldl (fun w k => if t.getLsbD k then
    w ||| ((if bit k 0 then i0 else ~~~i0) &&& (if bit k 1 then i1 else ~~~i1) &&& (if bit k 2 then i2 else ~~~i2)) else w) 0

/-- A ganged row: input i2 of a column that is not the lowest of its word is the carry from the west (R386). The result and
the carry outputs. -/
def gangRow (tr tc : Byte) (width : Nat) (i0 i1 c : Word) : Word × Word :=
  let step := fun (acc : Word × Word × Bool) (k : Nat) =>
    let i2 := if k % width = 0 then c.getLsbD k else acc.2.2
    let n := 4 * b2n i2 + 2 * b2n (i1.getLsbD k) + b2n (i0.getLsbD k)
    let cy := tc.getLsbD n
    (setBit acc.1 k (tr.getLsbD n), setBit acc.2.1 k cy, cy)
  let r := (List.range 64).foldl step ((0, 0, false) : Word × Word × Bool)
  (r.1, r.2.1)

/-- The plane that a CELL instruction reads, and the one that it writes (R451, R453). -/
def Sequencer.readPlane (q : Sequencer) (o : CellOp) : Nat := (o.pr.toNat + q.index o.rix.toNat) % 1024
def Sequencer.writePlane (q : Sequencer) (o : CellOp) : Nat := (o.pw.toNat + q.index o.wix.toNat) % 1024

/-- The outputs of row r of Vat v. -/
def State.cellRow (s : State) (q : Sequencer) (v : Nat) (o : CellOp) (r : Nat) : Word × Word :=
  let x := s.vat v
  let p := q.readPlane o
  let src := fun k : BitVec 5 => s.cellSrc q v k.toNat p r
  let tr := Tab.get 0 x.res o.slot.toNat
  let tc := Tab.get 0 x.car o.slot.toNat
  if o.gang then gangRow tr tc (2 ^ x.gang) (src o.i0) (src o.i1) (Tab.get 0 x.pe.c r)
  else (lut3 tr (src o.i0) (src o.i1) (src o.i2), lut3 tc (src o.i0) (src o.i1) (src o.i2))

/-- Write under the activity mask (R381). -/
def masked (m old new : Word) : Word := (new &&& m) ||| (old &&& ~~~m)

/-- A Vat after a CELL instruction, whose outputs by row are rows (R380, R381, R405); pw: the plane written. -/
def Vat.afterCell (x : Vat) (o : CellOp) (pw : Nat) (rows : List (Word × Word)) : Vat :=
  let step := fun (y : Vat) (p : (Word × Word) × Nat) =>
    let r := p.2
    let m := Tab.get 0 x.pe.m r
    let v := p.1.1
    let pe := y.pe
    let y1 : Vat := match o.rd.toNat with
      | 1 => { y with pe := { pe with a := Tab.set 0 pe.a r (masked m (Tab.get 0 pe.a r) v) } }
      | 2 => { y with pe := { pe with x := Tab.set 0 pe.x r v } }
      | 3 => { y with pe := { pe with q := Tab.set 0 pe.q r (masked m (Tab.get 0 pe.q r) v) } }
      | 4 => { y with pe := { pe with m := Tab.set 0 pe.m r v } }
      | 5 => y.setPlane pw r (masked m (y.plane pw r) v)
      | _ => y
    if o.cd then { y1 with pe := { y1.pe with c := Tab.set 0 y1.pe.c r (masked m (Tab.get 0 y1.pe.c r) p.1.2) } } else y1
  (rows.zip (List.range 64)).foldl step x

/-- Some PE with M = 1 offers a 1 to the global OR tree (R393, R452): y is the Vat after the cycle. -/
def Vat.orBit (x y : Vat) (o : CellOp) (rows : List (Word × Word)) : Bool :=
  (rows.zip (List.range 64)).any (fun p =>
    let w := match o.ors.toNat with
      | 1 => Tab.get 0 y.pe.a p.2
      | 2 => Tab.get 0 y.pe.x p.2
      | 3 => Tab.get 0 y.pe.q p.2
      | 4 => p.1.1
      | 5 => p.1.2
      | _ => 0
    decide (w &&& Tab.get 0 x.pe.m p.2 ≠ 0))

/-- Some PE with its global-drive bit 1 drives a 1 (R455). -/
def Vat.drives (x : Vat) : Bool := (List.range 64).any (fun r => decide (Tab.get 0 x.pe.x r &&& Tab.get 0 x.gdrv r ≠ 0))

/-- What leaves a Vat over its edge links: X of the outer rows and columns (R401). -/
def PeRegs.edges (e : PeRegs) : Word × Word × List (Bool × Bool) :=
  (Tab.get 0 e.x 0, Tab.get 0 e.x 63, (List.range 64).map (fun r => ((Tab.get 0 e.x r).getLsbD 0, (Tab.get 0 e.x r).getLsbD 63)))

/-- What a CELL instruction gives: the state, the drive of the lines in this cycle, the OR, and the checked pairs whose
compare fails (R401). -/
structure CellEnd where
  st : State
  drv : BitVec 8
  or_ : Bool
  differs : List Nat

/-- A CELL instruction in every READY Vat of the partition (R450), whose outputs come from the state src. -/
def State.cellFrom (s src : State) (n : Nat) (o : CellOp) : CellEnd :=
  let q := s.sq n
  let vs := (s.partVats n).filter (fun v => decide ((s.vat v).st = .ready))
  let outs := vs.map (fun v => (v, (List.range 64).map (src.cellRow q v o)))
  let s1 := outs.foldl (fun t e => t.setVat e.1 ((s.vat e.1).afterCell o (q.writePlane o) e.2)) s
  let drv : BitVec 8 := if o.gle && vs.any (fun v => (s.vat v).drives) then q.gl ||| (1#8 <<< o.gln.toNat) else q.gl
  let offers := outs.map (fun e => (e.1, (s.vat e.1).orBit (s1.vat e.1) o e.2))
  let offer := fun v : Nat => offers.contains (v, true)
  let same := fun v : Nat =>
    decide ((s1.vat v).pe.edges = (s1.vat (v + 1)).pe.edges) && (!o.gle || (s.vat v).drives == (s.vat (v + 1)).drives) && offer v == offer (v + 1)
  let s2 := if vs.any (fun v => [Side.north, .east, .south, .west].any (s.stray v)) then { s1 with freeCtr := s1.freeCtr + 65536 } else s1
  ⟨s2, drv, offers.any (·.2), vs.filter (fun v => (s.vat v).chk && decide (v % 2 = 0) && !same v)⟩

/-- A CELL instruction that meets no Mould access. -/
def State.cellAll (s : State) (n : Nat) (o : CellOp) : CellEnd := s.cellFrom s n o

/-- The fields that make a CELL instruction illegal (R451, R452, R454, R457). -/
def CellOp.illegal (o : CellOp) : Bool :=
  decide (22 ≤ o.i0.toNat) || decide (22 ≤ o.i1.toNat) || decide (22 ≤ o.i2.toNat) || decide (6 ≤ o.rd.toNat) || decide (6 ≤ o.ors.toNat) || o.z

/-- The state of the PEs at the beginning of an attempt (09 R478). -/
def PeRegs.start : PeRegs := { m := (List.range 64).map (fun r => (r, allOnes)) }

end Sys2Proof.Machine
end

