-- ==== Sys2Proof/Machine/Mould.lean ====
section
/-! DEFINITION. Mould transfers (08 R414 to R421, 09 R465, R466, R477): one record, or one plane word, at a time. -/

namespace Sys2Proof.Machine

/-! ## A transfer-table entry (09 R477) -/

def xKind (e : List Byte) : Nat := leAt e 0 1
def xDir (e : List Byte) : Nat := leAt e 1 1
def xNfld (e : List Byte) : Nat := leAt e 2 1
def xVat0 (e : List Byte) : Nat := leAt e 3 1
def xNvat (e : List Byte) : Nat := leAt e 4 2
def xStride (e : List Byte) : Nat := leAt e 6 2
def xAddr (e : List Byte) : Nat := leAt e 8 8
def xNrec (e : List Byte) : Nat := leAt e 0x10 4
def xMaskp (e : List Byte) : Nat := leAt e 0x14 2
def xPlane0 (e : List Byte) : Nat := leAt e 0x16 2
def xNplane (e : List Byte) : Nat := leAt e 0x18 2

/-- A field: its bit offset, width and first plane. -/
structure XField where
  boff : Nat
  width : Nat
  plane : Nat
deriving DecidableEq, Repr

def xField (e : List Byte) (f : Nat) : XField := let w := leAt e (0x20 + 4 * f) 4; ⟨fld w 17 15, fld w 10 7, fld w 0 10⟩
def xFields (e : List Byte) : List XField := (List.range (xNfld e)).map (xField e)

/-- The entry keeps R477. -/
def xferOk (e : List Byte) : Bool :=
  let common := zeroAt e 0x1A 6 && decide (1 ≤ xNvat e) && decide (xNvat e ≤ 256) && decide (xAddr e < 2 ^ 52)
  match xKind e with
  | 0 =>
    common && decide (xDir e ≤ 2) && decide (1 ≤ xNfld e) && decide (xNfld e ≤ 8) && decide (1 ≤ xStride e) && decide (xStride e ≤ 4096)
    && decide (1 ≤ xNrec e) && decide (xNrec e ≤ 4096 * xNvat e) && (if xDir e = 2 then decide (xMaskp e < 1024) else decide (xMaskp e = 0))
    && decide (xPlane0 e = 0) && decide (xNplane e = 0) && zeroAt e (0x20 + 4 * xNfld e) (32 - 4 * xNfld e)
    && (xFields e).all (fun f => decide (1 ≤ f.width) && decide (f.width ≤ 64) && decide (f.boff + f.width ≤ 8 * xStride e) && decide (f.plane + f.width ≤ 1024))
  | 1 =>
    common && decide (xDir e ≤ 1) && decide (xNfld e = 0) && decide (xStride e = 0) && decide (xAddr e % 8 = 0) && decide (xNrec e = 0) && decide (xMaskp e = 0)
    && decide (xPlane0 e < 1024) && decide (1 ≤ xNplane e) && decide (xPlane0 e + xNplane e ≤ 1024) && zeroAt e 0x20 32
  | _ => false

/-- The units of a transfer: records, or plane words. -/
def xTotal (e : List Byte) : Nat := if xKind e = 0 then xNrec e else 64 * xNplane e * xNvat e

/-- The bytes charged to class MOULD (12 R609). -/
def xBytes (e : List Byte) : Nat := if xKind e = 0 then xNrec e * xStride e else 512 * xNplane e * xNvat e

/-- The Vats of a transfer of sequencer q, in order; none is MOULD_RANGE (R415). -/
def State.xVats (s : State) (q : Nat) (e : List Byte) : Option (List Nat) :=
  let ord := s.partOrder q
  if !ord.contains (xVat0 e) || decide (ord.length < xNvat e) then none
  else
    let k := ord.idxOf (xVat0 e)
    some (((ord.drop k) ++ ord.take k).take (xNvat e))

/-! ## The shares of the Moulds (08 R420, R421) -/

/-- The records, or plane words, of one Vat. -/
def xUnits (e : List Byte) : Nat := if xKind e = 0 then 4096 else 64 * xNplane e

/-- The places in the order of a transfer whose Vats lie on chiplet a. -/
def xMine (vs : List Nat) (a : Nat) : List Nat := (List.range vs.length).filter (fun i => decide (vs.getD i 0 / 64 = a))

/-- How many of the first n units of a transfer belong to the Mould of chiplet a. -/
def xShare (e : List Byte) (vs : List Nat) (n a : Nat) : Nat := ((xMine vs a).map (fun i => Nat.min (xUnits e) (n - i * xUnits e))).foldl (· + ·) 0

/-- The k-th unit of the Mould of chiplet a. -/
def xUnit (e : List Byte) (vs : List Nat) (a k : Nat) : Nat := (xMine vs a).getD (k / xUnits e) 0 * xUnits e + k % xUnits e

/-- The units that the Mould of chiplet a has moved, and all that have been moved (09 R492). -/
def XferSt.on (x : XferSt) (a : Nat) : Nat := Tab.get 0 x.moved a
def XferSt.total (x : XferSt) : Nat := (List.range 4).foldl (fun n a => n + x.on a) 0

/-- Every Mould has moved its share. -/
def XferSt.over (x : XferSt) (vs : List Nat) : Bool := (List.range 4).all (fun a => decide (xShare x.entry vs (xTotal x.entry) a ≤ x.on a))

/-- A transfer that goes on after n units: its own progress, or the first n units (09 R490). -/
def XferSt.resume (x : XferSt) (vs : List Nat) (n : Nat) : XferSt :=
  if x.total = n then x else { x with moved := (List.range 4).foldl (fun (m : Tab Nat) a => Tab.set 0 m a (xShare x.entry vs n a)) [], early := [] }

/-- The transfer of another sequencer has begun at the Mould of chiplet a and has not ended there (R421). -/
def State.mouldBusy (s : State) (q a : Nat) : Bool :=
  s.arr.seqs.any (fun e => decide (e.1 ≠ q) && (decide (e.2.st = .run) || decide (e.2.st = .wait)) &&
    (match e.2.xfer with
    | some t => (match s.xVats e.1 t.entry with
      | some vs => decide (0 < t.on a) && decide (t.on a < xShare t.entry vs (xTotal t.entry) a)
      | none => false)
    | none => false))

/-! ## One unit -/

/-- The word lies in an enabled row-lock window (R410). -/
def Sequencer.locked (q : Sequencer) (p r : Nat) : Bool :=
  (List.range 4).any (fun k => let w := Tab.get {} q.wins k; w.en && decide (w.plo ≤ p) && decide (p ≤ w.phi) && decide (w.rlo ≤ r) && decide (r ≤ w.rhi))

/-- How a unit ends: moved; waiting for a window, for a Vat to leave CAPTURED, or for the earlier records of a compacted STORE (R410,
R418, R437); a status; or a word that the Vats of a pair hold differently (R401). -/
inductive UnitEnd where
  | moved | waits | ended (status : Nat) | differs (vat : Nat)
deriving DecidableEq, Repr

/-- The planes that a unit of a transfer touches, in row r. -/
def xPlanes (e : List Byte) (u : Nat) : List Nat :=
  if xKind e = 0 then (xFields e).flatMap (fun f => (List.range f.width).map (f.plane + ·)) ++ (if xDir e = 2 then [xMaskp e] else [])
  else [xPlane0 e + u / 64 % xNplane e]

/-- The Vat, row and column of unit u (R416, R466). -/
def xPlace (e : List Byte) (vs : List Nat) (u : Nat) : Nat × Nat × Nat :=
  if xKind e = 0 then (vs.getD (u / 4096) 0, u % 4096 / 64, u % 64)
  else (vs.getD (u / (64 * xNplane e)) 0, u % 64, 0)

/-- Read bytes of the owning instance for the Mould of Vat v (R419). -/
def State.mouldRead (s : State) (i v a n : Nat) : State × Option (List Byte) × Nat :=
  match s.agentGet 0x04 (v / 64) i a n with
  | (t, .ok bs _) => (t, some bs, 0)
  | (t, .fault _) => (t, none, scMouldFault)
  | (t, .poison _) => (t, none, scMemPoison)

/-- Put a record's field bits into the planes of PE (r, c), but for the planes whose word is written already (R416, R417). -/
def State.spread (s : State) (v r c : Nat) (done : List Nat) (fs : List XField) (rec_ : Nat) : State :=
  fs.foldl (fun t f => (List.range f.width).foldl (fun u j =>
    if done.contains (f.plane + j) then u
    else u.setPlaneBit v (f.plane + j) r c (bit rec_ (f.boff + j))) t) s

/-- The records of a row from PE (r, 0) on are read and put into its planes, whose words are then written whole (R405); fs: their fields, of len bytes each from
address a on. The status of a record that cannot be read. -/
def State.loadRow (s : State) (i v r len a : Nat) (done : List Nat) (fs : List XField) : List Nat → State × Option Nat
  | [] => (s, none)
  | c :: cs =>
    match s.mouldRead i v (a + len * c) len with
    | (s1, some bs, _) =>
      (match State.loadRow s1 i v r len a done fs cs with
      | (s2, none) => (s2.spread v r c done fs (ofLe bs), none)
      | x => x)
    | (s1, none, st) => (s1, some st)

/-- The Mould port of Vat v has made another access to a word of row r: its last bit-space write there was in an earlier cycle (R405, R406). -/
def State.portUsed (s : State) (v r : Nat) : State :=
  let off := fun (t : State) (u : Nat) => if (t.vat u).mport.any (fun m => decide (m.1 % 64 = r)) then t.setVat u { t.vat u with mport := none } else t
  if (s.vat v).chk then off (off s v) (v + 1) else off s v

/-- The record that the planes of PE (r, c) give (R418). -/
def Vat.gather (x : Vat) (r c : Nat) (fs : List XField) : Nat :=
  fs.foldl (fun n f => (List.range f.width).foldl (fun k j => if (x.plane (f.plane + j) r).getLsbD c then k ||| 2 ^ (f.boff + j) else k) n) 0

/-- The two Vats of a pair hold a word of unit u of a transfer differently (R401). -/
def State.unitDiffers (s : State) (e : List Byte) (v r u : Nat) : Bool :=
  (s.vat v).chk && (xPlanes e u).any (fun p => decide ((s.vat v).plane p r ≠ (s.vat (v + 1)).plane p r))

/-- The row of records, or the plane word, that the k-th unit of a Mould is in, in the order of that Mould. -/
def xRow (e : List Byte) (k : Nat) : Nat := if xKind e = 0 then k / 64 else k

/-- Move the next unit of the Mould of chiplet a for the transfer x of sequencer q (R416 to R420, R466). A compacted STORE
writes its records in their order, so each waits for the earlier ones (R418; log entry 141). The records of a LOAD reach the planes row by row, as whole words (R405). -/
def State.moveUnit (s : State) (q : Nat) (vs : List Nat) (a : Nat) (x : XferSt) : State × XferSt × UnitEnd :=
  let sq := s.sq q
  let e := x.entry
  let u := xUnit e vs a (x.on a)
  let pl := xPlace e vs u
  let v := pl.1
  let r := pl.2.1
  let c := pl.2.2
  let rowEnd := (u + 1) % 64 = 0 || x.on a + 1 = xShare e vs (xTotal e) a
  let on : XferSt := { x with moved := Tab.set 0 x.moved a (x.on a + 1), early := if xKind e = 0 && !rowEnd then x.early else x.early.filter (fun w => !(decide (w.1 = a) && decide (w.2.1 = xRow e (x.on a)))) }
  if (s.vat v).st = .captured || (xPlanes e u).any (fun p => sq.locked p r) || (decide (xDir e = 2) && decide (x.total ≠ u)) then (s, x, .waits)
  else if xDir e ≠ 0 && s.unitDiffers e v r u then (s, x, .differs v)
  else if xKind e = 0 then
    let n := xStride e
    if xDir e = 0 then
      if !rowEnd then (s, on, .moved)
      else
        let done := x.early.filter (fun w => decide (w.1 = a) && decide (w.2.1 = xRow e (x.on a))) |>.map (·.2.2)
        match (s.portUsed v r).loadRow sq.inst v r n (x.addr + n * (u - c)) done (xFields e) (List.range (c + 1)) with
        | (s1, none) => (s1, on, .moved)
        | (s1, some st) => (s1, x, .ended st)
    else if xDir e = 2 && !((s.vat v).plane (xMaskp e) r).getLsbD c then (s, on, .moved)
    else
      let k := if xDir e = 2 then x.out else u
      match s.agentStore 0x04 (v / 64) sq.inst (x.addr + n * k) (leBytes n ((s.vat v).gather r c (xFields e))) with
      | (s1, .ok) => (s1.setSq q { s1.sq q with nstored := (s1.sq q).nstored + (if xDir e = 2 then 1 else 0) }, { on with out := x.out + 1 }, .moved)
      | (s1, .fault _) => (s1, x, .ended scMouldFault)
      | (s1, .poison _) => (s1, x, .ended scMemPoison)
  else
    let p := xPlane0 e + u / 64 % xNplane e
    if xDir e = 0 && x.early.contains (a, x.on a, p) then (s, on, .moved)
    else if xDir e = 0 then
      match s.mouldRead sq.inst v (x.addr + 8 * u) 8 with
      | (s1, some bs, _) => ((s1.portUsed v r).setPlaneW v p r (BitVec.ofNat 64 (ofLe bs)), on, .moved)
      | (s1, none, st) => (s1, x, .ended st)
    else
      match s.agentStore 0x04 (v / 64) sq.inst (x.addr + 8 * u) (leBytes 8 ((s.vat v).plane p r).toNat) with
      | (s1, .ok) => (s1, on, .moved)
      | (s1, .fault _) => (s1, x, .ended scMouldFault)
      | (s1, .poison _) => (s1, x, .ended scMemPoison)

/-- Move up to n units of the Mould of chiplet a, until one waits or ends the transfer. -/
def State.moveUnits (q : Nat) (vs : List Nat) (a : Nat) : Nat → State → XferSt → State × XferSt × UnitEnd
  | 0, s, x => (s, x, .moved)
  | n + 1, s, x =>
    match s.moveUnit q vs a x with
    | (s1, x1, .moved) => State.moveUnits q vs a n s1 x1
    | r => r

/-! ## Collisions (08 R406 to R408) -/

/-- Each bit is that of the old word or of the new one, as m says (R407). -/
def mixW (m old new : Word) : Word := (new &&& m) ||| (old &&& ~~~m)

/-- A collision of Vat v is shown (R406, R422). -/
def Vat.collided (x : Vat) : Vat := { x with coll := true, collcnt := satTo 65535 (x.collcnt + 1) }

/-- The CELL instruction names P, or writes it. -/
def CellOp.reads (o : CellOp) : Bool := decide (o.i0 = 5) || decide (o.i1 = 5) || decide (o.i2 = 5)
def CellOp.writes (o : CellOp) : Bool := decide (o.rd = 5)

/-- The Mould has written a word in the cycle in which the array port reads it: base holds the words as they stand, src as the
array reads them; old is the word before. In a checked pair each Vat reads data of its own (R406 to R408). used: the banks, Vat and row, whose Mould
port has made its access of this cycle (R403); again: the bit-space writes that it makes after the cycle, none for one that reads its bit again. -/
structure Meet where
  base : State
  src : State
  again : List (Nat × Nat × Nat × Option Bool) := []
  used : List (Nat × Nat) := []

def Meet.read (k : Meet) (v p r : Nat) (old : Word) : Meet :=
  let (m, b) := k.base.draw
  let x := b.vat v
  { k with base := b.setVat v x.collided, src := k.src.setVat v ((k.src.vat v).setPlane p r (mixW m old (x.plane p r))) }

/-- A word of plane p that the Mould of chiplet a still has to write for a LOAD: of the rows of records, or plane words, that it has not finished, the one that pick
chooses, since the order within a transfer is not given. The Vat, the row, its number at that Mould, and the state in which the word has been written. -/
def State.laterWord (s : State) (q : Nat) (t : XferSt) (vs : List Nat) (a p pick : Nat) : Option (Nat × Nat × Nat × State) :=
  let e := t.entry
  let share := xShare e vs (xTotal e) a
  let k := if xKind e = 0 then Nat.max (t.on a) (64 * (t.on a / 64 + pick % ((share + 63) / 64 - t.on a / 64))) else t.on a + pick % (share - t.on a)
  let n := if xKind e = 0 then Nat.min (64 - k % 64) (share - k) else 1
  let u := xUnit e vs a k
  let v := (xPlace e vs u).1
  if xDir e = 0 && decide (t.on a < share) && (xPlanes e u).contains p && !t.early.contains (a, xRow e k, p) && decide ((s.vat v).st = .ready) && !s.mouldBusy q a then
    match State.moveUnits q vs a n s { t with moved := Tab.set 0 t.moved a k } with
    | (_, _, .ended _) => none
    | (s1, t1, _) => if t1.on a = k + n && decide (s1.rind = s.rind) then some (v, (xPlace e vs u).2.1, xRow e k, s1) else none
  else none

/-- In this cycle the Mould of chiplet a may write a word of the plane that a CELL instruction reads and does not write; a free value tells whether it does, and
which. When both ports write, the Mould's access comes after the cycle (R403, R406; log entry 65). -/
def Meet.mould (q : Nat) (o : CellOp) (vs : List Nat) (k : Meet) (a : Nat) : Meet :=
  let x := k.base.sq q
  let p := x.readPlane o
  match x.xfer with
  | none => k
  | some t =>
    if !(CellOp.reads o) || (CellOp.writes o && decide (x.writePlane o = p)) then k
    else
      let (d, b) := k.base.draw
      match k.base.laterWord q t vs a p (d.toNat / 2) with
      | none => { k with base := b }
      | some (v, r, row, s1) =>
        if !d.getLsbD 0 || k.used.contains (v, r) then { k with base := b }
        else
          let us := if (b.vat v).chk then [v, v + 1] else [v]
          let t1 : XferSt := if xKind t.entry ≠ 0 ∧ row = t.on a then { t with moved := Tab.set 0 t.moved a (t.on a + 1) } else { t with early := (a, row, p) :: t.early }
          let k1 : Meet := { k with base := us.foldl (fun z u => z.setVat u ((z.vat u).setPlane p r ((s1.vat u).plane p r))) (b.setSq q { x with xfer := some t1 }) }
          us.foldl (fun j u => j.read u p r ((k.base.vat u).plane p r)) k1

/-- In this cycle the Mould port of Vat v may make the bit-space write that it has made last: the array reads the word that it writes,
or writes it, and then the Mould performs its access again from its read (R405, R406, R413). -/
def Meet.bitw (q : Nat) (o : CellOp) (k : Meet) (v : Nat) : Meet :=
  let x := k.base.sq q
  match (k.base.vat v).mport with
  | none => k
  | some (key, old, col, flip, at_) =>
    let wr := CellOp.writes o && decide (x.writePlane o = key / 64)
    if decide (at_ ≠ x.cyc) || (!wr && !(CellOp.reads o && decide (x.readPlane o = key / 64))) then k
    else
      let (d, b) := k.base.draw
      let us := if (b.vat v).chk then [v, v + 1] else [v]
      let u := us.map (fun y => (y, key % 64)) ++ k.used
      if !d.getLsbD 0 then { k with base := b }
      else if wr then
        let back := fun (s : State) => us.foldl (fun t u => match (k.base.vat u).mport with | some (_, w, _) => t.setVat u ((t.vat u).setPlane (key / 64) (key % 64) w) | none => t) s
        let put := if flip then none else some (((k.base.vat v).plane (key / 64) (key % 64)).getLsbD col)
        { k with base := back b, src := back k.src, again := us.map (fun u => (u, key, col, put)) ++ k.again, used := u }
      else us.foldl (fun j u => j.read u (key / 64) (key % 64) (match (k.base.vat u).mport with | some (_, w, _) => w | none => old)) { k with base := b, used := u }

/-- The access that is made again: a value, or the inverse of what the word holds now. -/
def Vat.putAgain (x : Vat) (key col : Nat) (v : Option Bool) : Vat := x.putPlaneBit key col (v.getD (!(x.plane (key / 64) (key % 64)).getLsbD col)) 0

/-- One array cycle of a CELL instruction with what it meets at the Mould ports (R403 to R408). -/
def State.cellCycle (s : State) (q : Nat) (o : CellOp) : CellEnd :=
  let k1 : Meet := (s.partOrder q).foldl (Meet.bitw q o) { base := s, src := s }
  let k2 := match (s.sq q).xfer.bind (fun t => s.xVats q t.entry) with
    | some vs => (List.range 4).foldl (Meet.mould q o vs) k1
    | none => k1
  let r := k2.base.cellFrom { k2.src with freeCtr := k2.base.freeCtr } q o
  let s1 := k2.again.foldl (fun t w => t.setVat w.1 ((t.vat w.1).putAgain w.2.1 w.2.2.1 w.2.2.2)) r.st
  { r with st := (s1.partVats q).foldl (fun t v => if (t.vat v).mport.isSome then t.setVat v { t.vat v with mport := none } else t) s1 }

end Sys2Proof.Machine
end

