-- ==== Sys2Proof/Machine/Sequencer.lean ====
section
/-! DEFINITION. The instructions of a sequencer (09 R445 to R471). -/

namespace Sys2Proof.Machine

open Host

/-! ## Cycles and the next instruction -/

/-- n array cycles pass; drv: the lines as driven in the first of them, later ones as the sequencer drives them (R392, R394). -/
def Sequencer.cycles (x : Sequencer) (n : Nat) (drv : BitVec 8) : Sequencer :=
  { x with cyc := satTo (2 ^ 48 - 1) (x.cyc + n), orLeft := x.orLeft - n,
           glHist := if n = 0 then x.glHist else (List.replicate (Nat.min (n - 1) 14) x.gl ++ drv :: x.glHist).take 14 }

def Sequencer.loopOn (x : Sequencer) (n : Nat) : Bool := Tab.get false x.lact n
def Sequencer.endLoop (x : Sequencer) (n : Nat) : Sequencer := { x with lact := Tab.set false x.lact n false }

/-- The innermost active loop that ends at index p: the one whose body begins last (R463). -/
def Sequencer.inner (x : Sequencer) (p : Nat) : Option Nat :=
  (List.range 4).foldl (fun b n =>
    if x.loopOn n && decide (Tab.get 0 x.lend n = p) then
      (match b with
      | none => some n
      | some m => if Tab.get 0 x.lfirst m < Tab.get 0 x.lfirst n then some n else b)
    else b) none

/-- The index after the instruction at pc has completed (R462, R463); k bounds the loops that end there. -/
def Sequencer.after : Nat → Sequencer → Sequencer
  | 0, x => { x with pc := x.pc + 1 }
  | k + 1, x =>
    match x.inner x.pc with
    | none => { x with pc := x.pc + 1 }
    | some n =>
      if 1 < Tab.get 0 x.lc n then
        { x with lc := Tab.set 0 x.lc n (Tab.get 0 x.lc n - 1), ix := Tab.set 0 x.ix n ((Tab.get 0 x.ix n + 1) % 2 ^ 16), pc := Tab.get 0 x.lfirst n }
      else Sequencer.after k (x.endLoop n)

/-- A taken branch to t ends every loop whose body does not hold t (R463). -/
def Sequencer.jump (x : Sequencer) (t : Nat) : Sequencer :=
  let y := (List.range 4).foldl (fun (z : Sequencer) n => if z.loopOn n && (decide (t < Tab.get 0 z.lfirst n) || decide (Tab.get 0 z.lend n < t)) then z.endLoop n else z) x
  { y with pc := t }

/-- Index 8,192 is beyond the instruction memory (R464). -/
def State.sqPlace (s : State) (q : Nat) (x : Sequencer) : State :=
  if 8192 ≤ x.pc then (s.setSq q { x with pc := 0, st := .run, waits := .none }).endJob q scSqPc 255
  else s.setSq q { x with st := .run, waits := .none }

/-- The instruction at pc has issued for n cycles and the next one follows (R459, R460). -/
def State.sqOn (s : State) (q : Nat) (x : Sequencer) (n : Nat) (drv : BitVec 8) : State :=
  s.sqPlace q (({ x with lastPc := x.pc }.cycles n drv).after 5)

/-- A taken branch to t: two cycles (R460). -/
def State.sqJump (s : State) (q : Nat) (x : Sequencer) (t : Nat) : State :=
  s.sqPlace q (({ x with lastPc := x.pc }.cycles 2 x.gl).jump t)

/-- Free waiting cycles of the instruction at pc (log entry 44). -/
def State.sqWaited (s : State) (q top : Nat) : State :=
  let (w, s1) := s.draw
  s1.setSq q ((s1.sq q).cycles (w.toNat % top) (s1.sq q).gl)

/-! ## Issue -/

/-- Sequencer q is running a job and no earlier instruction waits (R446). -/
def State.sqReady (s : State) (q : Nat) : Bool :=
  decide (q < s.nSqs) && (s.sq q).job.isSome && decide ((s.sq q).waits = .none) && (decide ((s.sq q).st = .run) || decide ((s.sq q).st = .wait)) && !s.moduleStopped && !s.dpx.frozen

/-- The instruction at pc ends the job (R457, R461, R463, R468): it is the last that issued. -/
def State.sqKill (s : State) (q status : Nat) : State := (s.setSq q { s.sq q with lastPc := (s.sq q).pc }).endJob q status 255

/-- The instruction at pc waits (R446). -/
def State.sqWait (s : State) (q : Nat) (w : SqWait) : State := s.setSq q { s.sq q with st := .wait, waits := w }

/-- A field that must be 0, or that the instruction does not use, is not 0 (R456, R457). -/
def opBad (o : SqOp) (d a b : Bool) : Bool := decide (o.z ≠ 0) || (!d && decide (o.d ≠ 0)) || (!a && decide (o.a ≠ 0)) || (!b && decide (o.b ≠ 0))

/-- Only a target stands in IMM (R458). -/
def opTargetOnly (o : SqOp) : Bool := decide (o.imm.toNat < 2 ^ 13)
def opTarget (o : SqOp) : Nat := o.imm.toNat % 2 ^ 13
def opSext (o : SqOp) : Word := o.imm.signExtend 64

/-- The word at PC has CLASS 7 to 15 or an undefined OP: no row of the table is such an instruction (R457; log entry 14). -/
def Sequencer.undef (x : Sequencer) : Bool := (decodeArray 0 (Tab.get 0 x.imem x.pc)).isNone

/-- An instruction of sequencer q reaches issue: illegal, or act. -/
def State.sqIssue (s : State) (q : Nat) (illegal : Bool) (act : Sequencer → State) : State :=
  if !s.sqReady q then s else if illegal || (s.sq q).undef then s.sqKill q scSqIllop else act (s.sq q)

/-- A scalar result of one cycle. -/
def State.sqAlu (s : State) (q : Nat) (o : SqOp) (illegal : Bool) (f : Word → Word → Word) : Out :=
  .next (s.sqIssue q illegal (fun x => s.sqOn q (x.setSr o.d.toNat (f (x.sr o.a.toNat) (x.sr o.b.toNat))) 1 x.gl))

/-! ## Class 0 and class 1 -/

/-- CELL: the latched OR is readable lat cycles after issue (R394, R461); each compare of a checked pair that fails is an array fault (R401). -/
def execCell (q : Nat) (o : CellOp) (s : State) : Out :=
  .next (s.sqIssue q (CellOp.illegal o) (fun _ =>
    let r := s.cellCycle q o
    let x := r.st.sq q
    let y := { x with lastPc := x.pc }.cycles 1 r.drv
    let z := if o.ors = 0 then y else { y with orHas := true, orVal := r.or_, orLeft := x.lat - 1 }
    match r.differs with
    | [] => r.st.sqPlace q (z.after 5)
    | v :: vs => vs.foldl (fun t w => t.arrayReport q .compare w 0 0) ((r.st.setSq q z).arrayFail q .compare v 0 0 255)))

def execSadd (q : Nat) (o : SqOp) (s : State) : Out := s.sqAlu q o (opBad o true true true) (fun a b => a + b)
def execSsub (q : Nat) (o : SqOp) (s : State) : Out := s.sqAlu q o (opBad o true true true) (fun a b => a - b)
def execSand (q : Nat) (o : SqOp) (s : State) : Out := s.sqAlu q o (opBad o true true true) (fun a b => a &&& b)
def execSor (q : Nat) (o : SqOp) (s : State) : Out := s.sqAlu q o (opBad o true true true) (fun a b => a ||| b)
def execSxor (q : Nat) (o : SqOp) (s : State) : Out := s.sqAlu q o (opBad o true true true) (fun a b => a ^^^ b)
def execSshl (q : Nat) (o : SqOp) (s : State) : Out := s.sqAlu q o (opBad o true true true) (fun a b => a <<< (b.toNat % 64))
def execSshr (q : Nat) (o : SqOp) (s : State) : Out := s.sqAlu q o (opBad o true true true) (fun a b => a >>> (b.toNat % 64))
def execSaddi (q : Nat) (o : SqOp) (s : State) : Out := s.sqAlu q o (opBad o true true false) (fun a _ => a + opSext o)
def execSli (q : Nat) (o : SqOp) (s : State) : Out := s.sqAlu q o (opBad o true false false) (fun _ _ => opSext o)
def execSlih (q : Nat) (o : SqOp) (s : State) : Out :=
  .next (s.sqIssue q (opBad o true false false) (fun x => s.sqOn q (x.setSr o.d.toNat (putFld (x.sr o.d.toNat) 32 32 o.imm.toNat)) 1 x.gl))

/-! ## Class 2 -/

/-- A branch that is resolved at its issue (R460). -/
def State.sqBranch (s : State) (q : Nat) (o : SqOp) (x : Sequencer) (taken : Bool) : State :=
  if taken then s.sqJump q x (opTarget o) else s.sqOn q x 1 x.gl

def execSqBr (q : Nat) (o : SqOp) (s : State) : Out := .next (s.sqIssue q (opBad o false false false || !opTargetOnly o) (fun x => s.sqBranch q o x true))
def execBz (q : Nat) (o : SqOp) (s : State) : Out :=
  .next (s.sqIssue q (opBad o false true false || !opTargetOnly o) (fun x => s.sqBranch q o x (decide (x.sr o.a.toNat = 0))))
def execBnz (q : Nat) (o : SqOp) (s : State) : Out :=
  .next (s.sqIssue q (opBad o false true false || !opTargetOnly o) (fun x => s.sqBranch q o x (decide (x.sr o.a.toNat ≠ 0))))

/-- A branch on the OR result once it is readable; inv: BNOR (R461). -/
def State.sqOrGo (s : State) (q : Nat) (x : Sequencer) (inv : Bool) (t : Nat) : State :=
  if x.orVal != inv then s.sqJump q x t else s.sqOn q x 1 x.gl

def State.sqOrBranch (s : State) (q : Nat) (o : SqOp) (inv : Bool) : State :=
  s.sqIssue q (opBad o false false false || !opTargetOnly o || !(s.sq q).orHas) (fun x =>
    if 0 < x.orLeft then s.sqWait q (.bor inv (opTarget o)) else s.sqOrGo q x inv (opTarget o))

def execSqBor (q : Nat) (o : SqOp) (s : State) : Out := .next (s.sqOrBranch q o false)
def execSqBnor (q : Nat) (o : SqOp) (s : State) : Out := .next (s.sqOrBranch q o true)

/-- LOOP: a count of 0 skips the body as a taken branch does (R462, R463). -/
def execLoop (q : Nat) (o : SqOp) (s : State) : Out :=
  let n := o.d.toNat
  .next (s.sqIssue q (opBad o true true false || decide (4 ≤ n) || (if o.a = 0 then decide (o.imm.toNat / 2 ^ 13 % 8 ≠ 0) else !opTargetOnly o) || (s.sq q).loopOn n) (fun x =>
    let cnt := if o.a = 0 then o.imm.toNat / 2 ^ 16 else (x.sr o.a.toNat).toNat % 2 ^ 16
    let y := { x with lc := Tab.set 0 x.lc n cnt, ix := Tab.set 0 x.ix n 0 }
    if cnt = 0 then s.sqJump q y (opTarget o + 1)
    else
      let z := ({ y with lastPc := x.pc }.cycles 1 x.gl).after 5
      s.sqPlace q { z with lfirst := Tab.set 0 z.lfirst n (x.pc + 1), lend := Tab.set 0 z.lend n (opTarget o), lact := Tab.set false z.lact n true }))

/-! ## Class 3 -/

/-- The instances whose XFER waits for class MOULD at the Mould of chiplet a (12 R611, R612). -/
def State.mouldWaiters (s : State) (a : Nat) : List Nat :=
  (s.arr.seqs.filter (fun e => (match e.2.waits with | .tokens _ _ as => as.contains a | _ => false) && e.2.job.isSome)).map (fun e => e.2.inst)

/-- Start transfer idx of the job's table at ADDR + a (R465, R475, R477). -/
def State.startXfer (s : State) (q idx : Nat) (a : Nat) : State :=
  let x := s.sq q
  match x.job with
  | none => s
  | some j =>
    let end_ := fun (t : State) (st xe : Nat) => (t.setSq q { t.sq q with lastPc := x.pc }).endJob q st xe
    if j.nxt ≤ idx then end_ s scJobField idx
    else
      match s.agentGet 3 q x.inst (j.xtab + 64 * idx) 64 with
      | (t, .fault _) => end_ t scJobFault 255
      | (t, .poison _) => end_ t scMemPoison 255
      | (s1, .ok e _) =>
        if !xferOk e then end_ s1 scJobField idx
        else
          let vs := (s1.xVats q e).getD []
          let as := (List.range 4).filter (fun c => !(xMine vs c).isEmpty)
          match s1.admitMould x.inst (units4k (xBytes e)) as (fun c => units4k (xBytes e * xShare e vs (xTotal e) c / xTotal e)) s1.mouldWaiters with
          | none => s1.sqWait q (.tokens idx a as)
          | some s2 =>
            let y := s2.sq q
            s2.sqOn q { y with xfer := some { idx := idx, entry := e, addr := (xAddr e + a) % 2 ^ 64, moved := [], out := 0 } } 1 y.gl

/-- XFER. One that waits for tokens tries again as the command comes again; until it has issued, no other instruction does (R446, 12 R610). -/
def execXfer (q : Nat) (o : SqOp) (s : State) : Out :=
  .next (
    match (s.sq q).waits with
    | .tokens idx a _ => if s.moduleStopped || s.dpx.frozen || decide ((s.sq q).st ≠ .wait) then s else ((s.setSq q { s.sq q with waits := .none }).sqWaited q (2 ^ 48)).startXfer q idx a
    | _ =>
      s.sqIssue q (opBad o false true false) (fun x =>
        let idx := o.imm.toNat % 256
        let a := (x.sr o.a.toNat).toNat
        if x.xfer.isSome then s.sqWait q (.xfer idx a) else s.startXfer q idx a))

def execXwait (q : Nat) (o : SqOp) (s : State) : Out :=
  .next (s.sqIssue q (opBad o false false false) (fun x => if x.xfer.isSome then s.sqWait q .xwait else s.sqOn q x 1 x.gl))

def execLockw (q : Nat) (o : SqOp) (s : State) : Out :=
  let i := o.imm.toNat
  .next (s.sqIssue q (opBad o true false false) (fun x =>
    s.sqOn q { x with wins := Tab.set {} x.wins (o.d.toNat % 4) { en := true, phi := fld i 22 10, plo := fld i 12 10, rhi := fld i 6 6, rlo := fld i 0 6 } } 1 x.gl))

def execUlockw (q : Nat) (o : SqOp) (s : State) : Out :=
  .next (s.sqIssue q (opBad o true false false) (fun x =>
    s.sqOn q { x with wins := Tab.set {} x.wins (o.d.toNat % 4) { Tab.get {} x.wins (o.d.toNat % 4) with en := false } } 1 x.gl))

/-! ## Class 4 -/

/-- GLSET: the drive reaches the PEs with the latency of R394, counted from its own cycle. -/
def execGlset (q : Nat) (o : SqOp) (s : State) : Out :=
  .next (s.sqIssue q (opBad o true true false) (fun x =>
    let m : BitVec 8 := 1#8 <<< (o.d.toNat % 8)
    let g := if (x.sr o.a.toNat).getLsbD 0 then x.gl ||| m else x.gl &&& ~~~m
    s.sqOn q { x with gl := g } 1 g))

/-- ORRD once the result is readable. -/
def State.sqOrRead (s : State) (q : Nat) (x : Sequencer) (d : Nat) : State := s.sqOn q (x.setSr d (BitVec.ofNat 64 (b2n x.orVal))) 1 x.gl

def execOrrd (q : Nat) (o : SqOp) (s : State) : Out :=
  .next (s.sqIssue q (opBad o true false false || !(s.sq q).orHas) (fun x =>
    if 0 < x.orLeft then s.sqWait q (.orrd o.d.toNat) else s.sqOrRead q x o.d.toNat))

/-! ## Class 5 -/

/-- The address of a class-5 instruction: a bit of shared bit RAM or of the doorbell region in the instance's window (R468). -/
def State.sqBit (s : State) (x : Sequencer) (o : SqOp) : Option Nat :=
  let ba := (x.sr o.a.toNat + opSext o).toNat
  let b := bitAt ba
  let region := match b with
    | .shared _ | .qpBell _ | .qpComp _ | .pv _ | .phBell _ | .phComp _ => true
    | _ => false
  if region && s.bitReach 0 0 x.inst b then some ba else none

/-- SBSET, SBCLR: every write of an ended transfer has been performed (R469). -/
def State.sqBitWrite (s : State) (q : Nat) (o : SqOp) (v : Bool) : State :=
  s.sqIssue q (opBad o false true false) (fun x =>
    match s.sqBit x o with
    | none => s.sqKill q scSqBspace
    | some ba => let s1 := s.bitPut 0 (bitAt ba) v; s1.sqOn q (s1.sq q) 1 x.gl)

def execSbset (q : Nat) (o : SqOp) (s : State) : Out := .next (s.sqBitWrite q o true)
def execSbclr (q : Nat) (o : SqOp) (s : State) : Out := .next (s.sqBitWrite q o false)

/-- SBLD: the bit returns within 64 cycles (R458). -/
def execSbld (q : Nat) (o : SqOp) (s : State) : Out :=
  .next (s.sqIssue q (opBad o true true false) (fun x =>
    match s.sqBit x o with
    | none => s.sqKill q scSqBspace
    | some ba => s.setSq q { x with st := .run, waits := .sbld o.d.toNat ba }))

def execSbwait (q : Nat) (o : SqOp) (s : State) : Out :=
  .next (s.sqIssue q (opBad o false true false) (fun x =>
    match s.sqBit x o with
    | none => s.sqKill q scSqBspace
    | some ba => if s.bitGet 0 (bitAt ba) then s.sqOn q x 1 x.gl else s.sqWait q (.sbwait ba)))

/-! ## Class 6 -/

def execSqNop (q : Nat) (o : SqOp) (s : State) : Out := .next (s.sqIssue q (opBad o false false false) (fun x => s.sqOn q x 1 x.gl))

/-- DONE with no transfer in progress (R470). -/
def State.sqDone (s : State) (q : Nat) : State :=
  let x := s.sq q
  (s.setSq q ({ x with lastPc := x.pc }.cycles 1 x.gl)).endJob q scOk 255

def execDone (q : Nat) (o : SqOp) (s : State) : Out :=
  .next (s.sqIssue q (opBad o false false false) (fun x => if x.xfer.isSome then s.sqWait q .done else s.sqDone q))

def execNote (q : Nat) (o : SqOp) (s : State) : Out :=
  .next (s.sqIssue q (opBad o false false false) (fun x => let s1 := s.setPart x.ph { s.part x.ph with comp := true }; s1.sqOn q x 1 x.gl))

/-- CAPTURE: the capture edge follows as CAPTURE_EDGE; an address not aligned to 4 KiB fails as one that does not translate
(R435, R471; log entry 46). -/
def execCapture (q : Nat) (o : SqOp) (s : State) : Out :=
  .next (s.sqIssue q (opBad o false true false) (fun x =>
    if (s.cap q).isSome then s
    else
      let a := (x.sr o.a.toNat).toNat
      let y := ({ x with lastPc := x.pc }.cycles 1 x.gl).after 5
      let s1 := s.setSq q { y with pc := y.pc % 8192, st := .run, waits := .capture }
      if a % 4096 ≠ 0 then s1.endJob q scMouldFault 255
      else s1.setCap q (some { addr := a, by_ := 0, mb := 0, pre := .run, edge := false, todo := [], failed := false })))

/-! ## Events of a waiting instruction -/

/-- The OR result becomes readable and the waiting instruction issues (R461). -/
def execOrResultReady (q : Nat) (s : State) : Out :=
  let x := s.sq q
  let y := x.cycles x.orLeft x.gl
  .next (
    if s.moduleStopped || decide (x.st ≠ .wait) then s
    else
      match x.waits with
      | .bor inv t => s.sqOrGo q y inv t
      | .orrd d => s.sqOrRead q y d
      | _ => s)

/-- The polled bit reads 1 (R469). -/
def execSbwaitSatisfied (q : Nat) (s : State) : Out :=
  .next (
    match (s.sq q).waits with
    | .sbwait ba =>
      if s.moduleStopped || decide ((s.sq q).st ≠ .wait) || !s.bitGet 0 (bitAt ba) then s
      else let s1 := s.sqWaited q (2 ^ 48); s1.sqOn q (s1.sq q) 1 (s1.sq q).gl
    | _ => s)

/-- The bit read by SBLD returns: at most 64 cycles in all (R458). -/
def execSbldReturn (q : Nat) (s : State) : Out :=
  .next (
    match (s.sq q).waits with
    | .sbld d ba =>
      if s.moduleStopped || decide ((s.sq q).st ≠ .run) then s
      else
        let v := s.bitGet 0 (bitAt ba)
        let s1 := s.sqWaited q 64
        s1.sqOn q ((s1.sq q).setSr d (BitVec.ofNat 64 (b2n v))) 1 (s1.sq q).gl
    | _ => s)

/-- No transfer is in progress any more: what waited for that goes on (R465, R470). -/
def State.xferOver (s : State) (q : Nat) : State :=
  let s1 := s.setSq q { s.sq q with xfer := none }
  let go := s1.sqWaited q (2 ^ 48)
  match (s.sq q).waits with
  | .xwait => go.sqOn q (go.sq q) 1 (go.sq q).gl
  | .xfer idx a => (go.setSq q { go.sq q with waits := .none }).startXfer q idx a
  | .done => go.sqDone q
  | _ => s1

/-- The Mould of a chiplet has moved so many more records or plane words: the transfer ends, with OK or a status, or stands where a
window, a captured Vat, another transfer at that Mould or the count leaves it (R465, 08 R401, R410, R415, R419 to R421, R437). -/
def execMouldTransferEnd (q : Nat) (moved : MouldShare) (s : State) : Out :=
  let x := s.sq q
  .next (
    if s.moduleStopped || !(decide (x.st = .run) || decide (x.st = .wait)) then s
    else
      match x.xfer with
      | none => s
      | some t =>
        match s.xVats q t.entry with
        | none => s.endJob q scMouldRange t.idx
        | some vs =>
          if s.mouldBusy q moved.chip then s
          else
            match State.moveUnits q vs moved.chip (Nat.min moved.moved (xShare t.entry vs (xTotal t.entry) moved.chip - t.on moved.chip)) s t with
            | (s1, _, .ended st) => s1.endJob q st t.idx
            | (s1, t1, .differs v) => (s1.setSq q { s1.sq q with xfer := some t1 }).arrayFail q .compare v 0 0 255
            | (s1, t1, _) => if t1.over vs then s1.xferOver q else s1.setSq q { s1.sq q with xfer := some t1 })

end Sys2Proof.Machine
end

