-- ==== Sys2Proof/Machine/ArrayConfig.lean ====
section
/-! DEFINITION. Configuration images of the Curd Array (08 R423 to R430) and ARRAY_CONFIG (15 R725). -/

namespace Sys2Proof.Machine

open Host

/-! ## The image (R423, R425) -/

def imNvat (b : List Byte) : Nat := leAt b 6 2
def imInst (b : List Byte) : Nat := leAt b 0x0C 2
def imPdef (b : List Byte) (n : Nat) : Nat := leAt b (0x10 + n) 1
def imUsed (b : List Byte) (n : Nat) : Bool := bit (imPdef b n) 7
def imChk (b : List Byte) (n : Nat) : Bool := bit (imPdef b n) 6
def imChips (b : List Byte) (n : Nat) : Nat := imPdef b n % 16
/-- The offset of section k, and its fields. -/
def imOff (k : Nat) : Nat := 128 + 1600 * k
def imVat (b : List Byte) (k : Nat) : Nat := leAt b (imOff k) 1
def imChip (b : List Byte) (k : Nat) : Nat := leAt b (imOff k + 1) 1
def imPart (b : List Byte) (k : Nat) : Nat := leAt b (imOff k + 2) 1
def imCtl (b : List Byte) (k : Nat) : Nat := leAt b (imOff k + 3) 1
/-- The Vat that section k names, 64a + vv. -/
def imV (b : List Byte) (k : Nat) : Nat := 64 * imChip b k + imVat b k
def imSecs (b : List Byte) : List Nat := List.range (imNvat b)
/-- Row r of a drive field at offset o of section k. -/
def imRow (b : List Byte) (k o r : Nat) : Nat := leAt b (imOff k + o + 8 * r) 8

/-- LOC of a section, and of the header (15 R725). -/
def imLoc (b : List Byte) (k : Nat) : Nat := 256 * imChip b k + imVat b k
def locHeader : Nat := 0xFFFF

/-- The first section that fails a check. -/
def imFirst (b : List Byte) (bad : Nat → Bool) : Option Nat := ((imSecs b).find? bad).map (imLoc b)

/-- A check of the header, then of the sections in order. -/
def imCheck (b : List Byte) (header : Bool) (bad : Nat → Bool) : Option Nat := if header then some locHeader else imFirst b bad

/-- The chiplet of a sequencer, and the chiplets that it runs (R395, R424). -/
def seqChip (n : Nat) : Nat := n / 4
def runsChip (n chips a : Nat) : Bool := if chips = 0 then decide (seqChip n = a) else bit chips a

/-- CHIPS suits SQn: 0, or two to four chiplets of which SQn is SQ(4a) of the lowest (R395, R424). -/
def chipsOk (n chips : Nat) : Bool :=
  chips = 0 || (decide (n % 4 = 0) && bit chips (seqChip n) && (List.range (seqChip n)).all (fun a => !bit chips a) && decide (2 ≤ (List.range 4).countP (fun a => bit chips a)))

/-- The instance that holds a sequencer. -/
def State.sqOwner (s : State) (n : Nat) : Nat :=
  match s.inst.insts.find? (fun e => bit e.2.plan.sqMask n) with
  | some e => e.1
  | none => 0

/-- The section of a Vat, if the image names it. -/
def imFind (b : List Byte) (v : Nat) : Option Nat := (imSecs b).find? (fun k => decide (imV b k = v))

def imJoins (b : List Byte) (k : Nat) : Side → Bool
  | .north => bit (imCtl b k) 0
  | .east => bit (imCtl b k) 1
  | .south => bit (imCtl b k) 2
  | .west => bit (imCtl b k) 3
def facing : Side → Side
  | .north => .south
  | .east => .west
  | .south => .north
  | .west => .east

/-- Side d of section k is WRAP, or faces a Vat of the same partition that joins too (R390, R396, R400). -/
def imEdgeOk (b : List Byte) (k : Nat) (d : Side) : Bool :=
  !imJoins b k d ||
    (match (nextVat (imChk b (imPart b k)) (imV b k) d).bind (imFind b) with
    | some j => decide (imPart b j = imPart b k) && imJoins b j (facing d)
    | none => false)

/-- Each row bus and each column bus has one driver at most. -/
def imDrivesOk (b : List Byte) (k : Nat) : Bool :=
  let one := fun x : Nat => decide ((List.range 64).countP (fun c => bit x c) ≤ 1)
  (List.range 64).all (fun r => one (imRow b k 0x40 r)) && (List.range 64).all (fun c => decide ((List.range 64).countP (fun r => bit (imRow b k 0x240 r) c) ≤ 1))

def imUsedSqs (b : List Byte) : List Nat := (List.range 16).filter (imUsed b)

/-- Every Vat of a chiplet that a partition of several chiplets must list: the even ones when it is checked (R398). -/
def imWhole (b : List Byte) (n : Nat) : Bool :=
  (List.range 256).all (fun v => !bit (imChips b n) (v / 64) || (imChk b n && decide (v % 2 = 1)) || (match imFind b v with | some k => decide (imPart b k = n) | none => false))

/-- The checks 1 to 9 of R426, in order: the status and LOC of the first that fails. -/
def State.imageRules (s : State) (b : List Byte) : Option (Nat × Nat) :=
  let tag := fun (st : Nat) (o : Option Nat) => o.map (fun l => (st, l))
  let n := imNvat b
  let i := imInst b
  let us := imUsedSqs b
  let hdr := decide (b.length < 128) || decide (leAt b 0 4 ≠ 0x44525543) || decide (leAt b 4 2 ≠ 1) || decide (n = 0) || decide (256 < n)
    || decide (leAt b 8 4 ≠ 128 + 1600 * n) || decide (b.length ≠ 128 + 1600 * n) || !zeroAt b 0x0E 2 || !zeroAt b 0x20 32 || !zeroAt b 0x60 32
    || (List.range 16).any (fun k => decide (fld (imPdef b k) 4 2 ≠ 0))
  let own := fun v : Nat => decide (s.vatOwner v = i)
  tag scCfgFormat (imCheck b hdr (fun k => bit (imCtl b k) 7 || !zeroAt b (imOff k + 4) 28))
  <|> tag scCfgDigest (if sha256 (b.take 0x40 ++ List.replicate 32 0 ++ b.drop 0x60) = (b.drop 0x40).take 32 then none else some locHeader)
  <|> tag scCfgAbsent (imCheck b (us.any (fun q => decide (s.nSqs ≤ q) || (List.range 4).any (fun a => bit (imChips b q) a && decide (s.nVats ≤ 64 * a))))
        (fun k => decide (64 ≤ imVat b k) || decide (s.nVats ≤ 64 * imChip b k) || decide (s.nSqs ≤ imPart b k)))
  <|> tag scCfgOwner (imCheck b (us.any (fun q => decide (s.sqOwner q ≠ i)))
        (fun k => !own (imV b k) || decide (s.sqOwner (imPart b k) ≠ i) || (List.range k).any (fun j => decide (imV b j = imV b k))))
  <|> tag scCfgPartition (imCheck b (us.any (fun q => !chipsOk q (imChips b q) || !(imSecs b).any (fun k => decide (imPart b k = q))
          || (decide (imChips b q ≠ 0) && (!imWhole b q || us.any (fun p => decide (p ≠ q) && bit (imChips b q) (seqChip p))))))
        (fun k => !imUsed b (imPart b k) || !runsChip (imPart b k) (imChips b (imPart b k)) (imChip b k)))
  <|> tag scCfgCheckpair (imCheck b false (fun k => imChk b (imPart b k) && (decide (imVat b k % 2 = 1) || !own (imV b k + 1))))
  <|> tag scCfgGang (imCheck b false (fun k => decide (6 < fld (imCtl b k) 4 3)))
  <|> tag scCfgEdge (imCheck b false (fun k => !([Side.north, .east, .south, .west].all (imEdgeOk b k))))
  <|> tag scCfgMultidrive (imCheck b false (fun k => !imDrivesOk b k))

/-- Check 10 of R426 for the sections of the sequencers us: where it fails. -/
def State.imageBusy (s : State) (b : List Byte) (us : List Nat) : Option Nat :=
  imCheck b (us.any (fun q => (s.sq q).job.isSome))
    (fun k => us.contains (imPart b k) && (let x := s.vat (imV b k); decide (x.st = .captured) || (decide (x.st ≠ .uncfg) && (s.sq x.part).job.isSome)))

/-- The checks of R426, in order: the status and LOC of the first that fails. -/
def State.imageCheck (s : State) (b : List Byte) : Option (Nat × Nat) := s.imageRules b <|> (s.imageBusy b (imUsedSqs b)).map (fun l => (scCfgBusy, l))

/-! ## Applying an image (R428 to R430) -/

/-- The 64 rows of a drive field. -/
def imRows (b : List Byte) (k o : Nat) : Tab Word := Tab.setMany 0 [] 0 ((List.range 64).map (fun r => BitVec.ofNat 64 (imRow b k o r)))

/-- A Vat with section k applied: plane memory and the sticky marks stay. -/
def Vat.apply (x : Vat) (b : List Byte) (k : Nat) : Vat :=
  let c := imCtl b k
  { x with st := .ready, part := imPart b k, chk := imChk b (imPart b k), gang := fld c 4 3,
           joinN := bit c 0, joinE := bit c 1, joinS := bit c 2, joinW := bit c 3,
           res := Tab.setMany 0 [] 0 ((List.range 16).map (fun i => (b.getD (imOff k + 0x20 + 2 * i) 0))),
           car := Tab.setMany 0 [] 0 ((List.range 16).map (fun i => (b.getD (imOff k + 0x21 + 2 * i) 0))),
           rdrv := imRows b k 0x40, cdrv := imRows b k 0x240, gdrv := imRows b k 0x440, pe := {},
           planes := if x.clearing then [] else x.planes, clearing := false }

/-- The Vats of section k: both of a checked pair (R399). -/
def imVats (b : List Byte) (k : Nat) : List Nat := if imChk b (imPart b k) then [imV b k, imV b k + 1] else [imV b k]

/-- The Vats of the image's partition on sequencer q, as a handle may name them: with or without the twins (R590). -/
def imVatsOf (b : List Byte) (q : Nat) : List Nat := (imSecs b).filter (fun k => decide (imPart b k = q)) |>.map (imV b)
def imHandle (b : List Byte) (q : Nat) (x : PartH) : Bool :=
  let vs := imVatsOf b q
  let all := if imChk b q then vs.flatMap (fun v => [v, v + 1]) else vs
  x.planned && decide (x.sq = q) && decide (x.owner.getD 0 = imInst b) && ((x.vats.all vs.contains && vs.all x.vats.contains) || (x.vats.all all.contains && all.all x.vats.contains))

/-- The handles whose partition the image defines on sequencer q. -/
def State.imHandles (s : State) (b : List Byte) (q : Nat) : List Nat := (s.arr.parts.filter (fun e => imHandle b q e.2)).map (·.1)

/-- Sequencer q of the image, stopped or ready for a job; the partition bound to it is the present one when the image is its
own, else the first handle whose image this is. -/
def State.imageSq (s : State) (b : List Byte) (q : Nat) (ok : Bool) : State :=
  let hs := s.imHandles b q
  let x := s.sq q
  let ph := if hs.contains x.ph then x.ph else hs.headD x.ph
  let s1 := hs.foldl (fun t h => t.setPart h { t.part h with image := b }) s
  let s2 := s1.setSq q { x with st := if ok then .idle else .stopped, used := true, chk := imChk b q, chips := BitVec.ofNat 4 (imChips b q), ph := ph, inst := imInst b, ran := 0 }
  if imChips b q = 0 then s2
  else (List.range 16).foldl (fun t p => if decide (p ≠ q) && bit (imChips b q) (seqChip p) then t.setSq p { t.sq p with st := .unused, used := false } else t) s2

/-- A Vat that is in no partition, and in no pair (log entry 48). -/
def Vat.dropped (x : Vat) : Vat := { x with part := 16, chk := false }

/-- The sequencers whose partition of several chiplets an image breaks up, as it takes Vats of them for another: each partition of several
chiplets has every Vat of its chiplets (R395, R397; log entry 48). -/
def State.brokenSqs (s : State) (us named : List Nat) : List Nat :=
  (List.range 16).filter (fun n => (s.sq n).used && decide ((s.sq n).chips ≠ 0) && !us.contains n && (s.partVats n).any named.contains)

/-- The other Vat of a pair. -/
def twinOf (v : Nat) : Nat := if v % 2 = 0 then v + 1 else v - 1

/-- The Vats named are taken for the sequencers us: a partition of several chiplets that loses Vats is broken up, the Vats that us held before and that are not
named are in none, and so is one whose twin alone is taken, since a pair holds one configuration (R395 to R399; log entry 48). -/
def State.takeVats (s : State) (us named : List Nat) : State :=
  let gone := s.brokenSqs us named
  let s0 := gone.foldl (fun t n => t.setSq n { t.sq n with st := .unused, used := false, chips := 0 }) s
  (List.range 256).foldl (fun t v =>
    let x := s.vat v
    if decide (x.st ≠ .uncfg) && !named.contains v && (us.contains x.part || gone.contains x.part || (x.chk && named.contains (twinOf v))) then t.setVat v (t.vat v).dropped else t) s0

/-- Apply the sections of an image for the sequencers us: a hardware fault at section f leaves it and the later ones LOADING (R428, R429). -/
def State.applyFor (s : State) (b : List Byte) (us : List Nat) (f : Option Nat) : State :=
  let ks := (imSecs b).filter (fun k => us.contains (imPart b k))
  let s1 := s.takeVats us (ks.flatMap (imVats b))
  let s2 := ks.foldl (fun t k => (imVats b k).foldl (fun u v =>
    let x := (u.vat v).apply b k
    u.setVat v (match f with
      | some m => if m ≤ k then { (u.vat v) with st := .loading, part := x.part, chk := x.chk, pe := {}, planes := x.planes, clearing := false } else x
      | none => x)) t) s1
  us.foldl (fun t q => t.imageSq b q f.isNone) s2

/-- Apply a whole image. -/
def State.applyImage (s : State) (b : List Byte) (f : Option Nat) : State := s.applyFor b (imUsedSqs b) f

/-- The record of a hardware fault at section k (R429). -/
def State.configFault (s : State) (b : List Byte) (k : Nat) : State :=
  s.report (624 + imV b k) { pay clUE with unit := 3, msub := BitVec.ofNat 8 (imPart b k), ins := BitVec.ofNat 13 (imInst b) }

/-- ARRAY_CONFIG; faultAt: a hardware fault while that section is applied (R426 to R429). LOC of a load without error is a
free value (log entry 49). -/
def execArrayConfig (m : Nat) (faultAt : Option Nat) (s : State) : Out :=
  .next (
    if !s.runs m 0x0401 then s
    else
      let a := s.mbP m 0 8
      let n := s.mbP m 8 4
      if nearTop < a + n then s.mbDone m scAddrFault (leBytes 2 locHeader)
      else
        match s.agentGet 0x0A 0 0 a n with
        | (t, .fault _) => t.mbDone m scAddrFault (leBytes 2 locHeader)
        | (t, .poison _) => t.mbDone m scMemPoison (leBytes 2 locHeader)
        | (s1, .ok b _) =>
          match s1.imageCheck b with
          | some (st, loc) => s1.mbDone m st (leBytes 2 loc)
          | none =>
            match faultAt.filter (fun k => decide (k < imNvat b)) with
            | some k => ((s1.applyImage b (some k)).configFault b k).mbDone m scCfgFault (leBytes 2 (imLoc b k))
            | none => let (w, s2) := s1.draw; (s2.applyImage b none).mbDone m scOk (leBytes 2 w.toNat))

end Sys2Proof.Machine
end

