-- ==== Sys2Proof/Machine/ArrayJobs.lean ====
section
/-! DEFINITION. Array jobs, their faults and restarts (09 R472 to R486), captures (08 R435 to R441), preemption and restore (09 R487 to
R492), and the clearing of Vats (08 R433). -/

namespace Sys2Proof.Machine

open Host

/-! ## Taking a job -/

/-- The descriptor keeps R474, but for its partition handle. -/
def arunOk (d : List Byte) : Bool :=
  let f := dF d 2 1
  decide (f < 8) && decide (dF d 3 1 ≤ 3) && decide (dF d 4 2 < 8192) && (bit f 2 || (decide (1 ≤ dF d 6 2) && decide (dF d 6 2 ≤ 8192)))
  && decide (dF d 8 8 % 8 = 0) && (decide (dF d 0x18 2 = 0) || decide (dF d 0x10 8 % 64 = 0)) && decide (dF d 0x18 2 ≤ 256) && decide (dF d 0x1C 4 = 0)

/-- The job of a descriptor. -/
def arunJob (q sqhead gen : Nat) (d : List Byte) : ArrJob :=
  { qp := q, sqhead := sqhead, tag := dTag d, cq := dCq d, cflags := dFlags d, gen := gen, ph := dF d 0 2, flags := dF d 2 1, restarts := dF d 3 1,
    entry := dF d 4 2, plen := dF d 6 2, prog := dF d 8 8, xtab := dF d 0x10 8, nxt := dF d 0x18 2, limit := dF d 0x1A 2,
    p0 := BitVec.ofNat 64 (dF d 0x20 8), p1 := BitVec.ofNat 64 (dF d 0x28 8) }

/-- The sequencer at the beginning of an attempt (R478): the instruction memory stays, and within a job the record of its last OR result, which R478 does not name
(R461). -/
def Sequencer.begin (x : Sequencer) (j : ArrJob) (att : Nat) : Sequencer :=
  { x with st := .progload, pc := j.entry, lastPc := j.entry, att := att, cyc := 0, s := Tab.set 0 (Tab.set 0 [] 1 j.p0) 2 j.p1, lc := [], ix := [], lfirst := [],
           lend := [], lact := [], wins := [], gl := 0, glHist := [], orHas := x.orHas && decide (att ≠ 0), orVal := x.orVal && decide (att ≠ 0), orLeft := 0, waits := .none, xfer := none, nstored := 0 }

/-- An array job descriptor is taken (R474 to R476): refused, not ready, or its program load begins. A sequencer that a configuration fault
has left stopped takes none (08 R429). -/
def execArun (qp : Nat) (s : State) : Out :=
  let s := s.skipRefused qp
  .next (
    match s.headIs qp 0x40 with
    | none => s
    | some d =>
      let ph := (s.qp qp).ph
      let p := s.part ph
      let x := s.sq p.sq
      let i := s.qpOwner qp
      let ends := fun st : Nat =>
        let t := s.headOn qp
        t.deliverCpl i qp (dCq d) { bytes := cplBytes (dTag d) qp st (t.qp qp).head 0x40 (refusedExtra d), flags := dFlags d % 4 + 4 * b2n (bit (dF d 2 1) 1), lidx := none }
      if !arunOk d || decide (dF d 0 2 ≠ ph) then ends scJobField
      else if p.kept.job.isSome || (decide (x.ph = ph) && x.job.isSome) then s
      else if !x.used then ends scArrayNotready
      else if x.ph ≠ ph || (match s.cap p.sq with | some c => decide (c.by_ = 2) | none => false) then s
      else if (s.partVats p.sq).isEmpty || (s.partVats p.sq).any (fun v => decide ((s.vat v).st ≠ .ready)) || !p.vats.all (fun v => decide ((s.vat v).st = .ready)) then ends scArrayNotready
      else
        if x.st = .stopped then s
        else
        let t := s.headOn qp
        let j := arunJob qp (t.qp qp).head (s.ins i).gen d
        t.setSq p.sq { x.begin j 0 with job := some j, epochs := 0, inst := i })

/-- The program is loaded and the PE registers are set (R475, R478, R479). -/
def execProgloadComplete (q : Nat) (s : State) : Out :=
  let x := s.sq q
  .next (
    match x.job with
    | none => s
    | some j =>
      if x.st ≠ .progload || s.moduleStopped then s
      else
        let go := fun (t : State) (im : Tab Word) =>
          let t1 := (t.partVats q).foldl (fun u v => u.setVat v { u.vat v with pe := .start }) t
          t1.setSq q { t1.sq q with st := .run, imem := im }
        if bit j.flags 2 then go s x.imem
        else
          match s.agentGet 3 q x.inst j.prog (8 * j.plen) with
          | (t, .fault _) => t.endJob q scJobFault 255
          | (t, .poison _) => t.endJob q scMemPoison 255
          | (t, .ok bs _) => go t (Tab.setMany 0 x.imem 0 ((List.range j.plen).map (fun k => BitVec.ofNat 64 (leAt bs (8 * k) 8)))))

/-! ## Faults, restart and the epoch limit -/

/-- A fault of R442 or R447: a corrected error is only shown; an array fault ends the attempt in progress, by the transfer in
progress when the Mould has read the word. -/
def execArrayFault (q : Nat) (k : ArrFault) (vat plane row : Nat) (s : State) : Out :=
  .next (
    if s.nSqs ≤ q || (decide (k ≠ .seqMemory) && decide (k ≠ .seqCorrected) && decide (s.nVats ≤ vat)) then s
    else if k = .singleBit || k = .seqCorrected then s.arrayReport q k vat (plane % 1024) (row % 64)
    else s.arrayFail q k vat (plane % 1024) (row % 64) (if k = .mouldDouble then (match (s.sq q).xfer with | some t => t.idx | none => 255) else 255))

/-- The ended attempt's transfer has stopped and the job begins again (R484). -/
def execArrayJobRestart (q : Nat) (s : State) : Out :=
  let x := s.sq q
  .next (
    match x.job with
    | none => s
    | some j => if x.st ≠ .stopped || s.moduleStopped then s else s.setSq q (x.begin j (x.att + 1)))

/-- The epoch count has reached LIMIT (R482). -/
def State.limitDue (s : State) (q : Nat) : Bool :=
  let x := s.sq q
  match x.job with
  | none => false
  | some j => decide (j.limit ≠ 0) && decide (j.limit ≤ x.epochs) && (x.st = .progload || x.st = .run || x.st = .wait) && !s.moduleStopped
def State.limitEnd (s : State) (q : Nat) : State :=
  (s.setCap q (match s.cap q with | some c => if c.by_ = 0 then none else some c | none => none)).endJob q scArrayTimeout 255
def execArrayJobLimit (q : Nat) (s : State) : Out := .next (if s.limitDue q then s.limitEnd q else s)

/-! ## The capture image (08 R438, 09 R492) -/

/-- The sequencer state block; pre: its state just before the capture edge. -/
def Sequencer.block (x : Sequencer) (pre : SqSt) : List Byte :=
  let j := x.job.getD {}
  let has := fun n : Nat => if x.job.isSome then n else 0
  let win := fun k : Nat => let w := Tab.get {} x.wins k; w.rlo % 64 + w.rhi % 64 * 2 ^ 6 + w.plo % 1024 * 2 ^ 12 + w.phi % 1024 * 2 ^ 22 + b2n w.en * 2 ^ 32
  let lact := ((List.range 4).map (fun k => b2n (x.loopOn k) * 2 ^ k)).foldl (· + ·) 0
  let ctl := lact * 2 ^ 38 + x.orLeft % 16 * 2 ^ 34 + b2n x.orHas * 2 ^ 33 + b2n x.orVal * 2 ^ 32 + x.gl.toNat * 2 ^ 24 + x.att % 4 * 2 ^ 20 + pre.code * 2 ^ 16 + x.pc % 8192
  (List.range 8192).flatMap (fun k => leBytes 8 (Tab.get 0 x.imem k).toNat)
    ++ (List.range 16).flatMap (fun k => leBytes 8 (x.sr k).toNat)
    ++ (List.range 4).flatMap (fun k => leBytes 2 (Tab.get 0 x.lc k))
    ++ (List.range 4).flatMap (fun k => leBytes 2 (Tab.get 0 x.ix k))
    ++ (List.range 4).flatMap (fun k => leBytes 4 (Tab.get 0 x.lfirst k % 8192 + Tab.get 0 x.lend k % 8192 * 2 ^ 16))
    ++ (List.range 4).flatMap (fun k => leBytes 8 (win k))
    ++ leBytes 8 ctl
    ++ leBytes 4 (has x.epochs) ++ leBytes 4 (has x.nstored)
    ++ leBytes 8 ((match x.xfer with | some t => t.idx % 256 | none => 255) + has j.nxt * 2 ^ 16 + has j.limit * 2 ^ 32)
    ++ leBytes 8 (match x.xfer with | some t => t.addr | none => 0)
    ++ leBytes 8 (match x.xfer with | some t => t.total | none => 0)
    ++ leBytes 8 (has (j.ph + j.flags * 2 ^ 16 + j.restarts * 2 ^ 24 + j.entry * 2 ^ 32 + j.plen * 2 ^ 48))
    ++ leBytes 8 (has j.prog) ++ leBytes 8 (has j.xtab)

def seqBlockLen : Nat := 65792
def vatBlockLen : Nat := 0x81000

/-- The 64 rows of a PE register. -/
def peRows (t : Tab Word) : List Byte := (List.range 64).flatMap (fun r => leBytes 8 (Tab.get 0 t r).toNat)

/-- The block of a Vat, with its VSTAT as at the capture edge. -/
def State.vatBlock (s : State) (v vstat : Nat) : List Byte :=
  let x := s.vat v
  (List.range 65536).flatMap (fun k => leBytes 8 (Tab.get 0 x.planes k).toNat)
    ++ peRows x.pe.a ++ peRows x.pe.c ++ peRows x.pe.m ++ peRows x.pe.x ++ peRows x.pe.q ++ leBytes 8 vstat ++ List.replicate 0x5F8 0

/-- The sequencer that a block describes: what the image does not hold comes from the one kept; vs: the Vats of its transfer (R490,
R492). The instruction that waited waits again: what it waits for stays with the handle, which also tells whether XIDX 0xFF is a transfer of entry 255 (R474). -/
def Sequencer.restore (x : Sequencer) (vs : List Nat) (b : List Byte) : Sequencer :=
  let w := fun o : Nat => leAt b o 8
  let ctl := w 0x100C0
  let xi := w 0x100D0
  let jw := w 0x100E8
  let tab := fun (f : Nat → Nat) (n : Nat) => (List.range n).foldl (fun (t : Tab Nat) k => Tab.set 0 t k (f k)) []
  { x with
    st := (match fld ctl 16 4 with | 1 => .idle | 2 => .progload | 3 => .run | 4 => .wait | 5 => .captured | 6 => .stopped | _ => .unused),
    pc := fld ctl 0 13, att := fld ctl 20 2, gl := BitVec.ofNat 8 (fld ctl 24 8), orVal := bit ctl 32, orHas := bit ctl 33, orLeft := fld ctl 34 4,
    lact := (List.range 4).foldl (fun (t : Tab Bool) k => Tab.set false t k (bit ctl (38 + k))) [],
    imem := Tab.setMany 0 [] 0 ((List.range 8192).map (fun k => BitVec.ofNat 64 (w (8 * k)))),
    s := Tab.setMany 0 [] 1 ((List.range 15).map (fun k => BitVec.ofNat 64 (w (0x10008 + 8 * k)))),
    lc := tab (fun k => leAt b (0x10080 + 2 * k) 2) 4, ix := tab (fun k => leAt b (0x10088 + 2 * k) 2) 4,
    lfirst := tab (fun k => leAt b (0x10090 + 4 * k) 2 % 8192) 4, lend := tab (fun k => leAt b (0x10092 + 4 * k) 2 % 8192) 4,
    wins := (List.range 4).foldl (fun (t : Tab LockWin) k => let v := w (0x100A0 + 8 * k)
      Tab.set {} t k { rlo := fld v 0 6, rhi := fld v 6 6, plo := fld v 12 10, phi := fld v 22 10, en := bit v 32 }) [],
    epochs := leAt b 0x100C8 4, nstored := leAt b 0x100CC 4, waits := if fld ctl 16 4 = 4 then x.waits else .none,
    xfer := (x.xfer.filter (fun t => decide (fld xi 0 8 ≠ 255) || decide (t.idx = 255))).map (fun t => { t.resume vs (w 0x100E0) with idx := fld xi 0 8, addr := w 0x100D8 }),
    job := x.job.map (fun j => { j with nxt := fld xi 16 16, limit := fld xi 32 16, ph := fld jw 0 16, flags := fld jw 16 8, restarts := fld jw 24 8, entry := fld jw 32 16, plen := fld jw 48 16,
                                        prog := w 0x100F0, xtab := w 0x100F8 }),
    glHist := List.replicate 14 (BitVec.ofNat 8 (fld ctl 24 8)) }

/-- A Vat restored from its block: plane memory and the PE registers. -/
def Vat.restore (x : Vat) (b : List Byte) : Vat :=
  let rows := fun o : Nat => Tab.setMany 0 [] 0 ((List.range 64).map (fun r => BitVec.ofNat 64 (leAt b (o + 8 * r) 8)))
  { x with planes := Tab.setMany 0 [] 0 ((List.range 65536).map (fun k => BitVec.ofNat 64 (leAt b (8 * k) 8))),
           pe := { a := rows 0x80000, c := rows 0x80200, m := rows 0x80400, x := rows 0x80600, q := rows 0x80800 } }

/-! ## CAPTURE -/

/-- Write part of a capture image: the instance's addresses for the array instruction, physical ones else (08 R419, R435, R590). -/
def State.capWrite (s : State) (q : Nat) (c : Capture) (off : Nat) (bs : List Byte) : State × AgEnd :=
  s.agentStore 0x04 (seqChip q) (if c.by_ = 0 then (s.sq q).inst else 0) (c.addr + off) bs

/-- The readout of a capture has ended with every block written (R439, R471, R488). -/
def State.capDone (s : State) (q : Nat) (c : Capture) : State :=
  let x := s.sq q
  if c.by_ = 0 then (s.setCap q none).endJob q scSqCaptured 255
  else if c.by_ = 1 then ((s.setCap q none).setSq q { x with st := if x.job.isSome && decide (c.pre ≠ .stopped) then .captured else c.rest }).mbDone c.mb scOk []
  else
    let s1 := s.setPart x.ph { s.part x.ph with saved := true, saveValid := !c.failed, kept := x }
    (s1.setSq q { x with st := .idle, job := none, xfer := none, waits := .none }).setCap q (some c)

/-- The address of the capture image has failed (R441, R471): the Vats stay as they are. -/
def State.capFail (s : State) (q : Nat) (c : Capture) (status : Nat) : State :=
  if c.by_ = 0 then (s.setCap q none).endJob q status 255
  else if c.by_ = 1 then ((s.setCap q none).setSq q { s.sq q with st := if c.pre = .stopped then .stopped else (s.sq q).st }).mbDone c.mb status []
  else
    let d := { c with failed := true, todo := [] }
    (c.todo.foldl State.vatReady s).capDone q d

/-- The capture edge (R436, R489): not while a program is loaded or an SBLD is pending. -/
def execCaptureEdge (q : Nat) (s : State) : Out :=
  let x := s.sq q
  .next (
    match s.cap q with
    | none => s
    | some c =>
      let pending := match x.waits with | .sbld _ _ => true | _ => false
      if c.edge || s.moduleStopped || pending || decide (x.st = .progload) || decide (x.st = .unused) then s
      else if c.failed then (s.setCap q none).mbDone c.mb scSquashed []
      else
        let vs := (s.partVats q).filter (fun v => decide ((s.vat v).st = .ready))
        let s1 := vs.foldl (fun t v => t.setVat v { t.vat v with st := .captured }) s
        let d : Capture := { c with edge := true, pre := x.st, todo := vs.filter (fun v => !s.isTwin v), vstats := vs.foldl (fun (m : Tab Nat) v => Tab.set 0 m v (s1.vstat v)) [] }
        let s2 := (s1.setSq q { x with st := .captured }).setCap q (some d)
        match s2.capWrite q d 0 (x.block x.st) with
        | (s3, .ok) => if d.todo.isEmpty then s3.capDone q d else s3
        | (s3, .fault _) => s3.capFail q d scMouldFault
        | (s3, .poison _) => s3.capFail q d scMemPoison)

/-- The readout of a checked pair has failed its compare (R440, R444, 09 R491). -/
def State.capCompare (s : State) (q v : Nat) (c : Capture) : State :=
  let s1 := s.arrayReport q .compare v 0 0
  if c.by_ = 2 then
    let d := { c with failed := true, todo := c.todo.filter (· ≠ v) }
    let s2 := (s1.vatReady v).setCap q (some d)
    if d.todo.isEmpty then s2.capDone q d else s2
  else s1.capBroken q c

/-- Both Vats of a pair hold the same plane words and PE registers (R440). -/
def State.pairSame (s : State) (v : Nat) : Bool := decide ((s.vat v).planes = (s.vat (v + 1)).planes) && decide ((s.vat v).pe = (s.vat (v + 1)).pe)

/-- A Vat's block has been written; same: the readout has compared the pair equal in what the state does not show (R438 to R441). -/
def execCaptureReadoutComplete (vat : Nat) (same : Bool) (s : State) : Out :=
  let q := (s.vat vat).part
  .next (
    match s.cap q with
    | none => s
    | some c =>
      if !c.edge || !c.todo.contains vat || s.moduleStopped then s
      else if (s.vat vat).chk && !(same && s.pairSame vat) then s.capCompare q vat c
      else
        match s.capWrite q c (seqBlockLen + vatBlockLen * (s.partOrder q).idxOf vat) (s.vatBlock vat (Tab.get 0 c.vstats vat)) with
        | (s1, .fault _) => s1.capFail q c scMouldFault
        | (s1, .poison _) => s1.capFail q c scMemPoison
        | (s1, .ok) =>
          let d := { c with todo := c.todo.filter (· ≠ vat) }
          let s2 := (s1.vatReady vat).setCap q (some d)
          if d.todo.isEmpty then s2.capDone q d else s2)

/-- ARRAY_CAPTURE (15 R725, R435): it waits while its partition is not on its sequencer, as while that is unused (R397), or a capture is in progress. -/
def execArrayCapture (m : Nat) (s : State) : Out :=
  .next (
    if !s.runs m 0x0402 then s
    else
      let ph := s.mbP m 0 2
      let p := s.part ph
      if !p.planned then s.mbDone m scMbField []
      else if (s.sq p.sq).ph ≠ ph || (s.sq p.sq).st = .unused || (s.cap p.sq).isSome || (s.partVats p.sq).any (fun v => decide ((s.vat v).st = .captured)) then s
      else s.setCap p.sq (some { addr := s.mbP m 8 8, by_ := 1, mb := m, pre := .idle, edge := false, todo := [], failed := false }))

/-- ARRAY_RELEASE: the Vats that a failed capture left CAPTURED are READY again, the sequencer stopped (R441). -/
def execArrayRelease (m : Nat) (s : State) : Out :=
  .next (
    if !s.runs m 0x0403 then s
    else
      let ph := s.mbP m 0 2
      let q := (s.part ph).sq
      if (s.cap q).isSome then s
      else if !(s.part ph).planned || decide ((s.sq q).ph ≠ ph) then s.mbDone m scOk []
      else
        let vs := (s.partVats q).filter (fun v => decide ((s.vat v).st = .captured))
        let s1 := vs.foldl (fun t v => t.setVat v { t.vat v with st := .ready }) s
        let x := s1.sq q
        (if x.st = .captured && x.job.isNone then s1.setSq q { x with st := .idle } else s1).mbDone m scOk [])

/-! ## Clearing (08 R433) -/

/-- A cleared Vat: its sticky marks and its collision count stay. -/
def Vat.cleared (x : Vat) : Vat :=
  { collcnt := x.collcnt, coll := x.coll, cmpf := x.cmpf, eccu := x.eccu, eccc := x.eccc }

/-- The Vats of a chiplet that were to be cleared are. -/
def execVatClearComplete (chip : Nat) (s : State) : Out :=
  .next (s.live ((rangeFrom (64 * chip) 64).foldl (fun t v => if (t.vat v).clearing then t.setVat v (t.vat v).cleared else t) s))

/-! ## Preemption (09 R487 to R491, 12 R613) -/

/-- A partition has a job queued or running. -/
def State.hasArrWork (s : State) (p : Nat) : Bool :=
  let q := (s.part p).sq
  (s.part p).kept.job.isSome || (decide ((s.sq q).ph = p) && (s.sq q).job.isSome)
  || s.inst.qps.any (fun e => e.2.made && decide (e.2.kind = 1) && decide (e.2.ph = p) && decide (e.2.head ≠ e.2.tail) && !e.2.err)

/-- The partition that runs next on sequencer q (12 R613). -/
def State.nextPart (s : State) (q : Nat) : Option Nat :=
  let cur := (s.sq q).ph
  let cs := ((s.arr.parts.filter (fun e => e.2.planned && decide (e.2.sq = q) && s.hasArrWork e.1)).map (·.1)).filter (· ≠ cur)
  (cs.find? (cur < ·)) <|> cs.head?

/-- At an epoch boundary the scheduler begins a switch of sequencer q to partition ph: the turn of the present one is over, or
it has no job (R487, R488, 12 R613). -/
def State.curBound (s : State) (q : Nat) : Bool := (s.part (s.sq q).ph).planned && decide ((s.part (s.sq q).ph).sq = q)
def State.switchDue (s : State) (q : Nat) : Bool :=
  let x := s.sq q
  let wt := Nat.max 1 (s.ins ((s.part x.ph).owner.getD 0)).arrWt
  x.used && s.time.atEpoch && !s.moduleStopped && (s.cap q).isNone && !(s.hasArrWork x.ph && s.curBound q && decide (x.ran < wt))
def State.beginSwitch (s : State) (q ph : Nat) : State :=
  let x := s.sq q
  s.setCap q (some { addr := (s.part x.ph).save, by_ := 2, mb := ph, pre := x.st, edge := !s.curBound q, todo := [], failed := false })
def execPartitionSwitch (q ph : Nat) (s : State) : Out := .next (if s.switchDue q && decide (s.nextPart q = some ph) then s.beginSwitch q ph else s)

/-- Reapply the last configuration image of one partition on sequencer q, checked under R426 (R488, R491): true unless it is refused or a hardware fault at section f of
the partition ends it with CFG_FAULT. A refused one leaves the sequencer without Vats; a partition that no image has configured has none to reapply (log entry 165). -/
def State.reapply (s : State) (q ph : Nat) (f : Option Nat) : State × Bool :=
  let b := (s.part ph).image
  let bind := fun (t : State) (st : SqSt) => t.setSq q { t.sq q with st := st, ph := ph, inst := (s.part ph).owner.getD 0, ran := 0 }
  if b.isEmpty || (s.imageRules b).isSome then
    let t := s.takeVats [q] []
    (bind (t.setSq q { t.sq q with chk := false, chips := 0 }) .idle, b.isEmpty)
  else
    match f.filter (fun k => decide (k < imNvat b) && decide (imPart b k = q)) with
    | some k => (bind ((s.applyFor b [q] (some k)).configFault b k) .stopped, false)
    | none => (bind (s.applyFor b [q] none) .idle, true)

/-- Write the Vats of sequencer q from a capture image at a. -/
def State.loadVats (s : State) (q a : Nat) : Option State :=
  (s.partOrder q).zipIdx.foldl (fun t e =>
    match t with
    | none => none
    | some u =>
      match u.agentRead 0 (a + seqBlockLen + vatBlockLen * e.2) vatBlockLen with
      | .ok b _ =>
        let u1 := u.setVat e.1 ((u.vat e.1).restore b)
        some (if (u.vat e.1).chk then u1.setVat (e.1 + 1) ((u1.vat (e.1 + 1)).restore b) else u1)
      | _ => none) (some s)

/-- The job that a partition had, as k keeps it, on sequencer q. -/
def State.giveJob (s : State) (q : Nat) (k : Sequencer) : State :=
  s.setSq q { s.sq q with job := k.job, att := k.att, epochs := k.epochs, lastPc := k.lastPc, s := k.s, nstored := k.nstored, orHas := k.orHas, orVal := k.orVal }

/-- The reapplication has failed: the job completes with ARRAY_FAULT, and the sequencer stays as it is left (R491). -/
def State.jobLost (s : State) (q : Nat) (k : Sequencer) : State :=
  let t := (s.giveJob q k).endJob q scArrayFault 255
  t.setSq q { t.sq q with st := (s.sq q).st }

/-- A save area that cannot be used: the Vats are cleared and configured again, and the job restarts or completes (R491). -/
def State.restoreInvalid (s : State) (q ph : Nat) (k : Sequencer) (f : Option Nat) : State :=
  let b := (s.part ph).image
  let vs := ((imSecs b).filter (fun n => decide (imPart b n = q))).flatMap (imVats b)
  match (vs.foldl (fun t v => t.setVat v (t.vat v).cleared) s).reapply q ph f with
  | (t, false) => t.jobLost q k
  | (t, true) => (t.giveJob q k).endAttempt q 255

/-- The incoming partition is restored and its sequencer resumes at its captured PC (R488, R490, R491); from 16 on n names also the section at which a hardware fault ends
the reapplication of its image (08 R429). It waits while a job of another sequencer holds Vats of the image (08 R426). -/
def execPartitionRestore (n : Nat) (s : State) : Out :=
  let q := n % 16
  let faultAt := if n < 16 then none else some (n / 16 - 1)
  .next (
    match s.cap q with
    | none => s
    | some c =>
      let ph := c.mb
      let p := s.part ph
      if c.by_ ≠ 2 || !c.edge || !c.todo.isEmpty || s.moduleStopped || (!p.image.isEmpty && (s.imageRules p.image).isNone && (s.imageBusy p.image [q]).isSome) then s
      else
        let out := s.part (s.sq q).ph
        let shared := (s.partVats q).filter (fun v => p.vats.contains v && decide (out.owner ≠ p.owner))
        let s1 := (shared.foldl (fun t v => t.setVat v { (t.vat v).cleared with part := q, st := (t.vat v).st }) s).setCap q none
        let k := p.kept
        let s2 := s1.setPart ph { s1.part ph with kept := {}, saved := false, saveValid := false }
        if p.saved && !p.saveValid then s2.restoreInvalid q ph k faultAt
        else
          match s2.reapply q ph faultAt with
          | (s3, false) => s3.jobLost q k
          | (s3, true) =>
            if !p.saved then s3
            else
              match s3.agentRead 0 p.save seqBlockLen, s3.loadVats q p.save with
              | .ok b _, some s4 =>
                let x := s4.sq q
                let vs := ((k.xfer.bind (fun t => s4.xVats q t.entry)).getD [])
                s4.setSq q { ({ x with cyc := k.cyc, xfer := k.xfer, job := k.job, lastPc := k.lastPc, waits := k.waits }).restore vs b with ran := 0 }
              | _, _ => s3.restoreInvalid q ph k faultAt)

end Sys2Proof.Machine
end

