-- ==== Sys2Proof/Machine/Boxes.lean ====
section
/-! DEFINITION. Mailboxes and the Puppeteer's service of them (15 R700, R707 to R725): the catalogue, the checks of a header, taking and
replaying commands, and the board's connections (15 R730, R731). -/

namespace Sys2Proof.Machine

open Host

/-! ## The catalogue (R722 to R725) -/

/-- Who may issue a command: mailbox 0, mailboxes 1 to 15, or both. -/
inductive From where
  | board | hyp | both
deriving DecidableEq, Repr

/-- A command of the catalogue: its From column and the minor number of its minimum FIL 9.m. -/
def catalogue (o : Nat) : Option (From × Nat) :=
  if o ∈ [0x0101, 0x0102, 0x0103, 0x0301, 0x0306, 0x0501, 0x0502, 0x0602, 0x0701, 0x0702, 0x0703, 0x0802] then some (.both, 0)
  else if o = 0x0704 then some (.both, 1)
  else if o = 0x0105 then some (.board, 0)
  else if o = 0x0505 then some (.hyp, 1)
  else if o = 0x0104 || (decide (0x0201 ≤ o) && decide (o ≤ 0x020A)) || (decide (0x0302 ≤ o) && decide (o ≤ 0x0305)) || (decide (0x0401 ≤ o) && decide (o ≤ 0x0403))
    || o = 0x0503 || o = 0x0504 || o = 0x0601 || o = 0x0801 || (decide (0x0803 ≤ o) && decide (o ≤ 0x0805)) then some (.hyp, 0)
  else none

/-- The request size of a command, from its own fields where it varies. -/
def State.reqLen (s : State) (m o : Nat) : Nat :=
  match o with
  | 0x0102 => 8 | 0x0103 => 8 | 0x0104 => 4 | 0x0105 => 36
  | 0x0201 => 2 | 0x0202 => 288 | 0x0203 => 48 | 0x0204 => 544 | 0x0205 => 48 | 0x020A => 8
  | 0x0301 => 1 | 0x0302 => 16 | 0x0303 => 1 | 0x0304 => 16 | 0x0305 => 2 | 0x0306 => 1
  | 0x0401 => 12 | 0x0402 => 16 | 0x0403 => 2
  | 0x0501 => 4 + 4 * s.mbP m 2 1 | 0x0502 => 1 | 0x0503 => 2 | 0x0504 => 1 | 0x0505 => 1
  | 0x0601 => 4 | 0x0602 => 5
  | 0x0701 => 8 + s.mbP m 4 4 | 0x0702 => 1 | 0x0703 => 1
  | 0x0801 => 1 | 0x0805 => 2
  | _ => 0

/-- The instance commands, which name an instance in the header; every other command names 0 (R719, R723). -/
def namesInst (o : Nat) : Bool := decide (0x0202 ≤ o) && decide (o ≤ 0x020A)

/-! ## Fields in range (R713 check 5, R724) -/

/-- Bytes of a payload are 0. -/
def State.mbZero (s : State) (m o n : Nat) : Bool := (s.mbPBytes m o n).all (· == 0)

/-- The widths that a port of a mode may have at a rate, by the table of R493; rates in the units of PORT_CONFIG. -/
def portOk (mode lanes rate : Nat) : Bool :=
  match mode with
  | 1 => decide (lanes ∈ [1, 2, 4, 8, 16]) && decide (rate ∈ [8, 16, 32, 64])
  | 2 => decide (lanes ∈ [8, 16]) && decide (rate ∈ [32, 64])
  | 3 => decide ((lanes, rate) ∈ [(1, 1), (1, 2), (1, 4), (2, 8), (4, 16), (8, 32)])
  | 4 => lanes = 1 && decide (rate ∈ [1, 2, 4])
  | _ => false

/-- The lane at which each port begins, in ascending order at a multiple of its width; none when they do not fit in 16 (R494). -/
def portFit : Nat → List Nat → Bool
  | k, [] => decide (k ≤ 16)
  | k, w :: ws => if w = 0 then false else portFit ((k + w - 1) / w * w + w) ws

/-- The ports of a PORT_CONFIG request: lanes and rate. -/
def State.cfgPorts (s : State) (m : Nat) : List (Nat × Nat) := (List.range (s.mbP m 2 1)).map (fun k => (s.mbP m (4 + 4 * k) 1, s.mbP m (5 + 4 * k) 1))

/-- The CXL ports of every group but g (R497). -/
def State.cxlPorts (s : State) (g : Nat) : Nat := ((s.chan.groups.filter (fun e => decide (e.1 ≠ g) && decide (e.2.mode = 2))).map (fun e => e.2.ports.length)).foldl (· + ·) 0

def State.portFields (s : State) (m : Nat) : Bool :=
  let g := s.mbP m 0 1
  let mode := s.mbP m 1 1
  let ps := s.cfgPorts m
  decide (g < 8) && decide (mode ≤ 4) && s.mbZero m 3 1 && (List.range ps.length).all (fun k => s.mbZero m (6 + 4 * k) 2)
  && (if mode = 0 then ps.isEmpty
      else decide (1 ≤ ps.length) && decide (ps.length ≤ if mode = 2 then 2 else 8) && ps.all (fun p => portOk mode p.1 p.2) && portFit 0 (ps.map (·.1))
        && (decide (mode ≠ 2) || decide (s.cxlPorts g + ps.length ≤ 8)))

/-- The endpoint record keeps R500 and R501. -/
def State.epFields (s : State) (m : Nat) : Bool :=
  let f := fun o n => s.mbP m o n
  let t := f 2 1
  let np := f 3 1
  let path := fun k =>
    let b := 0x40 + 32 * k
    decide (f b 1 < 64) && decide (f (b + 1) 1 < 4) && (t = 1 || t = 2 || t = 6 || decide (f (b + 2) 2 = 0))
    && (if t = 3 || t = 4 then decide (f (b + 4) 4 < 2 ^ 24) else s.mbZero m (b + 4) 12)
    && (if t = 2 then bit (f (b + 1) 1) 0 || s.mbZero m (b + 0x10) 12 else s.mbZero m (b + 0x10) 16)
  decide (1 ≤ t) && decide (t ≤ 6) && decide (1 ≤ np) && decide (np ≤ if t = 1 then 2 else if t = 6 then 1 else 8) && decide (f 4 2 = s.mbInst m) && decide (f 6 1 ≤ 1) && s.mbZero m 7 1
  && (t = 2 || t = 3 || decide (f 0x14 4 = 0)) && s.mbZero m 0x18 40
  && (List.range np).all path && s.mbZero m (0x40 + 32 * np) (32 * (8 - np))

/-- The zero bytes of a resource plan (R726); what is out of range there is PLAN_INVALID (R588). -/
def State.planZeros (s : State) (m : Nat) : Bool :=
  s.mbZero m 0x2C 4 && (List.range 8).all (fun k => s.mbZero m (0x58 + 16 * k + 12) 4) && (List.range 5).all (fun k => s.mbZero m (0xD8 + 12 * k + 9) 3) && s.mbZero m 0x114 12

/-- Every field shown as 0 is 0, and every field is in range (R713). -/
def State.mbFields (s : State) (m o : Nat) : Bool :=
  let f := fun o n => s.mbP m o n
  decide (s.mbF m 2 2 < 2) && decide (s.mbF m 0x0E 2 = 0)
  && (if namesInst o then decide (s.mbInst m < s.inst.tableSize) else o = 0x0201 || decide (s.mbInst m = 0))
  && (match o with
    | 0x0102 => decide (f 0 8 < 2 ^ 44)
    | 0x0103 => s.mbZero m 1 3 && (match f 0 1 with
      | 0 => decide (f 4 4 < 16) && decide (f 4 4 % 4 < 3) && decide (f 4 4 / 4 < 3)
      | 1 => decide (f 4 4 < 3) | 2 => decide (f 4 4 < 65536) | 3 => decide (f 4 4 < 64) | 4 => decide (f 4 4 < 256) | _ => false)
    | 0x0104 => decide (f 0 1 < 128) && s.mbZero m 1 1
    | 0x0105 => decide (f 0 1 < 5) && s.mbZero m 1 3
    | 0x0201 => decide (1 ≤ f 0 2) && decide (f 0 2 ≤ 8192)
    | 0x0202 => s.planZeros m
    | 0x0203 => decide (f 0 4 < 131072) && decide (f 4 1 < 2) && decide (4 ≤ f 5 1) && decide (f 5 1 ≤ 16) && decide (4 ≤ f 6 1) && decide (f 6 1 ≤ 16) && s.mbZero m 7 1
        && (decide (f 40 4 < 65536) || f 40 4 = 0xFFFFFFFF) && decide (f 44 2 < 4096) && (f 4 1 = 1 || f 44 2 = 0) && s.mbZero m 46 2
    | 0x0204 => s.epFields m
    | 0x0205 => decide (f 0 2 < 4096) && decide (f 2 1 < 16) && s.mbZero m 3 5
    | 0x020A => decide (f 0 1 ≤ 5) && decide (f 1 1 ≤ 2) && (decide (f 0 1 ≠ 5) || f 1 1 = 2) && s.mbZero m 2 2 && (decide (f 1 1 ≠ 2) || (decide (1 ≤ f 4 4) && decide (f 4 4 ≤ 255)))
    | 0x0301 => s.slotExists (f 0 1)
    | 0x0302 => s.slotExists (f 0 1) && s.mbZero m 1 7
    | 0x0303 => s.slotExists (f 0 1)
    | 0x0304 => s.slotExists (f 0 1) && s.mbZero m 1 7
    | 0x0305 => s.slotExists (f 0 1) && decide (f 1 1 < 2)
    | 0x0306 => decide (f 0 1 < 4)
    | 0x0402 => decide (f 0 2 < 4096) && s.mbZero m 2 6 && decide (f 8 8 % 4096 = 0)
    | 0x0403 => decide (f 0 2 < 4096)
    | 0x0501 => s.portFields m
    | 0x0502 => decide (f 0 1 < 64)
    | 0x0504 => decide (f 0 1 < 8)
    | 0x0505 => decide (f 0 1 < 8)
    | 0x0601 => decide (f 0 2 < 2048) && decide (f 2 1 ≤ 10) && (decide (f 2 1 ≠ 10) || decide (f 3 1 < 2))
    | 0x0602 => decide (1 ≤ f 4 1) && decide (f 4 1 ≤ 63)
    | 0x0701 => decide (f 4 4 ≤ 4056) && decide (f 0 4 + f 4 4 ≤ 12 * 2 ^ 20)
    | 0x0702 => decide (f 0 1 < 2)
    | 0x0703 => decide (f 0 1 < 2)
    | 0x0801 => decide (f 0 1 < 2)
    | _ => true)

/-! ## Taking a command (R713 to R717) -/

/-- The state of the Puppeteer serves mailbox m (R700, R707). -/
def State.serves (s : State) (m : Nat) : Bool :=
  match s.pup.st with
  | .serving => decide (m < 16)
  | .bringup => m = 0
  | .recovery => m = 0
  | .stopped => m = 0
  | _ => false

/-- The refusal of the first check that fails (R713, R700). In RECOVERY, where no firmware runs and the effective FIL reads 0, the three commands served are
held to FIL 9.0 (DESIGN CHOICE: R700 has them served there; log entry 188). -/
def State.refusal (s : State) (m : Nat) : Option Nat :=
  let o := s.mbOp m
  let eff := if s.pup.st = .recovery then 9 * 256 else s.pup.effmaj * 256 + s.pup.effmin
  match catalogue o with
  | none => some (if 4064 < s.mbLen m then scMbLength else scMbOpcode)
  | some (who, minor) =>
    if 4064 < s.mbLen m || decide (s.mbLen m ≠ s.reqLen m o) then some scMbLength
    else if (m = 0 && who = .hyp) || (m ≠ 0 && who = .board) || (s.pup.st = .recovery && !decide (o ∈ [0x0101, 0x0701, 0x0702])) then some scMbDenied
    else if eff < 9 * 256 + minor || eff < s.mbF m 6 2 then some scMbFil
    else if !s.mbFields m o then some scMbField
    else none

/-- The next QUEUED mailbox in ascending number after the one taken last (R715). -/
def State.nextBox (s : State) : Option Nat :=
  ((List.range 64).map (fun k => (s.pup.lastTaken + 1 + k) % 64)).find? (fun m => decide ((s.mb m).st = .queued) && s.serves m)

/-- The commands running. -/
def State.nRunning (s : State) : Nat := (s.pup.mbs.filter (fun e => decide (e.2.st = .running))).length

/-- The Puppeteer takes the command of mailbox m (R713, R715, R717). -/
def execMailboxCommandTake (m : Nat) (s : State) : Out :=
  .next (
    if s.nextBox ≠ some m || decide (8 ≤ s.nRunning) then s
    else
      let x := s.mb m
      let s1 := s.setMb m { x with st := .running, comp := false }
      let s2 : State := { s1 with pup := { s1.pup with lastTaken := m, taken := s1.pup.taken ++ [m] } }
      if x.lastOp = some (s.mbOp m) && decide (x.lastSeq = s.mbSeq m) && !bit (s.mbF m 2 2) 0 then s2.mbDone m x.lastStatus x.lastResp
      else
        match s2.refusal m with
        | some st => s2.mbDone m st []
        | none => s2)

/-- A doorbell is set: the command is queued (R711); that of the board is agreed in a duplex pair (16 R749). -/
def execMailboxDoorbell (m : Nat) (s : State) : Out :=
  .next (if 16 ≤ m then s else if m = 0 then s.agree .board (s.ringMailbox 0) else s.ringMailbox m)

/-! ## The board's connections (R730, R731) -/

/-- The board's connections work: no reset is asserted and every rail but VSTBY is good (18 R796). -/
def State.boardUp (s : State) : Bool := !s.pwr.coldLow && !s.pwr.warmLow && (s.pwr.badRails.filter (· ≠ 9)).isEmpty

/-- Bytes of mailbox 0 written from the board; nothing while a command is queued or running (R712). -/
def State.boardWrite (s : State) (off : Nat) (bs : List Byte) : State :=
  let x := s.mb 0
  if x.st = .queued || x.st = .running then s else s.setMb 0 { x with bytes := Tab.setMany 0 x.bytes off bs }

def execSmbusWrite (off : Nat) (data : List Byte) (s : State) : Out :=
  .next (if !s.boardUp || decide (32 < data.length) || decide (4096 < off + data.length) then s else s.boardWrite off data)

def execSmbusRead (off len : Nat) (s : State) : Out :=
  .next (if !s.boardUp || decide (32 < len) || decide (4096 < off + len) then s
    else { s with pup := { s.pup with smbOut := Tab.getMany 0 (s.mb 0).bytes off len } })

def execSmbusDoorbell (s : State) : Out := .next (if !s.boardUp then s else s.agree .board (s.ringMailbox 0))

/-- PUPSTAT, MBCTL of mailbox 0 and its two bits (R730); one byte holds the bits (log entry 55). -/
def execSmbusStatusRead (s : State) : Out :=
  .next (if !s.boardUp then s
    else { s with pup := { s.pup with smbOut := leBytes 8 s.pup.stat ++ leBytes 8 (s.mb 0).ctl ++ leBytes 1 (b2n (s.mb 0).bell + 2 * b2n (s.mb 0).comp) } })

end Sys2Proof.Machine
end

