-- ==== Sys2Proof/Machine/Flags.lean ====
section
/-! DEFINITION. Floating-point values, rounding and the FSTAT flags (04 R197 to R213): decoding of bit patterns
into exact values, one rounding of an exact value with every flag it sets, and the classification of NaNs. -/

namespace Sys2Proof.Machine

/-- The FSTAT flags [4:0] (R63). -/
def fNV : BitVec 5 := 16
def fDZ : BitVec 5 := 8
def fOF : BitVec 5 := 4
def fUF : BitVec 5 := 2
def fNX : BitVec 5 := 1

/-- A format: false binary32, true binary64; significand bits p, exponent bits, least normal exponent. -/
def fmtP (d : Bool) : Nat := if d then 53 else 24
def fmtW (d : Bool) : Nat := if d then 11 else 8
def fmtEmin (d : Bool) : Int := if d then -1022 else -126
def fmtEmax (d : Bool) : Int := if d then 1023 else 127
def fmtBits (d : Bool) : Nat := if d then 64 else 32

/-- What a pattern stands for: a NaN with its fraction and whether it signals, an infinity, or m × 2^e. -/
inductive FVal where
  | nan (sig : Bool)
  | inf (s : Bool)
  | fin (s : Bool) (m : Nat) (e : Int)
deriving DecidableEq, Repr

/-- The operand pattern in its format: binary32 reads F[31:0] (R69). -/
def fPat (d : Bool) (x : Nat) : Nat := x % 2 ^ fmtBits d

/-- The value of a pattern. -/
def fVal (d : Bool) (x : Nat) : FVal :=
  let f := fmtP d - 1
  let w := fmtW d
  let s := bit x (f + w)
  let ex := fld x f w
  let fr := fld x 0 f
  if ex = 2 ^ w - 1 then (if fr = 0 then .inf s else .nan (!bit x (f - 1)))
  else if ex = 0 then .fin s fr (fmtEmin d - (f : Int))
  else .fin s (fr + 2 ^ f) ((ex : Int) - 1 + fmtEmin d - (f : Int))

/-- The pattern's sign. -/
def fSign (d : Bool) (x : Nat) : Bool := bit x (fmtP d - 1 + fmtW d)
/-- Sign s at its place. -/
def fSgnBit (d s : Bool) : Nat := if s then 2 ^ (fmtBits d - 1) else 0
def fInf (d s : Bool) : Nat := fSgnBit d s + (2 ^ fmtW d - 1) * 2 ^ (fmtP d - 1)
def fMax (d s : Bool) : Nat := fInf d s - 1
/-- The default NaN (R197). -/
def fDefNan (d : Bool) : Nat := (2 ^ fmtW d - 1) * 2 ^ (fmtP d - 1) + 2 ^ (fmtP d - 2)

def FVal.isNan : FVal → Bool
  | .nan _ => true
  | _ => false
def FVal.isSig : FVal → Bool
  | .nan s => s
  | _ => false
def FVal.isInf : FVal → Bool
  | .inf _ => true
  | _ => false
def FVal.isZero : FVal → Bool
  | .fin _ m _ => decide (m = 0)
  | _ => false
def FVal.sign : FVal → Bool
  | .nan _ => false
  | .inf s => s
  | .fin s _ _ => s

/-- A subnormal operand (R210). -/
def fSubnormal (d : Bool) (x : Nat) : Bool := decide (fld x (fmtP d - 1) (fmtW d) = 0) && decide (fld x 0 (fmtP d - 1) ≠ 0)

/-- The pattern with its quiet bit set, in the same format (R198). -/
def fQuiet (d : Bool) (x : Nat) : Nat := if bit x (fmtP d - 2) then x else x + 2 ^ (fmtP d - 2)

/-- A NaN put into another format (R199), quiet bit set. -/
def fNanCvt (from64 to64 : Bool) (x : Nat) : Nat :=
  if from64 = to64 then fQuiet to64 x
  else if from64 then fQuiet false (fSgnBit false (fSign true x) + 255 * 2 ^ 23 + fld x 29 22)
  else fQuiet true (fSgnBit true (fSign false x) + 2047 * 2 ^ 52 + fld x 0 22 * 2 ^ 29)

/-- The rounding modes of FSTAT.RM (R63). -/
inductive Rm where
  | rne | rtz | rup | rdn | rmm
deriving DecidableEq, Repr

/-- RM of a stored FSTAT; a stored RM is 0 to 4 (R64). -/
def rmOf (fstat : Word) : Rm :=
  match fld fstat.toNat 10 3 with
  | 0 => .rne
  | 1 => .rtz
  | 2 => .rup
  | 3 => .rdn
  | _ => .rmm

/-- Round m / 2^k to an integer in a mode, for sign s; with whether it was inexact. -/
def roundShift (rm : Rm) (s : Bool) (m k : Nat) : Nat × Bool :=
  let q := m / 2 ^ k
  let r := m % 2 ^ k
  if r = 0 then (q, false)
  else
    let up : Bool := match rm with
      | .rne => decide (2 ^ k < 2 * r) || (decide (2 ^ k = 2 * r) && decide (q % 2 = 1))
      | .rtz => false
      | .rup => !s
      | .rdn => s
      | .rmm => decide (2 ^ k ≤ 2 * r)
    (q + b2n up, true)

/-- m × 2^e rounded to a multiple of 2^t: the multiple and whether it was inexact. -/
def roundAt (rm : Rm) (s : Bool) (m : Nat) (e t : Int) : Nat × Bool :=
  if t ≤ e then (m * 2 ^ (e - t).toNat, false) else roundShift rm s m (t - e).toNat

/-- The overflow result of R206. -/
def fOverflow (d : Bool) (rm : Rm) (s : Bool) : Nat :=
  match rm, s with
  | .rne, _ => fInf d s
  | .rmm, _ => fInf d s
  | .rtz, _ => fMax d s
  | .rup, false => fInf d s
  | .rup, true => fMax d s
  | .rdn, false => fMax d s
  | .rdn, true => fInf d s

/-- A result: its pattern, its flags, and whether the exact result was subnormal (R210). -/
structure FRes where
  val : Nat
  flags : BitVec 5
  sub : Bool
deriving DecidableEq, Repr

/-- The exact value (-1)^s × m × 2^e, m above 0, rounded to a format (R206, R207). -/
def fRound (d : Bool) (rm : Rm) (s : Bool) (m : Nat) (e : Int) : FRes :=
  let p := fmtP d
  let ex : Int := e + (Nat.log2 m : Int)
  let (q0, _) := roundAt rm s m e (ex - (p : Int) + 1)
  -- exponent of the value rounded with an unbounded exponent
  let ex1 : Int := if q0 = 2 ^ p then ex + 1 else ex
  let sub := decide (ex < fmtEmin d)
  if fmtEmax d < ex1 then { val := fOverflow d rm s, flags := fOF ||| fNX, sub := false }
  else if ex < fmtEmin d then
    let (q, i) := roundAt rm s m e (fmtEmin d - (p : Int) + 1)
    let tiny := decide (ex1 < fmtEmin d)
    { val := fSgnBit d s + q, flags := (if i then fNX else 0) ||| (if i && tiny then fUF else 0), sub := sub }
  else
    let (q, i) := roundAt rm s m e (ex - (p : Int) + 1)
    let qn := if q = 2 ^ p then 2 ^ (p - 1) else q
    { val := fSgnBit d s + (ex1 - fmtEmin d + 1).toNat * 2 ^ (p - 1) + (qn - 2 ^ (p - 1)), flags := if i then fNX else 0, sub := sub }

/-- A signed exact value n × 2^e rounded; z is the sign of an exact zero. -/
def fRoundInt (d : Bool) (rm : Rm) (n : Int) (e : Int) (z : Bool) : FRes :=
  if n = 0 then { val := fSgnBit d z, flags := 0, sub := false } else fRound d rm (decide (n < 0)) n.natAbs e

/-- The first NaN in operand order, quieted and put into the result format (R198); NV when any signals. -/
def fNanRes (d : Bool) (xs : List Nat) : Option FRes :=
  match xs.find? (fun x => (fVal d x).isNan) with
  | none => none
  | some x => some { val := fQuiet d x, flags := if xs.any (fun y => (fVal d y).isSig) then fNV else 0, sub := false }

/-- The default NaN with NV (R197). -/
def fInvalid (d : Bool) : FRes := { val := fDefNan d, flags := fNV, sub := false }

/-- The sign of an exact zero sum (R208): that of both addends when they agree, else RDN gives minus. -/
def zeroSign (rm : Rm) (s t : Bool) : Bool := if s = t then s else decide (rm = .rdn)

/-- The exact signed numerator of a finite value at exponent e, which must not exceed its own. -/
def finAt (s : Bool) (m : Nat) (e t : Int) : Int :=
  let v : Int := (m * 2 ^ (e - t).toNat : Nat)
  if s then -v else v

/-- The sum of two exact finite values. -/
def fAddFin (d : Bool) (rm : Rm) (s1 : Bool) (m1 : Nat) (e1 : Int) (s2 : Bool) (m2 : Nat) (e2 : Int) : FRes :=
  let t := if e1 ≤ e2 then e1 else e2
  fRoundInt d rm (finAt s1 m1 e1 t + finAt s2 m2 e2 t) t (zeroSign rm s1 s2)

/-- FPADD; sub inverts the sign of b (R206, R208). NaNs of b keep their sign (R198). -/
def fAdd (d : Bool) (rm : Rm) (neg : Bool) (a b : Nat) : FRes :=
  match fNanRes d [a, b] with
  | some r => r
  | none =>
    match fVal d a, fVal d b with
    | .inf s, .inf t => if s = (t != neg) then { val := fInf d s, flags := 0, sub := false } else fInvalid d
    | .inf s, _ => { val := fInf d s, flags := 0, sub := false }
    | _, .inf t => { val := fInf d (t != neg), flags := 0, sub := false }
    | .fin s m e, .fin t n f => fAddFin d rm s m e (t != neg) n f
    | _, _ => fInvalid d

/-- FPMUL. -/
def fMul (d : Bool) (rm : Rm) (a b : Nat) : FRes :=
  match fNanRes d [a, b] with
  | some r => r
  | none =>
    match fVal d a, fVal d b with
    | .fin s m e, .fin t n f => fRoundInt d rm (finAt (s != t) (m * n) 0 0) (e + f) (s != t)
    | x, y => if x.isZero || y.isZero then fInvalid d else { val := fInf d (x.sign != y.sign), flags := 0, sub := false }

/-- FPFMA, rounded once; 0 × ∞ sets NV even when c is a quiet NaN (R200). -/
def fFma (d : Bool) (rm : Rm) (a b c : Nat) : FRes :=
  let x := fVal d a
  let y := fVal d b
  let bad := (x.isZero && y.isInf) || (x.isInf && y.isZero)
  match fNanRes d [a, b, c] with
  | some r => { r with flags := r.flags ||| (if bad then fNV else 0) }
  | none =>
    if bad then fInvalid d
    else
      let ps := x.sign != y.sign
      match x, y, fVal d c with
      | .fin s m e, .fin t n f, .fin u k g => fAddFin d rm (s != t) (m * n) (e + f) u k g
      | .fin _ _ _, .fin _ _ _, z => { val := fInf d z.sign, flags := 0, sub := false }
      | _, _, .inf u => if u = ps then { val := fInf d u, flags := 0, sub := false } else fInvalid d
      | _, _, _ => { val := fInf d ps, flags := 0, sub := false }

/-- The order of two values without NaN: exact comparison a < b, with -0 below +0 when z (R202). -/
def fLess (z : Bool) (x y : FVal) : Bool :=
  match x, y with
  | .inf s, .inf t => s && !t
  | .inf s, _ => s
  | _, .inf t => !t
  | .fin s m e, .fin t n f =>
    let g := if e ≤ f then e else f
    let a := finAt s m e g
    let b := finAt t n f g
    if a = 0 ∧ b = 0 then z && s && !t else decide (a < b)
  | _, _ => false

/-- FPMIN and FPMAX (R202). -/
def fMinMax (d isMax : Bool) (a b : Nat) : FRes :=
  let x := fVal d a
  let y := fVal d b
  let fl := if x.isSig || y.isSig then fNV else 0
  if x.isNan && y.isNan then { val := fQuiet d a, flags := fl, sub := false }
  else if x.isNan then { val := b, flags := fl, sub := false }
  else if y.isNan then { val := a, flags := fl, sub := false }
  else
    let bLess := fLess true y x
    { val := if bLess != isMax then b else a, flags := fl, sub := false }

/-- FPCMP: the bit and its flags; cc 0 EQ, 1 LT, 2 LE, 3 UN (R203). -/
def fCmp (d : Bool) (cc : Nat) (a b : Nat) : Bool × BitVec 5 :=
  let x := fVal d a
  let y := fVal d b
  if x.isNan || y.isNan then
    (decide (cc = 3), if cc = 1 || cc = 2 || x.isSig || y.isSig then fNV else 0)
  else
    let lt := fLess false x y
    let gt := fLess false y x
    (match cc with
     | 0 => !lt && !gt
     | 1 => lt
     | 2 => !gt
     | _ => false, 0)

/-- FPCVT between formats (R198, R199, R205). -/
def fCvtF (from64 to64 : Bool) (rm : Rm) (a : Nat) : FRes :=
  match fVal from64 a with
  | .nan sig => { val := fNanCvt from64 to64 a, flags := if sig then fNV else 0, sub := false }
  | .inf s => { val := fInf to64 s, flags := 0, sub := false }
  | .fin s m e => fRoundInt to64 rm (finAt s m 0 0) e s

/-- FPCVT to int64 (R204): the pattern and flags. -/
def fCvtL (from64 : Bool) (rm : Rm) (a : Nat) : FRes :=
  match fVal from64 a with
  | .nan _ => { val := 2 ^ 63, flags := fNV, sub := false }
  | .inf s => { val := if s then 2 ^ 63 else 2 ^ 63 - 1, flags := fNV, sub := false }
  | .fin s m e =>
    let (q, i) := roundAt rm s m e 0
    if s then (if 2 ^ 63 < q then { val := 2 ^ 63, flags := fNV, sub := false } else { val := (2 ^ 64 - q) % 2 ^ 64, flags := if i then fNX else 0, sub := false })
    else (if 2 ^ 63 ≤ q then { val := 2 ^ 63 - 1, flags := fNV, sub := false } else { val := q, flags := if i then fNX else 0, sub := false })

/-- FPCVT from int64 (R205). -/
def fCvtI (to64 : Bool) (rm : Rm) (a : Nat) : FRes := fRoundInt to64 rm (sx 64 a) 0 false

/-! ## Division and square-root steps -/

/-- The total steps n of R190. -/
def fpN (d : Bool) : Nat := if d then 28 else 13

/-- The control word of R192. -/
def fpCtl (e : Int) (snan : Bool) (spc : Nat) (sgn op fmt : Bool) (cnt : Nat) : Nat :=
  (e % 2 ^ 14).toNat * 2 ^ 14 + b2n snan * 2 ^ 11 + spc * 2 ^ 8 + b2n sgn * 2 ^ 7 + b2n op * 2 ^ 6 + b2n fmt * 2 ^ 5 + cnt

/-- A finite non-zero operand with its significand normalised to p bits: significand and unbiased exponent. -/
def fNorm (d : Bool) (m : Nat) (e : Int) : Nat × Int :=
  let k := fmtP d - 1 - Nat.log2 m
  (m * 2 ^ k, e - (k : Int) + ((fmtP d - 1 : Nat) : Int))

/-- The four state registers after a first step (R191 to R193, R195): w, q, b and the control word. -/
structure FStep where
  w : Nat
  q : Nat
  b : Nat
  c : Nat
deriving DecidableEq, Repr

/-- A first step whose special case is spc (R193), completing early unless ct (R195). -/
def fSpecial (fmt op ct : Bool) (spc : Nat) (snan sgn : Bool) (q : Nat) : FStep :=
  { w := 0, q := q, b := 0, c := fpCtl 0 snan spc sgn op fmt (if ct then fpN fmt - 1 else 0) }

/-- A first step with SPC 0 from its w, q, b and exponent (R195). -/
def fFirst (fmt op ct : Bool) (sgn : Bool) (w q b : Nat) (e : Int) : FStep :=
  if w = 0 && !ct then { w := 0, q := q * 4 ^ (fpN fmt - 1) % 2 ^ 64, b := b, c := fpCtl e false 0 sgn op fmt 0 }
  else { w := w, q := q, b := b, c := fpCtl e false 0 sgn op fmt (fpN fmt - 1) }

/-- FDSTEP.IS and FDSTEP.ID. -/
def fDivInit (d ct : Bool) (a b : Nat) : FStep :=
  let x := fVal d a
  let y := fVal d b
  let sgn := fSign d a != fSign d b
  match fNanRes d [a, b] with
  | some r => fSpecial d false ct 1 (x.isSig || y.isSig) sgn r.val
  | none =>
    match x, y with
    | .inf _, .inf _ => fSpecial d false ct 2 false sgn 0
    | .inf _, _ => fSpecial d false ct 4 false sgn 0
    | _, .inf _ => fSpecial d false ct 5 false sgn 0
    | .fin _ m e, .fin _ n f =>
      if m = 0 then fSpecial d false ct (if n = 0 then 2 else 5) false sgn 0
      else if n = 0 then fSpecial d false ct 3 false sgn 0
      else
        let (am, ae) := fNorm d m e
        let (bm, be) := fNorm d n f
        let lt := decide (am < bm)
        let am2 := if lt then 2 * am else am
        let ee := ae - be - (if lt then 1 else 0)
        fFirst d false ct sgn (am2 - bm) 1 bm ee
    | _, _ => fSpecial d false ct 2 false sgn 0

/-- FSSTEP.IS and FSSTEP.ID. -/
def fSqrtInit (d ct : Bool) (a : Nat) : FStep :=
  let x := fVal d a
  match fNanRes d [a] with
  | some r => fSpecial d true ct 1 x.isSig false r.val
  | none =>
    match x with
    | .inf s => fSpecial d true ct (if s then 2 else 4) false false 0
    | .fin s m e =>
      if m = 0 then fSpecial d true ct 5 false s 0
      else if s then fSpecial d true ct 2 false false 0
      else
        let (xm, xe) := fNorm d m e
        let odd := decide (xe % 2 ≠ 0)
        let xm2 := if odd then 2 * xm else xm
        let e2 := (if odd then xe - 1 else xe) / 2
        fFirst d true ct false (xm2 - 2 ^ (fmtP d - 1)) 1 xm2 e2
    | .nan _ => fSpecial d true ct 1 false false 0

/-- The largest digit 0 to 3 that passes. -/
def digit (p : Nat → Bool) : Nat := if p 3 then 3 else if p 2 then 2 else if p 1 then 1 else 0

/-- A step after the first (R194, R195). Under CT = 1 a state whose SPC is not 0 is already final and only loses a count. An
early completion writes the Q that the remaining digits reach: all 0, or all 3 in a division by a B of 0 (R189, R194). -/
def fStep (ct : Bool) (st : FStep) : FStep :=
  let cnt := fld st.c 0 5
  if cnt = 0 then st
  else
    let fmt := bit st.c 5
    let p := fmtP fmt
    let c0 := st.c - cnt
    if ct && decide (fld st.c 8 3 ≠ 0) then { st with c := c0 + (cnt - 1) }
    else
      let k : Int := (fpN fmt : Int) - (cnt : Int)
      let (w, dg) : Nat × Nat :=
        if bit st.c 6 then
          let s := ((p : Int) + 3 - 4 * k).toNat
          let t := ((p : Int) - 1 - 4 * k).toNat
          let w0 := st.w * 2 ^ (4 + t - s)
          let sb := fun q : Nat => q * (8 * st.q + q) * 2 ^ t
          let q := digit (fun q => decide (sb q ≤ w0))
          (w0 - sb q, q)
        else
          let q := digit (fun q => decide (q * st.b ≤ 4 * st.w))
          (4 * st.w - q * st.b, q)
      let w64 := w % 2 ^ 64
      let q1 := 4 * st.q + dg
      let low := if !bit st.c 6 && decide (st.b = 0) then 4 ^ (cnt - 1) - 1 else 0
      if w64 = 0 && !ct && decide (1 < cnt) then { st with w := 0, q := (q1 * 4 ^ (cnt - 1) + low) % 2 ^ 64, c := c0 }
      else { st with w := w64, q := q1 % 2 ^ 64, c := c0 + (cnt - 1) }

/-- FDFIN (R193, R196): the rounded result. A remainder counts as an infinitesimal below Q(n). A result that Fd+1 holds unrounded never makes the group
freeze, also where a state that software has written has a subnormal pattern in it (DESIGN CHOICE: R210 does not say; log entry 152). -/
def fFin (rm : Rm) (st : FStep) : FRes :=
  let fmt := bit st.c 5
  let sgn := bit st.c 7
  if fld st.c 0 5 ≠ 0 then fInvalid fmt
  else
    match fld st.c 8 3 with
    | 0 =>
      let e : Int := sx 14 (fld st.c 14 14) - 2 * (fpN fmt : Int) + 2
      if st.q = 0 then
        (if st.w = 0 then { val := fSgnBit fmt sgn, flags := 0, sub := false } else fRound fmt rm sgn 1 (-20000))
      else if st.w = 0 then fRound fmt rm sgn st.q e
      else fRound fmt rm sgn (st.q * 2 ^ 64 + 1) (e - 64)
    | 1 => { val := fPat fmt st.q, flags := if bit st.c 11 then fNV else 0, sub := false }
    | 3 => { val := fInf fmt sgn, flags := fDZ, sub := false }
    | 4 => { val := fInf fmt sgn, flags := 0, sub := false }
    | 5 => { val := fSgnBit fmt sgn, flags := 0, sub := false }
    | _ => fInvalid fmt

/-! ## Integer division -/

/-- The four registers of an integer division (R182). -/
structure DSt where
  r : Nat
  g : Nat
  dv : Nat
  c : Nat
deriving DecidableEq, Repr

/-- DINIT in its four forms (R182, R183). -/
def dInit (w sgn : Bool) (a b : Nat) : DSt :=
  let n := if w then 32 else 64
  let av := a % 2 ^ n
  let bv := b % 2 ^ n
  let an := sgn && bit av (n - 1)
  let bn := sgn && bit bv (n - 1)
  let nm := if an then 2 ^ n - av else av
  let dm := if bn then 2 ^ n - bv else bv
  let z := decide (dm = 0)
  { r := 0, g := nm * 2 ^ (64 - n), dv := dm,
    c := b2n z * 2 ^ 12 + b2n an * 2 ^ 11 + b2n (sgn && !z && (an != bn)) * 2 ^ 10 + b2n sgn * 2 ^ 9 + b2n w * 2 ^ 8 + n }

/-- One DSTEP with CNT not 0, and its quotient bit (R184). -/
def dStep1 (st : DSt) : DSt × Bool :=
  let r := 2 * st.r + b2n (bit st.g 63)
  let g := 2 * st.g % 2 ^ 64
  if st.dv ≤ r then ({ st with r := (r - st.dv) % 2 ^ 64, g := (g + 1) % 2 ^ 64, c := st.c - 1 }, true)
  else ({ st with r := r % 2 ^ 64, g := g, c := st.c - 1 }, false)

/-- DSTEP (R184). -/
def dStep (st : DSt) : DSt := if fld st.c 0 7 = 0 then st else (dStep1 st).1

/-- Up to k steps, going on after a step that yields quotient bit 0 (R185). -/
def dStepN : Nat → DSt → DSt
  | 0, st => st
  | k + 1, st => if fld st.c 0 7 = 0 then st else (match dStep1 st with | (t, q) => if q then t else dStepN k t)

/-- DSTEP.F (R185). -/
def dStepF (ct : Bool) (st : DSt) : DSt := if ct then dStep st else dStepN 4 st

/-- DFIN: quotient and remainder (R186, R187). -/
def dFin (st : DSt) : Nat × Nat :=
  if fld st.c 0 7 ≠ 0 then (2 ^ 64 - 1, 0)
  else
    let w := bit st.c 8
    let sgn := bit st.c 9
    let n := if w then 32 else 64
    let q := st.g % 2 ^ n
    let m := st.r % 2 ^ n
    let q := if bit st.c 10 then (2 ^ n - q) % 2 ^ n else q
    let m := if bit st.c 11 then (2 ^ n - m) % 2 ^ n else m
    let ext := fun x : Nat => if w && sgn && bit x 31 then x + (2 ^ 64 - 2 ^ 32) else x
    (ext q, ext m)

end Sys2Proof.Machine
end

