-- ==== Sys2Proof/Machine/Operands.lean ====
section
/-! DEFINITION. The operands of a core instruction: register reads (02 R55, R56), immediates (R78), how a result lands
(R90 to R92, R106), beats (R94, R95), and the control registers as read and written (R59 to R67, 05 R237, R238, 07 R350,
17 R775). -/

namespace Sys2Proof.Machine

/-! ## Registers -/

/-- The bank in use (05 R214). -/
def Arch.bk (a : Arch) : Bank := Tab.get {} a.banks a.bank
def Arch.bkOf (a : Arch) (k : Nat) : Bank := Tab.get {} a.banks k
def Arch.setBkOf (a : Arch) (k : Nat) (b : Bank) : Arch := { a with banks := Tab.set {} a.banks k b }
def Arch.setBk (a : Arch) (b : Bank) : Arch := a.setBkOf a.bank b

/-- G0 reads 0, B0 reads 0 and B1 reads 1 (R55). -/
def Bank.rg (b : Bank) (r : Nat) : Word := if r = 0 then 0 else Tab.get 0 b.g r
def Bank.rb (b : Bank) (r : Nat) : Bool := if r = 0 then false else if r = 1 then true else Tab.get false b.b r
def Bank.setG (b : Bank) (r : Nat) (v : Word) : Bank := if r = 0 then b else { b with g := Tab.set 0 b.g r v }
def Bank.setB (b : Bank) (r : Nat) (v : Bool) : Bank := if r < 2 then b else { b with b := Tab.set false b.b r v }

def Arch.rg (a : Arch) (r : Nat) : Word := a.bk.rg r
def Arch.rb (a : Arch) (r : Nat) : Bool := a.bk.rb r
def Arch.rf (a : Arch) (r : Nat) : Word := Tab.get 0 a.f r
def Arch.priv (a : Arch) : BitVec 2 := a.bk.priv

/-- The level in use, the registers and the delay state of a core. -/
def Core.rg (c : Core) (r : Reg) : Word := c.arch.rg r.toNat
def Core.rb (c : Core) (r : Reg) : Bool := c.arch.rb r.toNat
def Core.rf (c : Core) (r : Reg) : Word := c.arch.rf r.toNat
def Core.priv (c : Core) : BitVec 2 := c.arch.priv
def Core.ct (c : Core) : Bool := c.arch.bk.ct

/-- imm12 sign-extended (R78). -/
def sxImm (i : BitVec 12) : Word := i.signExtend 64

/-- imm18 in Gd[29:12] (R79). -/
def limVal (i : BitVec 18) : Word := (i ++ (0 : BitVec 12)).signExtend 64

/-- The conditions of CMP and CMPI (03 R118). -/
def ccHolds (cc : Nat) (x y : Word) : Bool :=
  match cc with
  | 0 => x == y
  | 1 => x != y
  | 2 => x.slt y
  | 3 => !x.slt y
  | 4 => x.ult y
  | _ => !x.ult y

def Cc.num : Cc → Nat
  | .eq => 0
  | .ne => 1
  | .lt => 2
  | .ge => 3
  | .ltu => 4
  | .geu => 5

/-- The number of leading zeros, of ones, of a word (03 R117). -/
def clzW (x : Word) : Nat := ((List.range 64).find? (fun k => x.getLsbD (63 - k))).getD 64
def popcW (x : Word) : Nat := (List.range 64).countP (fun k => x.getLsbD k)

/-- The word as a signed number. -/
def sInt (x : Word) : Int := x.toInt

/-! ## Landing -/

/-- A result that a later group sees after lat beats (R90). -/
def res (d : Dst) (v : Word) (lat : Nat) : Flight := { dst := d, val := v, left := lat }
def resG (r : Reg) (v : Word) (lat : Nat) : Flight := res (.g r.toNat) v lat
def resB (r : Reg) (v : Bool) (lat : Nat) : Flight := res (.b r.toNat) (BitVec.ofNat 64 (b2n v)) lat
def resF (r : Reg) (v : Nat) (lat : Nat) (fl : BitVec 5) : Flight := { dst := .f r.toNat, val := BitVec.ofNat 64 v, left := lat, flags := fl }

/-- A result lands: G0, B0 and B1 discard it (R56), and its flags are ORed into FSTAT (R65, R106). -/
def Arch.land (a : Arch) (f : Flight) : Arch :=
  let a1 : Arch :=
    match f.dst with
    | .g r => a.setBk (a.bk.setG r f.val)
    | .b r => a.setBk (a.bk.setB r (f.val.getLsbD 0))
    | .f r => { a with f := Tab.set 0 a.f r f.val }
    | .lk => a.setBk { a.bk with lk := f.val }
    | .nowhere _ | .block | .poison _ => a
  { a1 with fstat := a1.fstat ||| f.flags.zeroExtend 64 }

/-- Cut a store at aligned 16-byte blocks (07 R312); n bounds the pieces. -/
def cut16 : Nat → Nat → List Byte → List (Nat × List Byte)
  | 0, _, _ => []
  | n + 1, a, bs => if bs.isEmpty then [] else (let k := 16 - a % 16; (a, bs.take k) :: cut16 n (a + k) (bs.drop k))

/-- The entries for a store to a piece of a page of region type mt, h: by level H; a whole line stays one entry (07 R312,
R331). -/
def sbEntries (pa mt : Nat) (h : Bool) (bs : List Byte) : List SbKind :=
  if mt = 2 then [.dev pa bs.length (BitVec.ofNat 64 (ofLe bs)) h]
  else if mt = 3 then (if bs.length = 128 then [.scr pa bs] else (cut16 (bs.length / 16 + 2) pa bs).map (fun p => .scr p.1 p.2))
  else if bs.length = 128 then [.mem pa bs (decide (mt = 1))]
  else (cut16 (bs.length / 16 + 2) pa bs).map (fun p => .mem p.1 p.2 (decide (mt = 1)))

/-- Enter store-buffer entries in order; nothing is merged (07 R312; log entry 20). -/
def Core.push (c : Core) (ks : List SbKind) : Core := { c with sb := c.sb ++ ks.map (fun k => { kind := k }) }

/-- The room that an entry takes, and the room left (07 R312); a block move has its room from its issue on (R97). -/
def SbKind.weight : SbKind → Nat
  | .mem _ bs _ | .scr _ bs => if bs.length = 128 then 8 else 1
  | .hole _ w => w
  | _ => 1
def Core.room (c : Core) : Nat := 32 - (c.sb.map (fun e => e.kind.weight)).foldl (· + ·) 0

/-- A result in flight lands; one that came as poison makes the core stand before a machine check (05 R243). Of two that land in one beat the last gives
the address (DESIGN CHOICE: R243 does not say; log entry 155). -/
def Core.land (c : Core) (f : Flight) : Core :=
  match f.dst with
  | .poison pa => { c with poisoned := some pa }
  | _ => { c with arch := c.arch.land f }

/-- A result is due and its data has not arrived: the core is frozen (R97). -/
def Core.due (c : Core) : Bool := c.arch.infl.any (fun f => decide (f.left = 0) && f.wait.isSome)

/-- Land what is due, in issue order (R92), unless the core is frozen on one of them. -/
def Core.landDue (c : Core) : Core :=
  if c.due then c
  else (c.arch.infl.filter (fun f => decide (f.left = 0))).foldl Core.land { c with arch := { c.arch with infl := c.arch.infl.filter (fun f => decide (f.left ≠ 0)) } }

/-- The misses proper: an L1D hit that waits behind an older access is none (R96). -/
def Core.nMiss (c : Core) : Nat := c.misses.countP (fun m => !m.hit)

/-- One architectural beat passes (R94). -/
def Core.beat (c : Core) : Core := Core.landDue { c with arch := { c.arch with infl := c.arch.infl.map (fun f => { f with left := f.left - 1 }) } }

/-- n beats pass; what a freeze stops is owed until the data arrives (R95, R97). -/
def Core.beats : Nat → Core → Core
  | 0, c => c
  | n + 1, c => if c.due then { c with owed := n + 1 } else Core.beats n c.beat

/-- Idle beats until no result is in flight (R85), and how many they are; the longest latency is that of an LMM (R90). -/
def Core.idleBeats (c : Core) : Nat := (c.arch.infl.map (fun f => f.left)).foldl Nat.max 0
def Core.idle (c : Core) : Core := Core.beats c.idleBeats c

/-- A freeze has ended, or data has arrived: what is due lands and the owed beats pass, unless another freeze stands
(R95, R97). -/
def Core.resume (c : Core) : Core :=
  if c.freezes.isEmpty then Core.beats c.owed { c.landDue with owed := 0 } else c

/-- Put results in flight, in slot order. -/
def Core.fly (c : Core) (fs : List Flight) : Core := { c with arch := { c.arch with infl := c.arch.infl ++ fs } }

/-! ## Control registers -/

/-- CSTAT as read (R61). -/
def cstatOf (b : Bank) (bank : Nat) (fpu split rx7 : Bool) : Word :=
  BitVec.ofNat 64 (b.priv.toNat * 2 ^ 30 + bank * 2 ^ 27 + b.ipl.toNat * 2 ^ 24 + b2n b.ie * 2 ^ 23 + b2n fpu * 2 ^ 22 + b2n b.ct * 2 ^ 21 + b2n split * 2 ^ 20
    + b2n rx7 * 2 ^ 19 + b2n b.repact * 2 ^ 18 + b2n b.dly * 2 ^ 17)

/-- The banked fields of CSTAT at their positions (05 R225). -/
def Bank.cstatBits (b : Bank) : Word := cstatOf b 0 false false false

/-- CID as read (R66). -/
def cidOf (l : Nat) : Word := BitVec.ofNat 64 (l * 2 ^ 8 + chipOf l * 2 ^ 6 + slotOf l * 2 + l % 2)

/-- The return bank of the bank in use; none in bank 0 (05 R215, R227). -/
def Arch.rbank (a : Arch) : Option Nat := if a.bank = 0 then none else some (fld a.bk.ccause.toNat 56 3)

/-- PRDESC of an entry (05 R231). -/
def RecEntry.desc (e : RecEntry) : Word := BitVec.ofNat 64 (b2n e.valid * 2 ^ 31 + e.fflags.toNat * 2 ^ 16 + e.left.toNat * 2 ^ 8 + e.dest.toNat)
def RecEntry.setDesc (e : RecEntry) (w : Nat) : RecEntry :=
  { e with valid := bit w 31, fflags := BitVec.ofNat 5 (fld w 16 5), left := if fld w 8 2 = 0 then 1 else BitVec.ofNat 2 (fld w 8 2), dest := BitVec.ofNat 8 w }

/-- The entries of a record, 0 to 17 (R104). -/
def Bank.recCount (b : Bank) : Nat := (List.range 18).countP (fun k => (Tab.get {} b.prec k).valid)

/-- The levels at which a control register is read and written; none: not assigned, or no write (R59, 05 R237, 17
R775). -/
def ctlLevels (n : Nat) : Option (Nat × Option Nat) :=
  match n with
  | 0 => some (0, some 0)
  | 1 => some (0, some 0)
  | 2 => some (0, none)
  | 3 | 4 | 6 | 7 => some (1, some 1)
  | 5 => some (1, none)
  | 8 => some (2, some 2)
  | 9 => some (1, none)
  | 10 | 12 => some (2, some 2)
  | 11 | 13 | 14 | 15 | 16 | 18 => some (1, some 1)
  | 17 => some (1, none)
  | 48 => some (1, some 1)
  | 49 => some (1, none)
  | 50 | 51 | 52 | 53 | 54 => some (1, some 2)
  | _ => none

/-- PMCFG and the filter registers as read (17 R776). -/
def Filt.ctl (f : Filt) : Word :=
  BitVec.ofNat 64 (f.cls.toNat * 2 ^ 40 + f.ins.toNat * 2 ^ 24 + b2n f.ien * 2 ^ 23 + f.half.toNat * 2 ^ 21 + f.priv.toNat)
/-- A control register as MFC reads it, but for PMVAL (R59). -/
def State.ctlVal (s : State) (l n : Nat) : Word :=
  let c := s.core l
  let a := c.arch
  let p := s.pair (pairOf l)
  let rb := fun f : Bank → Word => match a.rbank with | some k => f (a.bkOf k) | none => 0
  let rec_ := fun f : RecEntry → Word => rb (fun b => if 18 ≤ a.prsel.toNat then 0 else f (Tab.get {} b.prec a.prsel.toNat))
  match n with
  | 0 => cstatOf a.bk a.bank a.fpu (decide (p.mode = .split)) (decide (p.mode = .rx7))
  | 1 => a.fstat
  | 2 => cidOf l
  | 3 => a.bk.cepc
  | 4 => a.bk.ccause
  | 5 => a.bk.cbada
  | 6 => rb (fun b => b.mprog)
  | 7 => a.cvbar
  | 8 => p.cctl
  | 9 => rb (fun b => BitVec.ofNat 64 b.recCount)
  | 10 => a.hvbar
  | 11 => a.ssp
  | 12 => a.hsp
  | 13 => rb (fun b => b.cframe)
  | 14 => a.prsel.zeroExtend 64
  | 15 => rec_ (fun e => e.desc)
  | 16 => rec_ (fun e => e.val)
  | 17 => a.vpend
  | 18 => a.vmask
  | 48 => a.pmsel.zeroExtend 64
  | 50 => if 176 ≤ a.pmsel.toNat then 0 else Tab.get 0 s.perf.cfgs (perfKey (pairOf l) a.pmsel.toNat)
  | 51 => a.pmfsel.zeroExtend 64
  | 52 => (s.filt (pairOf l) a.pmfsel.toNat).ctl
  | 53 => (s.filt (pairOf l) a.pmfsel.toNat).lo.zeroExtend 64
  | 54 => (s.filt (pairOf l) a.pmfsel.toNat).hi.zeroExtend 64
  | _ => 0

/-- A control register as MFC reads it; PMVAL is the counter that PMSEL names (17 R773, R775). -/
def State.mfcVal (s : State) (l n : Nat) : Word × State :=
  if n = 49 then
    let k := (s.core l).arch.pmsel.toNat
    if 174 ≤ k then (0, s)
    else let r := s.pmRead (perfKey (pairOf l) k); (BitVec.ofNat 64 r.1, r.2)
  else (s.ctlVal l n, s)

/-- Clear the bits below bit n of a word. -/
def maskLow (n : Nat) (w : Word) : Word := BitVec.ofNat 64 (w.toNat / 2 ^ n * 2 ^ n)

/-- FSTAT after a write (R63, R64). -/
def fstatWrite (old w : Word) : Word :=
  BitVec.ofNat 64 ((if fld w.toNat 10 3 ≤ 4 then fld w.toNat 10 3 else fld old.toNat 10 3) * 2 ^ 10 + fld w.toNat 0 5)

/-- CSTAT after a write by level priv (R62). -/
def Arch.cstatWrite (a : Arch) (w : Nat) : Arch :=
  if a.priv = 0 then a.setBk { a.bk with ct := bit w 21 }
  else { a.setBk { a.bk with ct := bit w 21, ie := bit w 23 } with fpu := bit w 22 }

/-- Change the return bank; nothing in bank 0 (05 R227). -/
def Arch.modRet (a : Arch) (f : Bank → Bank) : Arch :=
  match a.rbank with
  | some k => a.setBkOf k (f (a.bkOf k))
  | none => a

def Arch.modRec (a : Arch) (f : RecEntry → RecEntry) : Arch :=
  if 18 ≤ a.prsel.toNat then a
  else a.modRet (fun b => { b with prec := Tab.set {} b.prec a.prsel.toNat (f (Tab.get {} b.prec a.prsel.toNat)) })

/-- The architectural registers after an MTC; CCTL and the counter registers are the pair's (R62, 05 R227, R238, R241,
17 R775). -/
def Arch.mtc (a : Arch) (n : Nat) (w : Word) : Arch :=
  match n with
  | 0 => a.cstatWrite w.toNat
  | 1 => { a with fstat := fstatWrite a.fstat w }
  | 3 => (a.setBk { a.bk with cepc := maskLow 2 w }).modRet (fun b => { b with pcLow := 0 })
  | 4 => a.setBk { a.bk with ccause := BitVec.ofNat 64 (fld w.toNat 63 1 * 2 ^ 63 + fld a.bk.ccause.toNat 56 3 * 2 ^ 56 + fld w.toNat 0 20) }
  | 6 => a.modRet (fun b => { b with mprog := maskLow 1 w })
  | 7 => { a with cvbar := maskLow 13 w }
  | 10 => { a with hvbar := maskLow 13 w }
  | 11 => { a with ssp := maskLow 4 w }
  | 12 => { a with hsp := maskLow 4 w }
  | 13 => a.modRet (fun b => { b with cframe := maskLow 4 w ||| BitVec.ofNat 64 (fld w.toNat 0 2) })
  | 14 => { a with prsel := BitVec.ofNat 5 w.toNat }
  | 15 => a.modRec (fun e => e.setDesc w.toNat)
  | 16 => a.modRec (fun e => { e with val := w })
  | 18 => { a with vmask := w }
  | 48 => { a with pmsel := BitVec.ofNat 8 w.toNat }
  | 51 => { a with pmfsel := BitVec.ofNat 3 w.toNat }
  | _ => a

/-- A filter register after a write (17 R776). -/
def Filt.write (f : Filt) (n : Nat) (w : Nat) : Filt :=
  match n with
  | 52 => { f with cls := BitVec.ofNat 8 (fld w 40 8), ins := BitVec.ofNat 13 (fld w 24 13), ien := bit w 23,
                   half := if fld w 21 2 = 3 then f.half else BitVec.ofNat 2 (fld w 21 2), priv := BitVec.ofNat 3 w }
  | 53 => { f with lo := BitVec.ofNat 52 w }
  | _ => { f with hi := BitVec.ofNat 52 w }

/-- PMCFG and the filter registers of a pair after an MTC (17 R775, R776); earlier events are counted under the settings that they met (R778). -/
def State.perfMtc (s : State) (l n : Nat) (w : Word) : State :=
  let a := (s.core l).arch
  if n = 50 then
    if 176 ≤ a.pmsel.toNat then s
    else
      let chain := bit w.toNat 4 && decide (a.pmsel.toNat % 2 = 0)
      let t := s.pmSettle (perfKey (pairOf l) a.pmsel.toNat)
      { t with perf := { t.perf with cfgs := Tab.set 0 t.perf.cfgs (perfKey (pairOf l) a.pmsel.toNat) (BitVec.ofNat 64 (b2n chain * 16 + fld w.toNat 0 3)) } }
  else if n = 52 || n = 53 || n = 54 then
    let k := 8 * pairOf l + a.pmfsel.toNat
    let t := s.pmSettleAll (pairOf l) (fun f => decide (f = a.pmfsel.toNat))
    { t with perf := { t.perf with filts := Tab.set {} t.perf.filts k ((Tab.get {} t.perf.filts k).write n w.toNat) } }
  else s

end Sys2Proof.Machine
end

