-- ==== Sys2Proof/Machine/Twin.lean ====
section
/-! DEFINITION. The sending side of the twin link (16 R737 to R741): flits waiting by virtual channel, credits, sequence numbers, the
unacknowledged flits, and the ledger mirrors that flits carry (10 R539). -/

namespace Sys2Proof.Machine

/-- The receive buffer of a virtual channel in flits (R739). -/
def vcBuffer (vc : Nat) : Nat := match vc with | 0 => 256 | 1 => 1024 | 2 => 1024 | _ => 2048

def DpxSub.bnd (d : DpxSub) (b : Nat) : Bundle := Tab.get {} d.bnds b
def DpxSub.setBnd (d : DpxSub) (b : Nat) (x : Bundle) : DpxSub := { d with bnds := Tab.set {} d.bnds b x }
def DpxSub.credit (d : DpxSub) (vc : Nat) : Nat := Tab.get 0 d.credits vc
def DpxSub.setCredit (d : DpxSub) (vc n : Nat) : DpxSub := { d with credits := Tab.set 0 d.credits vc n }

/-- The bundle that a virtual channel uses now: its own, or the other while its own is down (R739, R742). -/
def DpxSub.route (d : DpxSub) (vc : Nat) : Option Nat :=
  let home := vc / 2
  if (d.bnd home).st = 2 then some home else if (d.bnd (1 - home)).st = 2 then some (1 - home) else none

/-- A flit of virtual channel vc can be sent now (R739, R741). -/
def DpxSub.canSend (d : DpxSub) (vc : Nat) : Option Nat :=
  match d.route vc with
  | some b => if 0 < d.credit vc && decide ((d.bnd b).unacked.length < 2048) then some b else none
  | none => none

/-- The credits that the next flit returns: those owed on the lowest virtual channel that has any (R738). -/
def DpxSub.owed (d : DpxSub) : Nat × Nat :=
  match (List.range 4).find? (fun v => decide (0 < Tab.get 0 d.rxCredits v)) with
  | some v => (v, Nat.min 255 (Tab.get 0 d.rxCredits v))
  | none => (0, 0)

/-- Put a data flit on bundle b: the next SEQ, and the last SEQ received in order (R738). -/
def DpxSub.transmit (d : DpxSub) (b vc : Nat) (payload : List Byte) (tag : Option Nat) : DpxSub :=
  let x := d.bnd b
  let (v, n) := d.owed
  let f : Flit := { typ := 1, vc := BitVec.ofNat 2 vc, seq := BitVec.ofNat 12 x.txNext, ackseq := BitVec.ofNat 12 (x.rxNext + 4095), ackv := true,
                    crvc := BitVec.ofNat 2 v, crcnt := BitVec.ofNat 8 n, payload := payload }
  let d1 := d.setBnd b { x with txNext := (x.txNext + 1) % 4096, unacked := x.unacked ++ [f] }
  { d1 with rxCredits := Tab.set 0 d1.rxCredits v (Tab.get 0 d1.rxCredits v - n),
            mirrors := match tag with | some l => d1.mirrors ++ [(b, x.txNext, l)] | none => d1.mirrors }

/-- Send the first waiting flit of the lowest virtual channel that can send (R739). -/
def DpxSub.sendOne (d : DpxSub) : Option DpxSub :=
  (List.range 4).findSome? (fun vc =>
    match d.canSend vc, d.txq.find? (fun q => decide (q.1 = vc)) with
    | some b, some q => some ((({ d with txq := d.txq.erase q } : DpxSub).setCredit vc (d.credit vc - 1)).transmit b vc q.2.1 q.2.2)
    | _, _ => none)

def DpxSub.pumpN : Nat → DpxSub → DpxSub
  | 0, d => d
  | n + 1, d => match d.sendOne with | some e => DpxSub.pumpN n e | none => d

/-- Send every waiting flit that can be sent. -/
def State.twinPump (s : State) : State := { s with dpx := s.dpx.pumpN s.dpx.txq.length }

/-- A message of one flit: its 8-byte header, whose KIND and length are free, and its body (R740). -/
def State.twinSend (s : State) (vc : Nat) (body : List Byte) (tag : Option Nat) : State :=
  let (w, s1) := s.draw
  let hdr := leBytes 8 (putFld w 0 32 s.dpx.lastMark.toNat).toNat
  ({ s1 with dpx := { s1.dpx with txq := s1.dpx.txq ++ [(vc, hdr ++ body, tag)] } } : State).twinPump

/-! ## Batch marks and the copy of re-pairing (R748, R761, R762) -/

/-- The lag after a mark is answered or sent, and whether the leader's cores and agents freeze (R748). -/
def DpxSub.setLag (d : DpxSub) (n : Nat) : DpxSub := { d with lag := n, frozen := if 64 ≤ n then true else if n ≤ 32 then false else d.frozen }

/-- The leader has still to send the mark of this tick boundary (R748, 01 R53). -/
def State.markDue (s : State) : Bool := decide (s.dpx.st = .paired) && s.dpx.leadSt && !s.dpx.marked && !s.moduleStopped
def State.batchMark (s : State) : State :=
  ({ s with dpx := ({ s.dpx with lastMark := s.time.dtime, marked := true, marks := s.dpx.marks + 1 } : DpxSub).setLag (s.dpx.lag + 1) } : State).twinSend 1 [] none

/-- The ranges of memory that the copy covers, in ascending order: near memory, then the online far slots (R761). -/
def State.copySegs (s : State) : List (Nat × Nat) :=
  (0, nearTop) :: (((List.range 8).filter (fun f => (s.farSlot f).online)).map (fun f => (farLo + 2 ^ 41 * f, farLo + 2 ^ 41 * f + (s.farSlot f).size / 128 * 128)))

/-- The cursor after n lines from a. -/
def copyOn : List (Nat × Nat) → Nat → Nat → Nat
  | [], a, _ => a
  | (lo, hi) :: rest, a, n =>
    let b := Nat.max a lo
    if hi ≤ b then copyOn rest a n
    else if b + 128 * n ≤ hi then b + 128 * n
    else copyOn rest hi (n - (hi - b) / 128)

/-- The copy has passed every line. -/
def State.copyEnd (s : State) : Nat := (s.copySegs.getLastD (0, nearTop)).2

/-- The lines of a granule of the bitmap, numbered as mirrorWrite numbers them (R762). -/
def granuleLines (g : Nat) : Nat := if g < 2 ^ 40 then 32 else 1024

/-- The marked granules left after n lines of the bitmap pass; a granule keeps its bit until it is copied whole. -/
def bitmapPass : List Nat → Nat → List Nat
  | [], _ => []
  | g :: gs, n => if granuleLines g ≤ n then bitmapPass gs (n - granuleLines g) else g :: gs

/-- The copy of this epoch is still to be made: 3,072 lines at its boundary (R761, 01 R53). -/
def State.copyDue (s : State) : Bool :=
  let d := s.dpx
  decide (d.st = .repair) && !d.paused && d.bnds.any (fun e => e.2.st = 2) && !s.moduleStopped && s.time.atEpoch && !d.copied
def State.repairCopy (s : State) : State :=
  let d := s.dpx
  if d.cursor < s.copyEnd then { s with dpx := { d with cursor := copyOn s.copySegs d.cursor 3072, copied := true } }
  else { s with dpx := { d with bitmap := bitmapPass d.bitmap 3072, copied := true } }

/-! ## The order log (R747, R750) -/

/-- The module leads, or follows, a pair (R746). -/
def DpxSub.leads (d : DpxSub) : Bool := decide (d.st = .paired) && d.leadSt
def DpxSub.follows (d : DpxSub) : Bool := decide (d.st = .paired) && !d.leadSt

/-- An entry as a message of VC1 carries it, in 18 bytes, and the entries of a message body (log entry 134). -/
def Grant.bytes (g : Grant) : List Byte := leBytes 1 g.kind ++ leBytes 1 g.agent ++ leBytes 8 g.addr ++ leBytes 8 g.val.toNat
def grantsOf (bs : List Byte) : List Grant :=
  (List.range (bs.length / 18)).map (fun k => { kind := leAt bs (18 * k) 1, agent := leAt bs (18 * k + 1) 1, addr := leAt bs (18 * k + 2) 8, val := BitVec.ofNat 64 (leAt bs (18 * k + 10) 8) })

/-- The message of VC0 that tells the peer of the end of the drain of an instance, and its reading (12 R626; log entry 138). -/
def doneBytes (i : Nat) : List Byte := leBytes 2 0x0D01 ++ leBytes 2 i
def doneOf (bs : List Byte) : List Nat := if bs.length = 4 && leAt bs 0 2 = 0x0D01 then [leAt bs 2 2] else []

/-- The two concern one line, one bit, or the time readings of one core. -/
def Grant.meets (g h : Grant) : Bool := decide (g.kind = h.kind) && decide (g.addr = h.addr) && (decide (g.kind ≠ 2) || decide (g.agent = h.agent))

/-- The next entry of the log that meets g. -/
def DpxSub.next (d : DpxSub) (g : Grant) : Option Grant := d.order.find? (fun h => h.meets g)

/-- The turn for g has come: always but on the follower, whose directory grants in the leader's order (R747). -/
def DpxSub.turn (d : DpxSub) (g : Grant) : Bool := !d.follows || (match d.next g with | some h => decide (h.agent = g.agent) | none => false)

/-- The directory makes the grant g: the leader logs it, the follower takes it from the log. -/
def State.grant (s : State) (g : Grant) : State :=
  if s.dpx.leads then s.twinSend 1 g.bytes none
  else if s.dpx.follows then (match s.dpx.next g with | some h => { s with dpx := { s.dpx with order := s.dpx.order.erase h } } | none => s)
  else s

/-- The flits of bundle b up to SEQ q are acknowledged: they are dropped, and the ledger entries that they mirror are answered. -/
def DpxSub.acked (d : DpxSub) (b q : Nat) : DpxSub × List Nat :=
  let x := d.bnd b
  match x.unacked.findIdx? (fun f => decide (f.seq.toNat = q)) with
  | none => (d, [])
  | some k =>
    let gone := (x.unacked.take (k + 1)).map (fun f => f.seq.toNat)
    let hit := fun m : Nat × Nat × Nat => decide (m.1 = b) && gone.contains m.2.1
    ({ d.setBnd b { x with unacked := x.unacked.drop (k + 1), replays := 0 } with mirrors := d.mirrors.filter (fun m => !hit m) },
     (d.mirrors.filter hit).map (·.2.2))

end Sys2Proof.Machine
end

