-- ==== Sys2Proof/Machine/Ops.lean ====
section
/-! DEFINITION. The operations that core instructions share: what a memory read gives (07 R314, R333, 13 R648), the check
of an access before its group issues (02 R89), trap and interrupt entry and the return from it (05 R214 to R236), and
the effect of a written translation context (07 R364). -/

namespace Sys2Proof.Machine

/-! ## The ledger as level H reads it (10 R512) -/

def LedSt.code : LedSt → Nat
  | .free => 0
  | .issued => 1
  | .accepted => 2
  | .data => 3
  | .complete => 4
  | .retired => 5

/-- The 128 bytes of a ledger entry. -/
def Led.view (e : Led) : List Byte :=
  leBytes 1 (e.st.code + b2n e.mirrored * 8 + b2n e.rfence * 16 + b2n e.idem * 32) ++ leBytes 1 e.path ++ leBytes 1 e.tried ++ leBytes 1 e.attempt
  ++ leBytes 2 e.ins ++ leBytes 1 e.gen ++ leBytes 1 e.opc ++ leBytes 2 e.ep ++ leBytes 2 0 ++ leBytes 4 e.qp ++ leBytes 4 e.osn ++ leBytes 4 e.xid.toNat
  ++ leBytes 8 e.tfirst.toNat ++ leBytes 8 e.tissue.toNat ++ leBytes 8 e.tdead.toNat ++ leBytes 4 e.bytes ++ leBytes 2 e.status ++ leBytes 2 e.pstat.toNat
  ++ leBytes 4 e.pdw0.toNat ++ leBytes 4 0 ++ padTo 48 ((e.desc.drop 16).take 48) ++ List.replicate 16 0

/-! ## Reading memory for a core -/

/-- What a read gives: bytes, or poison at an address; with the state after its reports. -/
structure CoreRd where
  val : Option (List Byte)
  bad : Nat
  st : State

/-- A read of bytes of one line of near or far memory by core l, h at level H; a carve-out byte reads all ones but for
the ledger in a WB or UC load at level H (13 R648), and so does a byte that no device backs (07 R333). What the decode of its stripe finds is reported (13 R634). -/
def State.readPart (s : State) (l : Nat) (h : Bool) (a len atype : Nat) : CoreRd :=
  if isCarve a then
    if h && decide (atype = 0x01) && decide (a < ledgerTop) then ⟨some (((s.led ((a - carveLo) / 128)).view.drop (a % 128)).take len), 0, s⟩
    else ⟨some (List.replicate len 255), 0, s.report 1282 (payCore clDE s l a atype)⟩
  else if !s.backed a then ⟨some (List.replicate len 255), 0, s.report (968 + (a - farLo) / 2 ^ 41 % 8) (payCore clUE s l a atype)⟩
  else
    match s.cohLine (a / 128) with
    | none => ⟨none, a, s.coreSees l a atype⟩
    | some d => ⟨some ((d.drop (a % 128)).take len), 0, s.coreSees l a atype⟩

/-- A read of bytes, line by line; n bounds the lines. -/
def State.readN (l : Nat) (h : Bool) (atype : Nat) : Nat → State → Nat → Nat → CoreRd
  | 0, s, _, _ => ⟨some [], 0, s⟩
  | n + 1, s, a, len =>
    if len = 0 then ⟨some [], 0, s⟩
    else
      let k := Nat.min len (128 - a % 128)
      let r := s.readPart l h a k atype
      match r.val with
      | none => r
      | some bs =>
        let r2 := State.readN l h atype n r.st (a + k) (len - k)
        ⟨r2.val.map (bs ++ ·), r2.bad, r2.st⟩

def State.readMem (s : State) (l : Nat) (h : Bool) (a len atype : Nat) : CoreRd := State.readN l h atype (len / 128 + 2) s a len

/-- The bytes of the scratchpad as the pair sees them: an L1D copy of the line before the converted ways (R328, R346). -/
def Pair.scrByte (p : Pair) (off : Nat) : Byte :=
  match p.l1d.find (scrLine off) with
  | some l => BitVec.ofNat 8 (l.data.toNat / 256 ^ (off % 128))
  | none => Tab.get 0 p.scr off
def Pair.scrBytes (p : Pair) (off len : Nat) : List Byte := (List.range len).map (fun k => p.scrByte (off + k))

/-- A write of bytes of one scratchpad line: allocated dirty in L1D, or into the converted ways with L1D off; nothing beyond them (R331, R346, R352,
R353). -/
def State.scrWrite (s : State) (n off : Nat) (bs : List Byte) : State :=
  let p := s.pair n
  let keep := bs.take (131072 * p.scrw - off)
  if keep.isEmpty then s
  else if p.l1dOn then s.l1dPut n { num := scrLine off, dirty := true, data := lineOf (overlay (p.scrBytes (off / 128 * 128) 128) (off % 128) keep) }
  else s.setPair n { p with scr := Tab.setMany 0 p.scr off keep }

/-- Bring the scratchpad line of an offset into L1D (R328, R349). -/
def State.fillScr (s : State) (n off : Nat) : State :=
  let p := s.pair n
  let num := scrLine off
  if !p.l1dOn then s
  else if (p.l1d.find num).isSome then s.setPair n { p with l1d := p.l1d.hit geoL1d num }
  else s.l1dPut n { num := num, dirty := false, data := lineOf (p.scrBytes (off / 128 * 128) 128) }

/-- The newest unreleased store of the core to a byte (07 R314). -/
def fwdMem (sb : List SbEntry) (a : Nat) : Option Byte :=
  sb.foldl (fun r e => match e.kind with
    | .mem pa bs _ => if pa ≤ a ∧ a < pa + bs.length then bs[a - pa]? else r
    | _ => r) none
def fwdScr (sb : List SbEntry) (a : Nat) : Option Byte :=
  sb.foldl (fun r e => match e.kind with
    | .scr pa bs => if pa % 2 ^ 20 ≤ a ∧ a < pa % 2 ^ 20 + bs.length then bs[a - pa % 2 ^ 20]? else r
    | _ => r) none

/-- Overlay forwarded bytes. -/
def overFwd (fs : List (Option Byte)) (bs : List Byte) : List Byte := (bs.zip (fs ++ List.replicate bs.length none)).map (fun p => p.2.getD p.1)

/-- The Rind source of an uncorrectable near stripe or far line (14 R686, 13 R628), and the address in its record (05
R241, 13 R644); a far line whose POISON bit is 1 is returned without a record, which leaves 0 (13 R653). -/
def poisonSrc (a : Nat) : Nat := if isNear a then 904 + stripeOf a % 8 else 968 + (a - farLo) / 2 ^ 41 % 8
def State.poisonAddr (s : State) (a : Nat) : Nat := if isNear a || s.farBad (a / 128) then seenAt (a / 128) else 0

/-- A read of len bytes of the scratchpad by core l at a physical address: all ones with a UE record where nothing backs the
address (R331, R333). -/
def State.readScr (s : State) (l pa len atype : Nat) : CoreRd :=
  if !s.backed pa then ⟨some (List.replicate len 255), 0, s.report (968 + (pa - farLo) / 2 ^ 41 % 8) (payCore clUE s l pa atype)⟩
  else ⟨some ((s.pair (pairOf l)).scrBytes (pa % 2 ^ 20) len), 0, s⟩

/-! ## The check of an access (R89, R127, R129, R133, R331, R332, 07 R336, R366, R367) -/

/-- A checked access: effective address, bytes, what every stage must permit, the alignment that the operation asks
for, and whether a DEV region refuses it. -/
structure Req where
  ea : Nat
  n : Nat
  need : Need
  align : Nat := 1
  noDev : Bool := false
deriving DecidableEq, Repr

/-- A piece of an access within one page. -/
structure Piece where
  pa : Nat
  len : Nat
  mt : Nat
deriving DecidableEq, Repr

inductive Acc where
  | ok (ps : List Piece)
  | trap (t : Trap)
  | poison (pa : Nat)
deriving DecidableEq, Repr

/-- The pieces of an access by 4 KiB page; addresses wrap at 2^64. -/
def pageSplit (ea n : Nat) : List (Nat × Nat) :=
  let k := 4096 - ea % 4096
  if n ≤ k then [(ea, n)] else [(ea, k), ((ea + k) % 2 ^ 64, n - k)]

/-- The access field of CCAUSE.INFO (05 R241). -/
def Need.code : Need → Nat
  | .r => 0
  | .w => 1
  | .rw => 2
  | .x => 3

/-- The translation faults as traps: stage in INFO[0], access in INFO[2:1]. A fetch fault of a later word of a group has SLOT 0 (DESIGN CHOICE: R241 does
not say whether that word's slot stands there; log entry 154). -/
def pageTrap (cause : Cause) (hyp : Bool) (fipa hole : Option Nat) (need : Need) (va : Nat) : Trap :=
  { cause := cause, info := b2n hyp + 2 * need.code, bada := va, hyp := hyp, fipa := fipa, hole := hole }

/-- The check of one access of core l; c is its state, priv the level it is made at. Of a block move from or to DEV the address in the DEV region must
be aligned, the other need not (DESIGN CHOICE: 03 R150 does not say which; log entry 142). -/
def State.access (s : State) (l : Nat) (c : Core) (priv : BitVec 2) (q : Req) : Acc :=
  let rs := (pageSplit q.ea q.n).map (fun p => (p, s.translate c priv q.need p.1))
  let scrTop := 131072 * (s.pair (pairOf l)).scrw
  match rs.findSome? (fun r => match r.2 with | .poison pa => some pa | _ => none) with
  | some pa => .poison pa
  | none =>
    let isDev := rs.any (fun r => match r.2 with | .ok _ mt => decide (mt = 2) | _ => false)
    let dtype := rs.any (fun r => match r.2 with
      | .ok pa mt => (isCtl pa && decide (mt ≠ 2)) || (decide (mt = 3) && decide (scrTop < pa % 2 ^ 20 + r.1.2)) || (decide (mt = 2) && q.noDev)
      | _ => false)
    if q.ea % q.align ≠ 0 || (isDev && q.ea % q.n ≠ 0) then .trap { cause := .dalign, bada := q.ea }
    else if dtype then .trap { cause := .dtype, bada := q.ea }
    else
      match rs.findSome? (fun r => match r.2 with | .fault h f o => some (pageTrap .dpage h f o q.need r.1.1) | _ => none) with
      | some t => .trap t
      | none => .ok (rs.filterMap (fun r => match r.2 with | .ok pa mt => some ⟨pa, r.1.2, mt⟩ | _ => none))

/-- The check of the fetch of words: a trap, poison, or none (R160, 05 R239, R243). -/
inductive FetchRes where
  | ok
  | trap (t : Trap)
  | poison (pa : Nat)
deriving DecidableEq, Repr

/-- A group one of whose words stands where nothing backs the address, or in the carve-out: its fetch makes a record (07 R333, 13 R648). -/
def State.fetchHole (s : State) (c : Core) (ws : List Nat) : Option Nat :=
  ws.findSome? (fun a => match s.translate c c.priv .x (a % 2 ^ 64) with | .ok pa _ => if s.backed pa && !isCarve pa then none else some pa | _ => none)

def State.fetchCheck (s : State) (c : Core) : List Nat → FetchRes
  | [] => .ok
  | a :: as =>
    match s.translate c c.priv .x (a % 2 ^ 64) with
    | .fault h f o => .trap (pageTrap .ipage h f o .x (a % 2 ^ 64))
    | .poison pa => .poison pa
    | .ok pa _ => if s.backed pa && (s.cohLine (pa / 128)).isNone then .poison pa else State.fetchCheck s c as

/-! ## Trap causes (05 R239) -/

def Cause.code : Cause → Nat
  | .ialign => 1
  | .ipage => 2
  | .illgrp => 3
  | .illop => 4
  | .priv => 5
  | .fpdis => 6
  | .illrep => 7
  | .dalign => 8
  | .bspace => 9
  | .dtype => 10
  | .dpage => 11
  | .svc => 12
  | .bankx => 13
  | .mchk => 14
  | .intr => 16

/-- The vector offset; INFO of an interrupt is its vector. -/
def Trap.offset (t : Trap) : Nat := if t.cause = .intr then 0x1000 + 0x40 * t.info else 0x100 * t.cause.code

/-- The level of the event, and the level entered from a level (R221, R233). -/
def Trap.level (t : Trap) (priv : BitVec 2) : BitVec 2 :=
  let ev : BitVec 2 := if t.cause = .svc then (if priv = 0 then 1 else 2) else if t.hyp then 2 else 1
  if ev.ult priv then priv else ev

/-- The trap taken of several: the lowest priority number, then the lowest slot (R239). -/
def firstTrap : List Trap → Option Trap
  | [] => none
  | t :: ts =>
    match firstTrap ts with
    | none => some t
    | some u => if u.cause.code < t.cause.code || (u.cause.code = t.cause.code && u.slot < t.slot) then some u else some t

/-! ## Entry -/

/-- The destination code of a record entry (R231). -/
def Dst.code : Dst → Nat
  | .g r => r
  | .f r => 64 + r
  | .b r => 128 + r
  | .nowhere n => n
  | _ => 255
def dstOf (n : Nat) : Dst :=
  if n < 64 then .g n else if n < 96 then .f (n - 64) else if 128 ≤ n ∧ n < 192 then .b (n - 128) else .nowhere n

/-- A result in flight as a record entry (R103, R106). -/
def Flight.entry (f : Flight) : RecEntry :=
  { valid := true, fflags := f.flags, left := BitVec.ofNat 2 f.left, dest := BitVec.ofNat 8 f.dst.code, val := f.val }

/-- Number the entries of a list from k. -/
def numbered {α : Type} : Nat → List α → Tab α
  | _, [] => []
  | k, x :: xs => (k, x) :: numbered (k + 1) xs

/-- A result for the record, which keeps its destination also where it names nothing (R103, R231): a block move has none (R90), and
poison enters no entry (R243): its bank keeps it beside the record (log entry 122). -/
def Dst.parks : Dst → Bool
  | .block | .poison _ => false
  | _ => true

/-- The results in flight move into the record of the bank in use (R103). Of more than 18, which only a record that software has written
can bring about (R104), the first 18 are kept (DESIGN CHOICE: the spec does not say; log entry 147). -/
def Arch.park (a : Arch) : Arch :=
  { a.setBk { a.bk with prec := numbered 0 (((a.infl.filter (fun f => f.dst.parks)).take 18).map Flight.entry),
                        pois := a.infl.filterMap (fun f => match f.dst with | .poison pa => some (f.left, pa) | _ => none) } with infl := [] }

/-- The frame that an entry reserves (R222, R225). -/
def frameSize (fpu : Bool) : Nat := 640 + (if fpu then 256 else 0)

/-- Entry into bank nb for a trap that has the given resume address (R222, R233, R234). -/
def Arch.enterTo (a : Arch) (nb : Nat) (t : Trap) (cepc : Word) : Arch :=
  let b := a.bk
  let lv := t.level b.priv
  let sp := if b.priv.ult lv then (if lv = 1 then a.ssp else a.hsp) else b.rg 2
  let g2 := sp - BitVec.ofNat 64 (frameSize a.fpu)
  let args := if t.cause = .svc then (List.range 8).map (fun k => (3 + k, b.rg (3 + k))) else []
  let g := args.foldl (fun m p => Tab.set 0 m p.1 p.2) (Tab.set 0 [] 2 g2)
  let a1 := a.park
  let ob := { a1.bk with cframe := maskLow 4 g2, fpx := a.fpu, pcLow := if t.cause = .ialign then 0 else BitVec.ofNat 2 a.pc.toNat }
  let cc : Word := BitVec.ofNat 64 (b2n (decide (t.cause = .intr)) * 2 ^ 63 + a.bank * 2 ^ 56 + t.info % 2 ^ 12 * 2 ^ 8 + t.slot % 4 * 2 ^ 6 + t.cause.code)
  let nbk : Bank := { g := g, priv := lv, ipl := if t.cause = .intr then BitVec.ofNat 3 t.prio else b.ipl, cepc := maskLow 2 cepc, ccause := cc,
                      cbada := BitVec.ofNat 64 t.bada }
  let base := if lv = 2 then a.hvbar else a.cvbar
  { ((a1.setBk ob).setBkOf nb nbk) with bank := nb, pc := maskLow 2 (base + BitVec.ofNat 64 t.offset), repLeft := none, tas := false, repStep := none, rest := [] }

/-- The event taken from bank k: itself, or bank exhaustion in its place (R216 to R218), with SLOT 0 (DESIGN CHOICE: R241 gives INFO and CBADA
of the replaced event alone; log entry 153). -/
def Trap.inBank (t : Trap) (k : Nat) : Trap :=
  if t.cause ≠ .mchk && k = 6 then { cause := .bankx, info := t.cause.code, bada := t.bada, slot := 0, hyp := true } else t

/-- The bank that an event taken from bank k enters (R216 to R218). -/
def Trap.bankFrom (t : Trap) (k : Nat) : Nat := if t.cause = .mchk then 7 else k + 1

/-- Nothing of the group at hand remains, and a barrier or wait is left (R107, 07 R324). -/
def Core.dropGroup (c : Core) : Core := { c with group := [], barrier := none, waiting := false, entryWait := none }

/-- Entry from a bank below 7. -/
def Core.enter (c : Core) (t : Trap) (cepc : Word) : Core :=
  let k := c.arch.bank
  let u := t.inBank k
  let at_ := if t.cause = .svc && k = 6 then cepc - 4 else cepc
  let c1 := { c.dropGroup with arch := c.arch.enterTo (u.bankFrom k) u at_ }
  let c2 := match t.fipa with | some f => { c1 with fipa := BitVec.ofNat 64 (f % 2 ^ 52 / 4096 * 4096) } | none => c1
  if u.cause = .intr then { c2 with arch := { c2.arch with vpend := c2.arch.vpend &&& ~~~(BitVec.ofNat 64 (2 ^ (t.info % 64))) } } else c2

/-! ## Checkpoints (06 R268 to R272) -/

/-- The checkpoint of core l as it stands. -/
def State.ckpt (s : State) (l : Nat) : Ckpt :=
  let c := s.core l
  let n := pairOf l
  { arch := c.arch, waiting := c.waiting, misses := c.misses, lctxCur := c.lctxCur, cctl := (s.pair n).cctl,
    cfgs := Tab.sliceOf s.perf.cfgs (perfKey n 0) (perfKey (n + 1) 0), filts := Tab.sliceOf s.perf.filts (8 * n) (8 * n + 8) }

/-- The Press captures a checkpoint: what stands in the store buffer is covered by it, and so is every logged result of an
access that need not be executed again (R268, R272, R275). A capture in progress is replaced. A pair whose restore, BIST or sparing has not ended is not
captured: it has not resumed (R278, R283 to R286). -/
def State.capture (s : State) (l : Nat) : State :=
  let c := s.core l
  if (decide (c.run ≠ .running) && decide (c.run ≠ .halted)) || c.persistent || c.freezes.contains .restore || c.freezes.contains .sparing then s
  else s.setCore l { c with capturing := some (s.ckpt l), sb := c.sb.map (fun e => if e.cov = 0 then { e with cov := 1 } else e),
                            once := c.once.map (fun e => if e.again then e else { e with cap := true }), capDue := false, groups := 0, exec := c.exec + 1 }

/-- The capture at the first boundary after the result of a once-only access has landed or a DEV store has completed
(R268), and the one that an agreed halt waits for (R266); while an RDTIME awaits its agreed value it waits, so that no seal leaves that value
behind (R308). -/
def State.settle (s : State) (l : Nat) : State :=
  let c := s.core l
  if decide (c.owed = 0) && !c.freezes.contains .agreement && ((c.capDue && c.arch.infl.all (fun f => !f.once || f.wait.isSome))
      || (c.halting && c.capturing.isNone && c.misses.isEmpty && c.arch.infl.all (fun f => f.wait.isNone)))
  then s.capture l else s

/-- The pair runs RX7-compatible, and E runs n more beats of it: E never leads by more than 4,096, and freezes within an entry, a return or
a save until O has closed the gap (R298). -/
def State.isRx7 (s : State) (l : Nat) : Bool := decide ((s.pair (pairOf l)).mode = .rx7)
def State.rxBeats (s : State) (l n : Nat) : State :=
  if s.isRx7 l then
    let p := s.pair (pairOf l)
    let lead := Nat.min 4096 (p.lead + n)
    (s.modCore l (fun c => { c with arch := { c.arch with pos := c.arch.pos + n }, rlog := c.rlog.filter (fun e => decide (c.arch.pos + n - lead < e.1)) })).setPair
      (pairOf l) { p with lead := lead }
  else s
/-- E may lead by n more beats (R298). -/
def State.rxRoom (s : State) (l n : Nat) : Bool := !s.isRx7 l || decide ((s.pair (pairOf l)).lead + n ≤ 4096)
/-- The capture every 1,024 issue groups of RX7-compatible mode, or at the first boundary after it with no once-only access outstanding (R300; log
entry 130). -/
def State.rxDue (s : State) (l : Nat) : State :=
  let c := s.core l
  if 1024 ≤ c.groups && decide (c.owed = 0) && !c.freezes.contains .agreement && c.misses.all (fun m => m.key.isNone) then s.capture l else s
/-- An issue group of n beats in RX7-compatible mode, and a further iteration of a repeat, which is part of the group that began it (R300, 03 R170). -/
def State.rxGroup (s : State) (l n : Nat) : State :=
  if s.isRx7 l then ((s.rxBeats l n).modCore l (fun c => { c with groups := c.groups + 1 })).rxDue l else s
def State.rxIter (s : State) (l n : Nat) : State := if s.isRx7 l then (s.rxBeats l n).rxDue l else s
/-- A load response, none when it comes as poison, or an agreed input enters the log that O consumes (R299). -/
def State.rxResp (s : State) (l : Nat) (v : Option Word) : State :=
  if s.isRx7 l then s.modCore l (fun c => { c with rlog := c.rlog ++ [(c.arch.pos, v)] }) else s
def State.rxLog (s : State) (l : Nat) (v : Word) : State := s.rxResp l (some v)
/-- O has run up to position p of E's stream and consumed the log so far (R298, R299). -/
def State.rxReach (s : State) (l p : Nat) : State :=
  if s.isRx7 l then
    let c := s.core l
    let lead := Nat.min (s.pair (pairOf l)).lead (c.arch.pos - p)
    (s.setCore l { c with rlog := c.rlog.filter (fun e => decide (c.arch.pos - lead < e.1)) }).setPair (pairOf l) { s.pair (pairOf l) with lead := lead }
  else s

/-! ## Entry of a core -/

/-- The event acknowledge of an interrupt taken: a MODE 1 source raises again (05 R247); in RX7-compatible mode it leaves the
pair only after a comparison (06 R257, R300). -/
def State.ackEvent (s : State) (l v : Nat) : State := s.erAgain (fun e => !e.virt && decide (e.lc = l) && decide (e.vec = v))

/-- Core l takes a trap, interrupt or machine check; in bank 7 all but an interrupt stops the core with a report of
class FC (R219, R220). An interrupt taken starts the moderation interval that its delivery began with (R248, R250). The entry
occupies 6 beats (R224), with a capture before it and after it (06 R268); fin is what else completes with it. -/
def State.enterThen (s : State) (l : Nat) (t : Trap) (cepc : Word) (fin : State → State) : State :=
  let c := s.core l
  if c.arch.bank = 7 then
    (s.setCore l { c.dropGroup with run := .stopped }).report (s.coreSrc (pairOf l) (decide (l % 2 = 1)) 3)
      (s.payPair l clFC)
  else
    let s0 := s.capture l
    let s1 := (s0.setCore l ((s0.core l).enter t cepc)).rxBeats l 6
    let s2 :=
      if t.cause = .intr && c.arch.bank ≠ 6 then
        let t0 := s1.modCore l (fun d => { d with vecIn := d.vecIn ++ [(t.info, (s1.cv l t.info).next)] })
        let t1 := t0.setCv l t.info { s1.cv l t.info with next := s.time.ticks + t.modt }
        if s.isRx7 l then t1.modCore l (fun d => { d with acks := d.acks ++ [t.info] }) else t1.ackEvent l t.info
      else s1
    (fin s2).capture l
def State.enter (s : State) (l : Nat) (t : Trap) (cepc : Word) : State := s.enterThen l t cepc id

/-- Data that came as poison and has not been consumed yet. -/
def Core.poisonFlight (c : Core) : Option Nat := c.arch.infl.findSome? (fun f => match f.dst with | .poison p => some p | _ => none)

/-- The core without the data that came as poison. -/
def Core.noPoison (c : Core) : Core := { c with arch := { c.arch with infl := c.arch.infl.filter (fun f => match f.dst with | .poison _ => false | _ => true) } }

/-- A walk or a fetch of core l has read a poisoned entry or word: the core stands before a machine check (R243), after the record of what the
decode found (13 R634). -/
def State.walkPoison (s : State) (l pa : Nat) : State := (s.walkSees l pa).modCore l (fun c => { c with poisoned := some pa })

/-- A translation fault whose walk read an entry that nothing backs makes the UE record of that read, with its machine check (07 R333, R369), and one whose walk
read an entry in the carve-out the DE record of that (13 R648); the fault comes after a machine check that is then pending (R240). -/
def State.walkHole (s : State) (l : Nat) (t : Trap) : State :=
  match t.hole with
  | some pa =>
    if isCarve pa then s.report 1282 { payCore clDE s l pa 0x05 with unit := 2 }
    else s.report (968 + (pa - farLo) / 2 ^ 41 % 8) { payCore clUE s l pa 0x05 with unit := 2 }
  | none => s

/-- Entry, after the miss still outstanding (R103). Before an entry other than a machine check, poison that has arrived is
taken first as a machine check (R240, R243); at the entry of a machine check it stays in flight with the bank left, and its own machine check is taken before the group of its
delivery beat, after the return (DEDUCED; log entry 122). -/
def State.take (s0 : State) (l : Nat) (t : Trap) (cepc : Word) : State :=
  let s := s0.walkHole l t
  let c := s.core l
  if t.hole.isSome && c.mchk.isSome then s.setCore l c.dropGroup
  else if c.misses.isEmpty then
    (if t.cause = .mchk then s.enter l t cepc
    else match c.poisonFlight with
    | some pa => s.setCore l { c.dropGroup.noPoison with poisoned := some pa }
    | none => s.enter l t cepc)
  else if t.cause ≠ .mchk && c.poisonFlight.isSome then s.setCore l { c.dropGroup.noPoison with poisoned := c.poisonFlight }
  else s.setCore l { c.dropGroup with entryWait := some (t, cepc) }

/-! ## Interrupts (R244, R245) -/

/-- Vector v may be delivered to core l; ie is CSTAT.IE or, for the end of WAIT, 1 (R163). -/
def State.deliverable (s : State) (l : Nat) (ie : Bool) (v : Nat) : Bool :=
  let c := s.core l
  let x := s.cv l v
  let lv : BitVec 2 := if x.lvl then 2 else 1
  bit c.arch.vpend.toNat v && decide (x.prio ≠ 0) && decide (x.next ≤ s.time.ticks) && (bit c.arch.vmask.toNat v || x.lvl)
  && (c.priv.ult lv || (decide (lv = c.priv) && ie && c.arch.bk.ipl.ult x.prio))

/-- The better of two deliverable vectors: the highest priority, then level H, then the lowest number (R245). -/
def State.better (s : State) (l a b : Nat) : Nat :=
  let x := s.cv l a
  let y := s.cv l b
  if y.prio.ult x.prio then a else if x.prio.ult y.prio then b else if x.lvl && !y.lvl then a else if y.lvl && !x.lvl then b else Nat.min a b

/-- The vector that the core takes, if any. -/
def State.bestVec (s : State) (l : Nat) (ie : Bool) : Option Nat :=
  if (s.core l).arch.vpend = 0 then none
  else ((List.range 64).filter (s.deliverable l ie)).foldl (fun r v => match r with | none => some v | some u => some (s.better l u v)) none

/-- An interrupt is deliverable at this boundary: it comes before the next group and its traps (R219, R240). -/
def State.intrNow (s : State) (l : Nat) : Bool :=
  decide ((s.core l).arch.bank ≠ 7) && (s.bestVec l (s.core l).arch.bk.ie).isSome

/-! ## The translation context (07 R364, 12 R607) -/

/-- A serialising instruction completes: a written LCTX takes effect, and a new instance raises CVEC for its pending
vectors (12 R607), in a moderation interval at its end (R606; log entry 182). -/
def State.lctxEffect (s : State) (l : Nat) : State :=
  let c := s.core l
  let s1 := s.setCore l { c with lctxCur := c.lctx }
  if c.lctx.inst = c.lctxCur.inst then s1
  else s1.inst.vvs.foldl (fun t e => if e.2.lcore = l && e.2.ins = c.lctx.inst && e.2.pv then t.vvCore e.1 else t) s1

/-- The resume point after a group of k words: the delay group leads to the kept target or falls through (R99, R108). -/
def Arch.nextPc (a : Arch) (k : Nat) : Word :=
  if a.bk.dly && !a.bk.dfall then a.bk.dtarget else a.pc + BitVec.ofNat 64 (4 * k)

/-- A group of k words has issued: pc and delay state, with the branch it held. A misaligned target stays in the pc until
the group there would issue (R71, R242). -/
def Arch.advance (a : Arch) (k : Nat) (br : Option (Bool × Word)) : Arch :=
  let b := a.bk
  let pc := a.nextPc k
  match br with
  | some (taken, t) => { a.setBk { b with dly := true, dfall := !taken, dtarget := if taken then t else 0 } with pc := pc }
  | none => { a.setBk { b with dly := false, dfall := false, dtarget := 0 } with pc := pc }

/-- The pc stands at a misaligned target: the group there traps in place of issuing (R71, R242). -/
def Arch.badPc (a : Arch) : Bool := decide (a.pc.toNat % 4 ≠ 0)
def State.takeBadPc (s : State) (l : Nat) : State :=
  let pc := (s.core l).arch.pc
  s.take l { cause := .ialign, bada := pc.toNat } (maskLow 2 pc)

/-- The instruction at the pc has completed alone in its group: the pc moves on (R85), LCTX takes effect (R364), and a
checkpoint is captured (06 R268); it has occupied n beats. -/
def State.retireAfter (s : State) (l n : Nat) : State :=
  let c := s.core l
  (((s.setCore l { c with group := [], arch := { c.arch.advance 1 none with repLeft := none, rest := [] } }).lctxEffect l).rxGroup l n).capture l
def State.retire (s : State) (l : Nat) : State := s.retireAfter l 1

/-! ## Frames (R225, R228 to R230) -/

/-- The address after the delay group at a resume address: the word after the first of four with its stop bit (R82,
R101); read as the fetch would read it. -/
def State.delayEnd (s : State) (c : Core) (priv : BitVec 2) : Nat → Word → Word
  | 0, a => a
  | n + 1, a =>
    match s.translate c priv .x a.toNat with
    | .ok pa _ =>
      (match s.cohRead pa 4 with
      | .ok bs => if bit (ofLe bs) 31 then a + 4 else State.delayEnd s c priv n (a + 4)
      | _ => State.delayEnd s c priv n (a + 4))
    | _ => State.delayEnd s c priv n (a + 4)

/-- The delay target as a frame or context block holds it (R225, 06 R295). -/
def State.delayTarget (s : State) (c : Core) (b : Bank) (pc : Word) : Word :=
  if !b.dly then 0 else if b.dfall then s.delayEnd c b.priv 4 pc else b.dtarget

/-- B2 to B63 as bits (R225). -/
def Bank.bBits (b : Bank) : Nat := (List.range 64).foldl (fun n k => n + (if 2 ≤ k ∧ b.rb k then 2 ^ k else 0)) 0

/-- The bytes of a bank's frame, 640 or 896 (R225); f and fstat only with the extension. -/
def bankFrame (b : Bank) (dt : Word) (ext : Option (Tab Word × Word)) : List Byte :=
  (List.range 63).flatMap (fun k => leBytes 8 (b.rg (k + 1)).toNat) ++ leBytes 8 b.lk.toNat ++ leBytes 8 b.bBits ++ leBytes 8 b.cstatBits.toNat
  ++ leBytes 8 b.cepc.toNat ++ leBytes 8 b.ccause.toNat ++ leBytes 8 b.cbada.toNat ++ leBytes 8 b.mprog.toNat ++ leBytes 8 dt.toNat
  ++ leBytes 8 (match ext with | some e => e.2.toNat | none => 0) ++ List.replicate 64 0
  ++ (match ext with | some e => (List.range 32).flatMap (fun k => leBytes 8 (Tab.get 0 e.1 k).toNat) | none => [])

/-- A word of a frame. -/
def frameW (bs : List Byte) (o : Nat) : Word := BitVec.ofNat 64 (leAt bs o 8)

/-- A bank loaded from a frame by level priv: RBANK stays as old holds it, PRIV is the lower one (R230). -/
def bankOfFrame (old : Bank) (priv : BitVec 2) (bs : List Byte) : Bank :=
  let g := (List.range 63).foldl (fun m k => Tab.set 0 m (k + 1) (frameW bs (8 * k))) []
  let bb := (frameW bs 0x200).toNat
  let b := (List.range 62).foldl (fun m k => Tab.set false m (k + 2) (bit bb (k + 2))) []
  let cs := (frameW bs 0x208).toNat
  let p : BitVec 2 := BitVec.ofNat 2 (fld cs 30 2)
  let cc := (frameW bs 0x218).toNat
  { old with g := g, b := b, lk := frameW bs 0x1F8, priv := if priv.ult p then priv else p, ipl := BitVec.ofNat 3 (fld cs 24 3), ie := bit cs 23, ct := bit cs 21,
             repact := bit cs 18, dly := bit cs 17, dfall := false, dtarget := frameW bs 0x230, cepc := maskLow 2 (frameW bs 0x210),
             ccause := BitVec.ofNat 64 (fld cc 63 1 * 2 ^ 63 + fld old.ccause.toNat 56 3 * 2 ^ 56 + fld cc 0 20), cbada := frameW bs 0x220, mprog := maskLow 1 (frameW bs 0x228) }

/-- The checks of several accesses together: poison first, then the trap that R239 puts first, then the pieces. -/
def allAcc (rs : List Acc) : Acc :=
  match rs.findSome? (fun r => match r with | .poison pa => some pa | _ => none) with
  | some pa => .poison pa
  | none =>
    match firstTrap (rs.filterMap (fun r => match r with | .trap t => some t | _ => none)) with
    | some t => .trap t
    | none => .ok (rs.flatMap (fun r => match r with | .ok ps => ps | _ => []))

/-- Check every 16 bytes of a frame of n such parts at base: its pieces in order, or the trap (R229, R230). -/
def State.frameCheck (s : State) (l : Nat) (c : Core) (need : Need) (n base : Nat) : Acc :=
  allAcc ((List.range n).map (fun k => s.access l c c.priv { ea := (base + 16 * k) % 2 ^ 64, n := 16, need := need, noDev := true }))

/-- Read a checked frame with forwarding from the core's own unreleased stores (07 R314); its lines come into the caches as
those of a load do (05 R224, 07 R347). -/
def State.readPieces (l : Nat) (h : Bool) : State → List Piece → CoreRd
  | s, [] => ⟨some [], 0, s⟩
  | s, p :: ps =>
    let c := s.core l
    let r : CoreRd :=
      if p.mt = 3 then
        let m := s.readScr l p.pa p.len 0x01
        ⟨m.val.map (overFwd ((List.range p.len).map (fun k => fwdScr c.sb (p.pa % 2 ^ 20 + k)))), m.bad, m.st.fillScr (pairOf l) (p.pa % 2 ^ 20)⟩
      else
        let m := s.readMem l h p.pa p.len 0x01
        let t := if p.mt = 0 && isMem p.pa && !isCarve p.pa && s.backed p.pa then m.st.fillData (pairOf l) (p.pa / 128) true else m.st
        ⟨m.val.map (overFwd ((List.range p.len).map (fun k => fwdMem c.sb (p.pa + k)))), m.bad, t⟩
    match r.val with
    | none => r
    | some bs =>
      let r2 := State.readPieces l h r.st ps
      ⟨r2.val.map (bs ++ ·), r2.bad, r2.st⟩

/-! ## Return (R235, R236) -/

/-- The results of a record go in flight again in index order, each to land after its resumed beats (R105, R232), and so does poison that the entry
of a machine check left to be consumed (R243; log entry 122). -/
def Bank.flights (b : Bank) : List Flight :=
  (List.range 18).filterMap (fun k =>
    let e := Tab.get {} b.prec k
    if e.valid then some { dst := dstOf e.dest.toNat, val := e.val, left := e.left.toNat, flags := e.fflags } else none)
  ++ b.pois.map (fun p => { dst := .poison p.2, val := 0, left := p.1 })

/-- Return from the bank in use to bank rb, whose contents are nb: the bank in use is freed (R215, R235, R236). -/
def Arch.leave (a : Arch) (rb : Nat) (nb : Bank) (copy : Bool) : Arch :=
  let b := a.bk
  let nb1 := if copy then (nb.setG 3 (b.rg 3)).setG 4 (b.rg 4) else nb
  { ((a.setBk {}).setBkOf rb { nb1 with prec := [], pcLow := 0, pois := [] }) with bank := rb, pc := b.cepc ||| nb.pcLow.zeroExtend 64, infl := nb1.flights }

/-- RFE and RFE.C of core l, alone in its group, all results landed (R230, R235, R236). A frame whose FSTAT word holds RM 5 to
7 leaves RM unchanged, as a write does (02 R64; log entry 123). In RX7-compatible mode what it reads enters the log that O consumes (06 R299). -/
def State.rfe (s : State) (l : Nat) (copy : Bool) : State :=
  let c := s.core l
  let a := c.arch
  let rb := fld a.bk.ccause.toNat 56 3
  let ob := a.bkOf rb
  let done := fun (t : State) (a2 : Arch) (n : Nat) => (((t.setCore l { t.core l with group := [], arch := a2 }).lctxEffect l).rxBeats l (6 + n)).capture l
  if !bit ob.cframe.toNat 0 then done s (a.leave rb ob copy) 0
  else
    let fp := bit ob.cframe.toNat 1
    match s.frameCheck l c .r (frameSize fp / 16) (ob.cframe.toNat / 16 * 16) with
    | .poison pa => s.walkPoison l pa
    | .trap t => s.take l t a.pc
    | .ok ps =>
      let r := State.readPieces l (decide (c.priv = 2)) s ps
      match r.val with
      | none => (r.st.rxResp l none).modCore l (fun d => { d with poisoned := some r.bad })
      | some bs =>
        let nb := bankOfFrame ob a.priv bs
        let a1 := if fp then { a with f := (List.range 32).foldl (fun m k => Tab.set 0 m k (frameW bs (0x280 + 8 * k))) [], fstat := fstatWrite a.fstat (frameW bs 0x238) } else a
        done ((List.range (bs.length / 8)).foldl (fun t k => t.rxLog l (frameW bs (8 * k))) r.st) (a1.leave rb nb copy) (frameSize fp / 16)

end Sys2Proof.Machine
end

