-- ==== Sys2Proof/Machine/Group.lean ====
section
/-! DEFINITION. Issue groups (02 R82 to R99): forming a group, its check, the accesses that its instructions begin, and
its issue; the repeat prefix (03 R170 to R181); and the form of a serialising instruction (R85). -/

namespace Sys2Proof.Machine

/-! ## Register fields -/

/-- The registers that an SMM or LMM mask selects, ascending (03 R140, R141). -/
def maskRegs (w : Word) : List Nat := ((List.range 63).map (· + 1)).filter (fun k => bit w.toNat k)

/-- Register and position of the registers still to transfer: those that MPROG does not record (03 R146). -/
def Arch.mmTodo (a : Arch) (b : Nat) : List (Nat × Nat) := ((maskRegs (a.rg b)).zipIdx).filter (fun p => !bit a.bk.mprog.toNat p.1)

/-- The integer division state in Gd to Gd+3 (04 R182), and the floating-point step state in Fd to Fd+3 (04 R191). -/
def Arch.dst (a : Arch) (d : Nat) : DSt := ⟨(a.rg d).toNat, (a.rg (d + 1)).toNat, (a.rg (d + 2)).toNat, (a.rg (d + 3)).toNat⟩
def dstRes (d : Nat) (t : DSt) : List Flight :=
  [res (.g d) (BitVec.ofNat 64 t.r) 1, res (.g (d + 1)) (BitVec.ofNat 64 t.g) 1, res (.g (d + 2)) (BitVec.ofNat 64 t.dv) 1, res (.g (d + 3)) (BitVec.ofNat 64 t.c) 1]
def Arch.fst_ (a : Arch) (d : Nat) : FStep := ⟨(a.rf d).toNat, (a.rf (d + 1)).toNat, (a.rf (d + 2)).toNat, (a.rf (d + 3)).toNat⟩
def fstRes (d : Nat) (t : FStep) : List Flight :=
  [res (.f d) (BitVec.ofNat 64 t.w) 1, res (.f (d + 1)) (BitVec.ofNat 64 t.q) 1, res (.f (d + 2)) (BitVec.ofNat 64 t.b) 1, res (.f (d + 3)) (BitVec.ofNat 64 t.c) 1]
/-- A step after the first leaves Fd+2 alone, and writes nothing when CNT is 0 (04 R194). -/
def fstNext (ct : Bool) (d : Nat) (t : FStep) : List Flight :=
  if fld t.c 0 5 = 0 then []
  else
    let n := fStep ct t
    [res (.f d) (BitVec.ofNat 64 n.w) 1, res (.f (d + 1)) (BitVec.ofNat 64 n.q) 1, res (.f (d + 3)) (BitVec.ofNat 64 n.c) 1]

/-! ## The checks of an instruction's accesses (R89) -/

inductive Chk where
  | mem (q : Req)
  | bits (ba : Nat) (i : BitIns)
  | trap (t : Trap)
deriving DecidableEq, Repr

/-- Which bit-space instruction a bit write is (R73). -/
def bitInsOf (op : BitOp) (bs : Option Nat) : BitIns :=
  match op, bs with
  | .flip, _ => .flip
  | .put _, some _ => .st
  | .put v, none => if v then .set else .clr

/-- The accesses that an instruction makes, with the register values as they stand. -/
def SlotOp.chks (a : Arch) : SlotOp → List Chk
  | .load o => [.mem { ea := o.ea.toNat, n := o.n, need := .r }]
  | .store n ea _ _ => [.mem { ea := ea.toNat, n := n, need := .w }]
  | .atomic _ n ea _ _ _ => [.mem { ea := ea.toNat, n := n, need := .rw, align := n, noDev := true }]
  | .cas2 ea _ _ _ _ _ => [.mem { ea := ea.toNat, n := 16, need := .rw, align := 16, noDev := true }]
  | .bitRead ba _ => [.bits ba.toNat .ld]
  | .bitWrite op bs r imm => [.bits (a.rg r + imm).toNat (bitInsOf op bs)]
  | .bitTas r _ => [.bits (a.rg r).toNat .tas]
  | .bitXch ba _ _ => [.bits ba.toNat .xch]
  | .smm r b =>
    let base := (a.rg r).toNat
    (if base % 8 ≠ 0 then [.trap { cause := .dalign, bada := base }] else [])
    ++ (a.mmTodo b).map (fun p => .mem { ea := (base + 8 * p.2) % 2 ^ 64, n := 8, need := .w, align := 8 })
  | .lmm r b =>
    let base := (a.rg r).toNat
    (if base % 8 ≠ 0 then [.trap { cause := .dalign, bada := base }] else [])
    ++ (a.mmTodo b).map (fun p => .mem { ea := (base + 8 * p.2) % 2 ^ 64, n := 8, need := .r, align := 8 })
  | .mvb d r => [.mem { ea := (a.rg r).toNat, n := 8, need := .r }, .mem { ea := (a.rg d).toNat, n := 8, need := .w }]
  | .mvl d r => [.mem { ea := (a.rg r).toNat, n := 128, need := .r, align := 128, noDev := true },
                 .mem { ea := (a.rg d).toNat, n := 128, need := .w, align := 128, noDev := true }]
  | .fill d _ => [.mem { ea := (a.rg d).toNat, n := 8, need := .w }]
  | .filll d _ => [.mem { ea := (a.rg d).toNat, n := 128, need := .w, align := 128, noDev := true }]
  | .maint op ea => [.mem { ea := ea.toNat, n := 1, need := if op = .inval then .w else .r }]
  | _ => []

/-- An LMM whose mask selects its own address or mask register is an ILLOP trap, ranked with the traps of decode (03 R143, 05
R239). -/
def SlotOp.maskTrap (a : Arch) : SlotOp → Option Trap
  | .lmm r b => if (maskRegs (a.rg b)).contains r || (maskRegs (a.rg b)).contains b then some { cause := .illop } else none
  | _ => none

def State.chkAcc (s : State) (l : Nat) (c : Core) : Chk → Acc
  | .mem q => s.access l c c.priv q
  | .bits ba i => if s.bitOk l c.priv ba i then .ok [] else .trap { cause := .bspace, bada := ba }
  | .trap t => .trap t

/-- The check of one instruction in slot k. -/
def State.opCheck (s : State) (l : Nat) (c : Core) (k : Nat) (op : SlotOp) : Acc :=
  match allAcc ((op.chks c.arch).map (s.chkAcc l c)) with
  | .trap t => .trap { t with slot := k }
  | r => r

/-- The check of one iteration of a repeat, with the register values as they stand: its mask and its accesses (R89, 03 R179). -/
def State.iterCheck (s : State) (l : Nat) (c : Core) (op : SlotOp) : Acc :=
  match op.maskTrap c.arch with
  | some t => .trap { t with slot := 1 }
  | none => s.opCheck l c 1 op

/-- The pieces of one checked access. -/
def State.piecesOf (s : State) (l : Nat) (q : Req) : List Piece :=
  match s.access l (s.core l) (s.core l).priv q with
  | .ok ps => ps
  | _ => []

/-! ## The check of a group -/

/-- A breach of R82 to R86, or of 03 R144. -/
def illGroup (g : List Slot) (stop delay : Bool) : Bool :=
  let isRep := fun x : Slot => match x.op with | .rep _ _ => true | _ => false
  !stop || decide (2 < g.countP (fun x => x.mem)) || decide (2 < g.countP (fun x => x.fp)) || decide (1 < g.countP (fun x => x.md))
  || g.dropLast.any (fun x => x.ct) || (delay && g.any (fun x => x.ct || x.noDelay))
  || (g.any (fun x => x.serial) && decide (g.length ≠ 1))
  || (g.any isRep && !(decide (g.length = 2) && isRep (g.headD { op := .nop }) && !(g.tail.any isRep)))
  || (g.any (fun x => x.multi) && decide (1 < g.countP (fun x => x.mem)))

/-- The instruction may be repeated (03 R174). -/
def SlotOp.repeatable : SlotOp → Bool
  | .mvb _ _ | .mvl _ _ | .fill _ _ | .filll _ _ | .bitWrite _ _ _ _ | .bitTas _ _ | .dstep _ | .dstepF _ | .fstep _ | .smm _ _ | .lmm _ _ => true
  | _ => false

/-- A breach of 03 R177 by the repeat of count register a; an LMM also writes the registers of its mask. -/
def illRep (c : Core) (r : Nat) (x : Slot) : Bool :=
  let lm := match x.op with | .lmm _ b => (maskRegs (c.arch.rg b)).contains r | _ => false
  decide (r = 0) || !x.op.repeatable || x.regs.contains r || x.wr.contains r || lm

/-- The repeat at the head of a group. -/
def repOf (g : List Slot) : Option (Nat × Nat × Slot) :=
  match g with
  | [x, y] => (match x.op with | .rep r u => some (r, u, y) | _ => none)
  | _ => none

/-- The latched count of a repeat: what is left of one that stands between iterations, else G[a] (03 R171). -/
def Arch.repCount (a : Arch) (r : Nat) : Nat := a.repLeft.getD (a.rg r).toNat

/-- The words whose fetch a group needs: its own, and for a call those of its delay group (02 R101). -/
def fetchWords (pc : Nat) (g : List Slot) : List Nat :=
  let own := (List.range g.length).map (fun k => pc + 4 * k)
  own ++ (g.flatMap (fun x => match x.op with | .branch _ _ _ n => (List.range n).map (fun k => pc + 4 * g.length + 4 * k) | _ => []))

/-- The check of a group before it issues (R87, R89): fetch first, then decode, then the accesses. -/
def State.groupCheck (s : State) (l : Nat) (c : Core) (g : List Slot) (stop : Bool) : Acc :=
  match s.fetchCheck c (fetchWords c.arch.pc.toNat g) with
  | .poison pa => .poison pa
  | .trap t => .trap t
  | .ok =>
    let ill : List Trap := if illGroup g stop c.arch.bk.dly then [{ cause := .illgrp }] else []
    let own := g.zipIdx.flatMap (fun p => (p.1.trap.toList ++ (p.1.op.maskTrap c.arch).toList).map (fun t => { t with slot := p.2 }))
    let rep : List Trap := match repOf g with | some (r, _, y) => if illRep c r y then [{ cause := .illrep, slot := 0 }] else [] | none => []
    match firstTrap (ill ++ own ++ rep) with
    | some t => .trap t
    | none =>
      match repOf g with
      | some (r, _, y) => if c.arch.repCount r = 0 then .ok [] else s.opCheck l c 1 y.op
      | none => allAcc (g.zipIdx.map (fun p => s.opCheck l c p.2 p.1.op))

/-! ## Loads and atomics -/

/-- The value of loaded bytes in a register (R70, 03 R125). -/
def extVal (x : LdExt) (v : Nat) : Word := match x.2 with | .zero => BitVec.ofNat 64 (v % 2 ^ (8 * x.1)) | .sign => BitVec.ofInt 64 (sx (8 * x.1) v)

/-- The number of the L1D line that holds a byte of a region type. -/
def lineFor (mt a : Nat) : Nat := if mt = 3 then scrLine (a % 2 ^ 20) else a / 128

def Pair.l1dByte (p : Pair) (mt a : Nat) : Option Byte := (p.l1d.find (lineFor mt a)).map (fun l => BitVec.ofNat 8 (l.data.toNat / 256 ^ (a % 128)))

/-- The bytes of an L1D hit: every piece WB or SCR and every line held (R96, R328). -/
def State.hitBytes (s : State) (n : Nat) (ps : List Piece) : Option (List Byte) :=
  let p := s.pair n
  if p.l1dOn && ps.all (fun q => decide (q.mt = 0) || (decide (q.mt = 3) && s.backed q.pa)) then
    (ps.flatMap (fun q => (List.range q.len).map (fun k => p.l1dByte q.mt (q.pa + k)))).mapM id
  else none
/-- A hit touches its lines (R347). -/
def State.touchHit (s : State) (n : Nat) (ps : List Piece) : State :=
  s.setPair n { s.pair n with l1d := ps.foldl (fun cc q => (cc.hit geoL1d (lineFor q.mt q.pa)).hit geoL1d (lineFor q.mt (q.pa + q.len - 1))) (s.pair n).l1d }

/-- What the core's older stores forward to the bytes of a piece; nothing to a DEV access (R314). -/
def fwdBytes (sb : List SbEntry) (q : Piece) : List (Option Byte) :=
  (List.range q.len).map (fun k => if q.mt = 2 then none else if q.mt = 3 then fwdScr sb ((q.pa + k) % 2 ^ 20) else fwdMem sb (q.pa + k))
/-- The pieces of a load as a miss keeps them. -/
def partsOf (ps : List Piece) : List (Nat × Nat × Nat) := ps.map (fun q => (q.pa, q.mt, q.len))

/-- How many entries must leave before the last DEV store has (07 R338). -/
def devAhead (sb : List SbEntry) : Nat :=
  sb.length - (sb.reverse.takeWhile (fun e => match e.kind with | .dev _ _ _ _ => false | _ => true)).length

/-- The address is in the PCIe aperture (10 R506). -/
def isAperture (a : Nat) : Bool := decide (ctlLo + 0x100000000000 ≤ a) && decide (a < ctlTop)

/-- The one enabled window over an address, with a live endpoint of TYPE 6 (10 R507). -/
def State.devWindow (s : State) (a : Nat) : Option Nat :=
  match (s.chan.wins.filter (fun w => w.2.en && decide (w.2.base.toNat ≤ a) && decide (a < w.2.base.toNat + 2 ^ w.2.log2))).map (·.1) with
  | [w] => let e := s.ep (s.win w).ep.toNat
           if e.made && decide (e.typ = 6) then some w else none
  | _ => none

/-- A DEV access of core l ends as an error (07 R342, R343). -/
def State.devError (s : State) (l a : Nat) (write : Bool) : State :=
  (s.setCore l { s.core l with deverr := true }).report (1152 + l) (payCore clDE s l a (if write then 0x09 else 0x08))

/-- Fix the value of a miss's flights: the low word in the first, the high word in the next. -/
def fixFlights (id : Nat) : List Word → List Flight → List Flight
  | _, [] => []
  | vs, f :: fs =>
    if f.wait = some id then
      match vs with
      | [] => f :: fixFlights id [] fs
      | v :: vt => { f with val := v } :: fixFlights id vt fs
    else f :: fixFlights id vs fs

/-- The value of miss id is known; its data has still to arrive (07 R340). -/
def Core.fixMiss (c : Core) (id : Nat) (vs : List Word) : Core :=
  { c with misses := c.misses.map (fun m => if m.id = id then { m with src := .fixed, ahead := 0 } else m),
           arch := { c.arch with infl := fixFlights id vs c.arch.infl } }

/-- Log the result of a once-only access of execution ex of its group; the capture that follows it is due (06 R268, R274). -/
def Core.logOnce (c : Core) (key : Option Nat) (ex : Nat) (v : Word) : Core :=
  match key with
  | some k => { c with once := c.once ++ [{ key := k, val := v, ex := ex }], capDue := true }
  | none => c

/-- The timeout of a window in ticks: TMO, else DEVTMO of its endpoint, else 64 (R341, 10 R509). -/
def State.winTmo (s : State) (w : Nat) : Nat :=
  let x := s.win w
  if x.tmo ≠ 0 then x.tmo.toNat else if (s.ep x.ep.toNat).devtmo ≠ 0 then (s.ep x.ep.toNat).devtmo else 64

/-- A DEV load to the aperture is sent: at once an error when no window carries it (10 R507). -/
def State.sendDevLoad (s : State) (l : Nat) (m : Miss) (x : LdExt) : State :=
  let c := s.core l
  match s.devWindow m.addr with
  | some w => s.setCore l { c with devOut := c.devOut ++ [{ pa := m.addr, size := x.1, write := false, val := 0, miss := some m.id, key := m.key,
                                                            sent := s.time.ticks, tmo := s.winTmo w, ep := (s.win w).ep.toNat, wack := (s.win w).wack, ex := m.ex, tgt := (s.win w).target m.addr }] }
  | none =>
    let v := extVal x (2 ^ (8 * x.1) - 1)
    (s.setCore l ((c.fixMiss m.id [v]).logOnce m.key m.ex v)).devError l m.addr false

/-- A once-only access is performed only when the capture before its group has compared equal and the log holds no result of another
execution of a group, the same group's included, that waits to be covered by a seal (06 R274, R275, R301, R304); what is fixed has been performed. -/
def Core.mayPerform (c : Core) (m : Miss) : Bool :=
  decide (m.ahead = 0) && (m.key.all (fun _ => decide (m.src = .fixed) || (c.capturing.isNone && c.once.all (fun e => e.again || decide (e.ex = m.ex)))))

/-- The outstanding miss is a DEV load to an endpoint whose turn has come: it is sent, once the capture before its group has
compared equal (R96, R338, 06 R301, R304). Nothing is sent while a restore or sparing stops the core (06 R276, R286). -/
def State.sendHead (s : State) (l : Nat) : State :=
  let c := s.core l
  match c.misses with
  | [] => s
  | m :: _ =>
    match m.src with
    | .dev x => if c.mayPerform m && !c.freezes.contains .restore && !c.freezes.contains .sparing && !(c.devOut.any (fun d => decide (d.miss = some m.id))) then s.sendDevLoad l m x else s
    | _ => s

/-- A new miss (R96) with the results that wait for it. -/
def State.addMiss (s : State) (l : Nat) (m : Miss) (fs : List Flight) : State :=
  let c := s.core l
  let id := c.nextMiss
  s.setCore l { (c.fly (fs.map (fun f => { f with wait := some id }))) with misses := c.misses ++ [{ m with id := id, ex := c.exec }], nextMiss := id + 1 }

/-- The logged result of a once-only access that a rollback lets execute again (06 R275); as it is consumed the capture that follows it is
due (R268). -/
def Core.logged (c : Core) (key : Nat) : Option Word := (c.once.find? (fun e => e.key = key && e.again)).map (fun e => e.val)
/-- The oldest result that waits under a key is taken by execution ex of its group; a later execution of the group takes the next (R304). -/
def takeOnce (key ex : Nat) : List OnceEnt → List OnceEnt
  | [] => []
  | e :: es => if e.key = key && e.again then { e with again := false, ex := ex } :: es else e :: takeOnce key ex es
def Core.consume (c : Core) (key : Nat) : Core := { c with capDue := true, once := takeOnce key c.exec c.once }

/-- Write checked pieces through the store buffer. -/
def pieceEntries (h : Bool) : List Piece → List Byte → List SbKind
  | [], _ => []
  | p :: ps, bs => sbEntries p.pa p.mt h (bs.take p.len) ++ pieceEntries h ps (bs.drop p.len)

def State.pushPieces (s : State) (l : Nat) (ps : List Piece) (bs : List Byte) : State :=
  let c := s.core l
  s.setCore l (c.push (pieceEntries (decide (c.priv = 2)) ps bs))

/-- A DEV load of the piece p begins (R338, R339): its logged result where a rollback executes it again (06 R275), the access
already sent then, else a miss. mv: a block move's target. -/
def State.startDev (s : State) (l : Nat) (sb0 : List SbEntry) (key : Nat) (p : Piece) (x : LdExt) (dst : Dst) (lat : Nat)
    (mv : Option (Nat × List (Nat × Nat × Nat) × Bool)) : State :=
  let c := s.core l
  let fl : List Flight := [{ res dst 0 lat with once := true }]
  match c.logged key with
  | some v0 => (s.setCore l ((c.consume key).fly [res dst (extVal x v0.toNat) lat])).rxLog l (extVal x v0.toNat)
  | none =>
    let m : Miss := { id := 0, src := .dev x, addr := p.pa, ahead := devAhead sb0, older := sb0.length, key := some key, move := mv }
    if isAperture p.pa then
      if c.devOut.any (fun d => decide (d.key = some key) && d.miss.isNone) then
        let c1 := (s.addMiss l { m with ahead := 0 } fl).core l
        s.setCore l { c1 with devOut := c1.devOut.map (fun d => if d.key = some key && d.miss.isNone then { d with miss := some c.nextMiss, ex := c.exec } else d) }
      else s.addMiss l m fl
    else if isCtl p.pa then s.addMiss l { m with src := .ctl p.pa p.len (decide (c.priv = 2)) x } fl
    else s.addMiss l { m with src := .parts (partsOf [p]) x } fl

/-- Begin a load of the pieces ps (R96, 07 R314): an L1D hit gives its value now, behind an older access not yet performed as
soon as that one is (R313); anything else is a miss. sb0 is the store buffer before the group; late: an atomic of an earlier
slot is performed first (07 R317). A value that the core has at once enters the log that O consumes (06 R299). In RX7-compatible mode a load asks L2 at
once, before the comparison of its interval (DESIGN CHOICE: 06 R299 has E alone send L2 requests and go on by up to 4,096 beats, R300 holds back
every output of R257, which lists them; log entry 171). -/
def State.startLoad (s : State) (l : Nat) (sb0 : List SbEntry) (late : Bool) (key : Nat) (ps : List Piece) (x : LdExt) (dst : Dst) (lat : Nat) : State :=
  let c := s.core l
  let n := pairOf l
  match ps with
  | [] => s
  | p :: _ =>
    if p.mt = 2 then s.startDev l sb0 key p x dst lat none
    else
      let m : Miss := { id := 0, src := .parts (partsOf ps) x, addr := p.pa, older := sb0.length }
      match s.hitBytes n ps with
      | some bs =>
        let t := s.touchHit n ps
        let v := extVal x (ofLe (overFwd (ps.flatMap (fwdBytes sb0)) bs))
        if c.misses.isEmpty && !late then (t.setCore l (c.fly [res dst v lat])).rxLog l v
        else t.addMiss l { m with hit := true } [res dst 0 lat]
      | none => s.addMiss l m [res dst 0 lat]

/-- The read of a block move in slot k (03 R152) begins with the group's reads; a hit with nothing older outstanding has its bytes at
once, which finishMove writes. -/
def State.startMove (s : State) (l : Nat) (sb0 : List SbEntry) (late : Bool) (key k n : Nat) (src dst : List Piece) : State :=
  let c := s.core l
  let mv := some (k, dst.map (fun p => (p.pa, p.len, p.mt)), decide (c.priv = 2))
  match src with
  | [] => s
  | p :: _ =>
    if p.mt = 2 then s.startDev l sb0 key p (n, .zero) .block 4 mv
    else
      let m : Miss := { id := 0, src := .parts (partsOf src) (n, .zero), addr := p.pa, older := sb0.length, move := mv }
      match s.hitBytes (pairOf l) src with
      | some bs =>
        let t := s.touchHit (pairOf l) src
        let d := overFwd (src.flatMap (fwdBytes sb0)) bs
        if c.misses.isEmpty && !late then (t.addMiss l { m with src := .data d, hit := true } []).rxLog l (BitVec.ofNat 64 (ofLe d))
        else t.addMiss l { m with hit := true } [res .block 0 4]
      | none => s.addMiss l m [res .block 0 4]

/-- The write of a block move in slot k enters the store buffer in slot order (R307): its data, the logged value of a DEV read that a
rollback executes again (06 R275), or a hole that the data fills as it arrives. first: the number of the first miss of this group or
iteration, so that an older read of the slot that is still outstanding is not taken for it (03 R152). -/
def State.finishMove (s : State) (l first key k : Nat) (src dst : List Piece) : State :=
  let c := s.core l
  match c.misses.find? (fun m => decide (first ≤ m.id) && decide (m.move.map (·.1) = some k)) with
  | some { src := .data bs, id := i, .. } =>
    (s.setCore l { c with misses := c.misses.filter (fun m => decide (m.id ≠ i)) }).pushPieces l dst bs
  | some m =>
    let n := (src.map (·.len)).foldl (· + ·) 0
    let w := ((pieceEntries (decide (c.priv = 2)) dst (List.replicate n 0)).map SbKind.weight).foldl (· + ·) 0
    s.setCore l (c.push [.hole m.id w])
  | none => if src.isEmpty then s else s.pushPieces l dst (leBytes 8 (((c.once.find? (fun e : OnceEnt => decide (e.key = key) && decide (e.ex = c.exec))).map (fun e : OnceEnt => e.val)).getD 0).toNat)

/-- Begin an atomic: always a miss, performed when every earlier store has left (07 R317, R90). -/
def State.startAtomic (s : State) (l : Nat) (sb0 : List SbEntry) (key : Nat) (src : MissSrc) (pa : Nat) (dsts : List Dst) : State :=
  let c := s.core l
  match (List.range dsts.length).mapM (fun i => c.logged (key + i)) with
  | some vs =>
    vs.foldl (fun t v => t.rxLog l v) (s.setCore l (((List.range dsts.length).foldl (fun d i => d.consume (key + i)) c).fly ((dsts.zip vs).map (fun p => res p.1 p.2 4))))
  | none => s.addMiss l { id := 0, src := src, addr := pa, ahead := sb0.length, older := sb0.length, key := some key } (dsts.map (fun d => { res d 0 4 with once := true }))

/-- The unreleased writes of the core to a bit, oldest first. -/
def bitPend (sb : List SbEntry) (ba : Nat) : List BitOp :=
  sb.filterMap (fun e => match e.kind with | .bitw b op => if b = ba then some op else none | _ => none)

/-- What the core's own pending writes make of a bit that they alone decide: none when all of them invert it (R314). -/
def bitFwd (ops : List BitOp) : Option Bool :=
  ops.foldl (fun r op => match op, r with | .put v, _ => some v | .flip, some x => some (!x) | .flip, none => none) none

/-- How many entries must leave before the last write to a bit has. -/
def bitAhead (sb : List SbEntry) (ba : Nat) : Nat :=
  sb.length - (sb.reverse.takeWhile (fun e => match e.kind with | .bitw b _ => decide (b ≠ ba) | _ => true)).length

def bitApply (v : Bool) : BitOp → Bool
  | .put x => x
  | .flip => !v

/-- A bit of the core-private RAM as the core sees it (06 R273). -/
def Core.privBit (c : Core) (sb : List SbEntry) (ba : Nat) : Bool := (bitPend sb ba).foldl bitApply (Tab.get false c.bitram ba)

def isPrivBit (ba : Nat) : Bool := decide (ba < 0x10000)

/-- Begin a bit read (07 R314): the private RAM hits; a plain bit gets what the core's own older writes make of it, at once with nothing
older outstanding; any other waits for the core's writes to it and reads the unit, and so does a read behind an atomic of its group
(R317). -/
def State.startBit (s : State) (l : Nat) (sb0 : List SbEntry) (late : Bool) (ba : Nat) (d : Dst) : State :=
  let c := s.core l
  let w := fun v : Bool => BitVec.ofNat 64 (b2n v)
  if isPrivBit ba then s.setCore l (c.fly [res d (w (c.privBit sb0 ba)) 4])
  else if (bitAt ba).rw && !late then
    match bitFwd (bitPend sb0 ba) with
    | some v => if c.misses.isEmpty then s.addMiss l { id := 0, src := .fixed, addr := ba } [res d (w v) 4] else s.addMiss l { id := 0, src := .bitAt ba, addr := ba, older := sb0.length } [res d 0 4]
    | none => s.addMiss l { id := 0, src := .bitAt ba, addr := ba, older := sb0.length } [res d 0 4]
  else s.addMiss l { id := 0, src := .bitAt ba, addr := ba, ahead := bitAhead sb0 ba, older := sb0.length } [res d 0 4]

/-- Begin BTAS or BXCH with new value v (03 R136): outside the private RAM as an atomic. In the private RAM the read sees the bit
as it stood before the group, whatever the slot, like any load of its group (02 R93, 07 R318; log entry 127); its write enters
the store buffer in slot order. -/
def State.startBitRmw (s : State) (l : Nat) (sb0 : List SbEntry) (key ba : Nat) (v : Bool) (d : Nat) : State :=
  let c := s.core l
  if isPrivBit ba then s.setCore l (c.fly [res (.b d) (BitVec.ofNat 64 (b2n (c.privBit sb0 ba))) 4])
  else s.startAtomic l sb0 key (.bitRmw ba v) ba [.b d]

/-- A prefetch brings a WB line into the level it names and into those below it; it never traps (03 R154). Every form asks for read permission, PREF.L1W
too (DESIGN CHOICE: R154 says only that a prefetch which fails permission does nothing; log entry 168). -/
def State.prefetch (s : State) (l lvl ea : Nat) : State :=
  let c := s.core l
  match s.translate c c.priv .r ea with
  | .ok pa mt =>
    if mt ≠ 0 || isCarve pa || !s.backed pa then s
    else if lvl = 3 then
      (if (s.anyCopy (pa / 128)).isSome then s.l3Touch (chipOf l) (pa / 128)
       else match s.cohLine (pa / 128) with
        | some bs => (s.coreSees l pa 0x01).l3Put (chipOf l) { num := pa / 128, dirty := false, data := lineOf bs }
        | none => s.coreSees l pa 0x01)
    else (s.coreSees l pa 0x01).fillData (pairOf l) (pa / 128) (decide (lvl < 2))
  | _ => s

/-! ## Issue -/

/-- The once-only log's key of access i of slot k of the group at the pc of the bank in use: a handler that runs the same code before the
group executes again has a bank of its own. Executions of one group are told apart by Core.exec, and take the results that wait under
the key in the order in which they were logged. -/
def onceKey (a : Arch) (k i : Nat) : Nat := (a.bank * 2 ^ 64 + a.pc.toNat) * 256 + 64 * k + i

/-- The accesses of a block move in slot order: source and destination, with the bytes of an iteration (03 R147 to R149). -/
def moveReqs (a : Arch) : SlotOp → Option (Nat × Req × Req)
  | .mvb d r => some (8, { ea := (a.rg r).toNat, n := 8, need := .r }, { ea := (a.rg d).toNat, n := 8, need := .w })
  | .mvl d r => some (128, { ea := (a.rg r).toNat, n := 128, need := .r, align := 128, noDev := true },
      { ea := (a.rg d).toNat, n := 128, need := .w, align := 128, noDev := true })
  | _ => none

/-- The address advances of the block instructions, of latency 1 (03 R148). -/
def moveAdv (a : Arch) (op : SlotOp) : List Flight :=
  let adv := fun (r n : Nat) => res (.g r) (a.rg r + BitVec.ofNat 64 n) 1
  match op with
  | .mvb d r => [adv d 8, adv r 8]
  | .mvl d r => [adv d 128, adv r 128]
  | .fill d _ => [adv d 8]
  | .filll d _ => [adv d 128]
  | _ => []

/-- The first pass over a group: everything that gives a register result, every read in slot order, and prefetches. -/
def State.issueRead (s : State) (l : Nat) (sb0 : List SbEntry) (late : Bool) (k : Nat) (op : SlotOp) : State :=
  let c := s.core l
  let a := c.arch
  let key := onceKey a k 0
  match op with
  | .land fs => s.setCore l (c.fly fs)
  | .load o => s.startLoad l sb0 late key (s.piecesOf l { ea := o.ea.toNat, n := o.n, need := .r }) (o.n, o.e) o.dst 4
  | .atomic rop n ea exp v d =>
    (match s.piecesOf l { ea := ea.toNat, n := n, need := .rw, align := n, noDev := true } with
     | [p] => s.startAtomic l sb0 key (.rmw rop p.pa n p.mt exp v) p.pa [.g d]
     | _ => s)
  | .cas2 ea elo ehi vlo vhi d =>
    (match s.piecesOf l { ea := ea.toNat, n := 16, need := .rw, align := 16, noDev := true } with
     | [p] => s.startAtomic l sb0 key (.cas2 p.pa p.mt elo ehi vlo vhi) p.pa [.g d, .g (d + 1)]
     | _ => s)
  | .bitRead ba d => s.startBit l sb0 late ba.toNat (.b d)
  | .bitTas r d => s.startBitRmw l sb0 key (a.rg r).toNat true d
  | .bitXch ba v d => s.startBitRmw l sb0 key ba.toNat v d
  | .lmm r b =>
    let todo := a.mmTodo b
    let lat := ((maskRegs (a.rg b)).length + 1) / 2 + 3
    let s1 := todo.foldl (fun t p => t.startLoad l sb0 late (key + p.2) (t.piecesOf l { ea := ((a.rg r).toNat + 8 * p.2) % 2 ^ 64, n := 8, need := .r, align := 8 })
      (8, .zero) (.g p.1) lat) s
    s1.modArch l (fun x => x.setBk { x.bk with mprog := 0 })
  | .pref lvl ea => s.prefetch l lvl ea.toNat
  | .rdtime d =>
    if s.dpx.follows then
      let g : Grant := { kind := 2, addr := 0, agent := l }
      let v := ((s.dpx.next g).map (·.val)).getD s.time.dtime
      ((s.setCore l (c.fly [res (.g d) v 2])).rxLog l v).grant g
    else if s.checkedPair l then
      s.setCore l { (c.fly [{ res (.g d) 0 2 with wait := some c.nextMiss }]) with
        nextMiss := c.nextMiss + 1, inputs := c.inputs ++ [{ kind := .rdtime, e := none, o := none, id := c.nextMiss }], freezes := c.freezes ++ [.agreement] }
    else (s.setCore l (c.fly [res (.g d) s.time.dtime 2])).grant { kind := 2, addr := 0, agent := l, val := s.time.dtime }
  | .mfc d n => let v := s.mfcVal l n; v.2.setCore l ((v.2.core l).fly [res (.g d) v.1 1])
  | .dstep d => s.setCore l (c.fly (dstRes d (dStep (a.dst d))))
  | .dstepF d => s.setCore l (c.fly (dstRes d (dStepF a.bk.ct (a.dst d))))
  | .fstep d => s.setCore l (c.fly (fstNext a.bk.ct d (a.fst_ d)))
  | .branch _ _ (some lk) _ => s.setCore l (c.fly [res .lk lk 1])
  | .fill _ _ | .filll _ _ => s.setCore l (c.fly (moveAdv a op))
  | .mvb _ _ | .mvl _ _ =>
    (match moveReqs a op with
     | some (n, rq, wq) => (s.startMove l sb0 late key k n (s.piecesOf l rq) (s.piecesOf l wq)).modCore l (fun d => d.fly (moveAdv a op))
     | none => s)
  | _ => s

/-- The second pass: everything that enters the store buffer, in slot order. Maintenance of a line of an SCR region acts on the L1D copy of the
line in the pair (DESIGN CHOICE: 03 R155 excepts UC and DEV alone; log entry 148). -/
def State.issueWrite (s : State) (l first : Nat) (k : Nat) (op : SlotOp) : State :=
  let c := s.core l
  let a := c.arch
  let priv := fun (ba : Nat) (v : Bool) => if isPrivBit ba then s.setCore l (c.push [.bitw ba (.put v)]) else s
  match op with
  | .store n ea v _ => s.pushPieces l (s.piecesOf l { ea := ea.toNat, n := n, need := .w }) (leBytes n v.toNat)
  | .bitWrite op bs r imm =>
    let w := match op, bs with | .put _, some b => BitOp.put (a.rb b) | o, _ => o
    s.setCore l (c.push [.bitw (a.rg r + imm).toNat w])
  | .bitTas r _ => priv (a.rg r).toNat true
  | .bitXch ba v _ => priv ba.toNat v
  | .mvb _ _ | .mvl _ _ =>
    (match moveReqs a op with
     | some (_, rq, wq) => s.finishMove l first (onceKey a k 0) k (s.piecesOf l rq) (s.piecesOf l wq)
     | none => s)
  | .fill d b => s.pushPieces l (s.piecesOf l { ea := (a.rg d).toNat, n := 8, need := .w }) (leBytes 8 (a.rg b).toNat)
  | .filll d b => s.pushPieces l (s.piecesOf l { ea := (a.rg d).toNat, n := 128, need := .w, align := 128, noDev := true })
      ((List.range 16).flatMap (fun _ => leBytes 8 (a.rg b).toNat))
  | .maint op ea =>
    (match s.piecesOf l { ea := ea.toNat, n := 1, need := if op = .inval then .w else .r } with
     | p :: _ => if p.mt = 0 then s.setCore l (c.push [.maint op (p.pa / 128)]) else if p.mt = 3 then s.setCore l (c.push [.maint op (scrLine (p.pa % 2 ^ 20))]) else s
     | [] => s)
  | _ => s

/-- The beats that an instruction occupies (03 R145, R174). -/
def SlotOp.beats (a : Arch) : SlotOp → Nat
  | .smm _ b => Nat.max 1 (((maskRegs (a.rg b)).length + 1) / 2)
  | .lmm _ b => ((maskRegs (a.rg b)).length + 1) / 2 + 3
  | .bitTas _ _ => 1
  | _ => 1

/-- An instruction makes a once-only access (06 R274). A BFLIP leaves the store buffer only after the seal that covers its group
(R272), so that no rollback executes it again and the log never has to answer for it (log entry 128). -/
def State.onceOnly (s : State) (l : Nat) (op : SlotOp) : Bool :=
  let c := s.core l
  (op.chks c.arch).any (fun k => match k with
    | .mem q => (decide (q.need = .rw)) || (decide (q.need = .r) && (s.piecesOf l q).any (fun p => decide (p.mt = 2)))
    | .bits ba i => (decide (i = .tas) || decide (i = .xch) || decide (i = .flip)) && !isPrivBit ba
    | .trap _ => false)

/-- A DEV access or a once-only access: a checkpoint is captured before its group issues (06 R268). -/
def State.bracketed (s : State) (l : Nat) (op : SlotOp) : Bool :=
  s.onceOnly l op || (op.chks (s.core l).arch).any (fun k => match k with
    | .mem q => (s.piecesOf l q).any (fun p => decide (p.mt = 2))
    | _ => false)

/-- The writes that SMM has still to enter, by the progress it has made. -/
def State.smmEntries (s : State) (l r b : Nat) : List SbKind :=
  let a := (s.core l).arch
  (a.mmTodo b).flatMap (fun p => pieceEntries (decide (a.priv = 2)) (s.piecesOf l { ea := ((a.rg r).toNat + 8 * p.2) % 2 ^ 64, n := 8, need := .w, align := 8 })
    (leBytes 8 (a.rg p.1).toNat))

/-- Enter what the buffer has room for of the entries ks, or of those that a full buffer has kept out, beat by beat of w entries: a beat
whose entries are not all free does not begin (R97). True when all have entered. Each takes one entry. -/
def Core.pushSome (c : Core) (w : Nat) (ks : List SbKind) : Core × Bool :=
  let todo := if c.arch.rest.isEmpty then ks else c.arch.rest
  let n := if todo.length ≤ c.room then todo.length else c.room / w * w
  let left := todo.drop n
  ({ (c.push (todo.take n)) with arch := { c.arch with rest := left } }, left.isEmpty)

/-- The atomic accesses of a group come before the loads of later slots; those of the private bit RAM are none (07 R317). -/
def isAtomicOp (a : Arch) (op : SlotOp) : Bool :=
  match op with
  | .atomic _ _ _ _ _ _ | .cas2 _ _ _ _ _ _ => true
  | .bitTas r _ => !isPrivBit (a.rg r).toNat
  | .bitXch ba _ _ => !isPrivBit ba.toNat
  | _ => false

/-- Every read, then every write of a group. -/
def State.issueAll (s : State) (l : Nat) (sb0 : List SbEntry) (ops : List (Nat × SlotOp)) : State :=
  let a := (s.core l).arch
  let rd := ops.foldl (fun (t : State × Bool) p => (t.1.issueRead l sb0 t.2 p.1 p.2, t.2 || isAtomicOp a p.2)) (s, false)
  ops.foldl (fun t p => t.issueWrite l (s.core l).nextMiss p.1 p.2) rd.1

/-- The address and mask registers of an SMM. -/
def SlotOp.smmOf : SlotOp → Option (Nat × Nat)
  | .smm r b => some (r, b)
  | _ => none

/-- A group needs the 4-clock freeze (04 R210, R212). -/
def needsFreeze (ct : Bool) (g : List Slot) : Bool := g.any (fun x => x.sub || (ct && x.freezing))

/-- The control transfer of a group: taken or not, and its target. -/
def brOf (g : List Slot) : Option (Bool × Word) := g.findSome? (fun x => match x.op with | .branch tk t _ _ => some (tk, t) | _ => none)

/-- Whether a slot is RDTIME, which a follower issues in its leader's order (16 R750). -/
def Slot.isRdtime (z : Slot) : Bool := match z.op with | .rdtime _ => true | _ => false

/-- What a group needs before it can issue, besides room: room for E to lead in RX7-compatible mode (06 R298), the leader's value for an RDTIME of a follower (16 R750), and no other instruction half done. -/
def State.mayIssue (s : State) (l : Nat) (g : List Slot) (n : Nat) : Bool :=
  let c := s.core l
  s.rxRoom l n
  && (c.arch.rest.isEmpty || g.any (fun x => x.op.smmOf.isSome))
  && (!g.any Slot.isRdtime || s.dpx.turn { kind := 2, addr := 0, agent := l })

/-- The capture before a group or iteration that makes a DEV access or a once-only access (06 R268). -/
def State.bracket (s : State) (l : Nat) (g : List Slot) : State := if g.any (fun x => s.bracketed l x.op) then s.capture l else s

/-- Issue a checked group that is no repeat; none while it cannot issue yet. -/
def State.issueGroup (s0 : State) (l : Nat) (g : List Slot) : Option State :=
  let n := (g.map (fun x => x.op.beats (s0.core l).arch)).foldl Nat.max 1
  let ops := g.zipIdx.map (fun p => (p.2, p.1.op))
  if !s0.mayIssue l g n then none
  else
    let s := s0.bracket l g
    let c := s.core l
    let smm := g.findSome? (fun x => x.op.smmOf)
    let (c1, done) := match smm with | some p => c.pushSome 2 (s.smmEntries l p.1 p.2) | none => (c, true)
    if !done then (if c1.sb.length = c.sb.length then none else some (s.setCore l { c1 with group := [] }))
    else
      let s1 := if smm.isSome then s.setCore l { c1 with arch := c1.arch.setBk { c1.arch.bk with mprog := 0 } } else s
      let s2 := s1.issueAll l c.sb ops
      if 32 < (((s2.core l).sb).map (fun e => e.kind.weight)).foldl (· + ·) 0 then none
      else
        let c3 := s2.core l
        let c4 := { c3 with group := [], freezes := if needsFreeze c.ct g then c3.freezes ++ [.subnormal] else c3.freezes,
                            arch := { c3.arch.advance g.length (brOf g) with repLeft := none } }
        some (((s2.setCore l (Core.beats n c4)).rxGroup l n).settle l)

/-! ## Repeats -/

/-- The advance of the address register under REP (03 R175): register and bytes or bits. -/
def SlotOp.repAdvance (a : Arch) : SlotOp → Option (Nat × Nat)
  | .bitWrite _ _ r _ => some (r, 1)
  | .smm r b | .lmm r b => some (r, 8 * (maskRegs (a.rg b)).length)
  | _ => none

/-- The beats of one iteration (03 R174). -/
def SlotOp.iterBeats (a : Arch) : SlotOp → Nat
  | .bitTas _ _ => 4
  | o => o.beats a

/-- The repeat has ended: the group after it is next. -/
def State.repEnd (s : State) (l : Nat) : State :=
  let c := s.core l
  s.setCore l { c with group := [], arch := { c.arch.advance 2 none with repLeft := none, tas := false, repStep := none } }

/-- The bit that the iteration of a repeated BTAS returns where it is known as the iteration runs: in the private bit RAM, and
from the once-only log (03 R174, 06 R275). -/
def State.tasNow (s : State) (l : Nat) (y : Slot) : Option Bool :=
  match y.op with
  | .bitTas q _ =>
    let c := s.core l
    let ba := (c.arch.rg q).toNat
    if isPrivBit ba then some (c.privBit c.sb ba) else (c.logged (onceKey c.arch 1 0)).map (fun v => v.getLsbD 0)
  | _ => none

/-- The state whose completion ends the repeat early (03 R174). -/
def SlotOp.stepOf (a : Arch) : SlotOp → Option (Bool × Nat)
  | .dstepF d => if a.bk.ct then none else some (false, d)
  | .fstep d => if a.bk.ct then none else some (true, d)
  | _ => none
def Arch.stepDone (a : Arch) (p : Option (Bool × Nat)) : Bool :=
  match p with
  | some (true, d) => decide (fld (a.rf (d + 3)).toNat 0 5 = 0)
  | some (false, d) => decide (fld (a.rg (d + 3)).toNat 0 7 = 0)
  | none => false

/-- One iteration of the instruction in y with left iterations to run; none while it cannot begin. -/
def State.repIter (s0 : State) (l r left : Nat) (y : Slot) : Option State :=
  let n := y.op.iterBeats (s0.core l).arch
  if !s0.mayIssue l [y] n then none
  else
    let s := s0.bracket l [y]
    let c := s.core l
    let a := c.arch
    let smm := y.op.smmOf
    let (c1, done) := match smm with | some p => c.pushSome 2 (s.smmEntries l p.1 p.2) | none => (c, true)
    if !done then (if c1.sb.length = c.sb.length then none else some (s.setCore l { c1 with group := [] }))
    else
      let s1 := if smm.isSome then s.setCore l { c1 with arch := c1.arch.setBk { c1.arch.bk with mprog := 0 } } else s
      let s2 := s1.issueAll l c.sb [(1, y.op)]
      if 32 < (((s2.core l).sb).map (fun e => e.kind.weight)).foldl (· + ·) 0 then none
      else
        let adv := match y.op.repAdvance a with | some (q, k) => [res (.g q) (a.rg q + BitVec.ofNat 64 k) n] | none => []
        let c3 := (s2.core l).fly (adv ++ [res (.g r) (BitVec.ofNat 64 (left - 1)) n])
        let tas := match y.op with | .bitTas _ _ => (s.tasNow l y).isNone | _ => false
        let c4 := { c3 with freezes := if needsFreeze a.bk.ct [y] then c3.freezes ++ [.subnormal] else c3.freezes,
                            arch := { c3.arch with repLeft := some (left - 1), tas := tas, repStep := y.op.stepOf a } }
        let s3 := s2.setCore l (Core.beats n c4)
        some ((if a.repLeft.isSome then s3.rxIter l n else s3.rxGroup l n).settle l)

/-- The core stands between two iterations and can begin the next (R97, 03 R178). -/
def State.canIter (s : State) (l : Nat) : Bool :=
  let c := s.core l
  c.freezes.isEmpty && !c.due && decide (c.owed = 0) && decide (c.nMiss ≤ 1) && c.poisoned.isNone && c.mchk.isNone && !c.arch.tas && c.arch.rest.isEmpty && !c.halting
  && !s.intrNow l

/-- Iterations of the repeat of y on count register r, at most upto of them now (03 R171 to R179). -/
def State.repRun (l r : Nat) (y : Slot) : Nat → Bool → State → State
  | 0, _, s => s
  | n + 1, first, s =>
    let c := s.core l
    let left := c.arch.repCount r
    if !first && !s.canIter l then s
    else
      match (if first then Acc.ok [] else s.iterCheck l c y.op) with
      | .poison pa => s.walkPoison l pa
      | .trap t => (s.modArch l (fun a => a.setBk { a.bk with repact := true })).take l t c.arch.pc
      | .ok _ =>
        match s.repIter l r left y with
        | none => s
        | some s1 =>
          let c1 := s1.core l
          if !c1.arch.rest.isEmpty || c1.arch.tas then s1
          else if left ≤ 1 || c1.arch.stepDone (y.op.stepOf c.arch) || s.tasNow l y = some false then s1.repEnd l
          else State.repRun l r y n false s1

/-- Issue a checked REP group: a count of 0 takes one beat, with the freeze of constant time when the group holds a freezing operation or step (R173,
04 R212), otherwise the iterations run (R86, 03 R170 to R181); none while it cannot issue yet. -/
def State.issueRep (s : State) (l r upto : Nat) (y : Slot) : Option State :=
  let c0 := s.core l
  let c := { c0 with group := [], arch := c0.arch.setBk { c0.arch.bk with repact := false } }
  let s0 := s.setCore l c
  if c.arch.repCount r = 0 then
    some ((s0.setCore l (Core.beats 1 { c with freezes := if c.arch.bk.ct && y.freezing then c.freezes ++ [.subnormal] else c.freezes,
                                               arch := { c.arch.advance 2 none with repLeft := none } })).rxGroup l 1)
  else
    match s0.repIter l r (c.arch.repCount r) y with
    | none => none
    | some _ => some (State.repRun l r y (Nat.max 1 upto) true s0)

/-! ## Forming a group -/

/-- The core can take an instruction: it runs, nothing freezes it, and no entry stands before it (R95, R97, 05 R240). An SMM or SAVEBANK that
a full buffer has stopped partway goes on before any entry and any halt. -/
def Core.canIssue (c : Core) : Bool :=
  decide (c.run = .running) && c.freezes.isEmpty && !c.waiting && c.barrier.isNone && c.entryWait.isNone
  && decide (c.owed = 0) && !c.due && decide (c.nMiss ≤ 1) && !c.arch.tas && (!c.arch.rest.isEmpty || (c.mchk.isNone && c.poisoned.isNone && !c.halting))

/-- The next group of core l can issue: no freeze of the core (R95, R97), of a pair that leads by 4,096 beats (06 R298) or of the
module (16 R747, R748) stands, and no interrupt comes before it (05 R240). -/
def State.ready (s : State) (l : Nat) : Bool :=
  s.lcExists l && (s.core l).canIssue && !s.moduleStopped && !s.dpx.frozen && (!(s.core l).arch.rest.isEmpty || !s.intrNow l) && s.rxRoom l 1

/-- What the fetch of the words finds as their stripes are decoded (13 R634). -/
def State.fetchSees (s : State) (l : Nat) (ws : List Nat) : State :=
  ws.foldl (fun t a => match t.translate (t.core l) (t.core l).priv .x (a % 2 ^ 64) with | .ok pa _ => t.coreSees l pa 0x03 | _ => t) s

/-- The fetch of the words makes no record: something that is no carve-out backs each, and no symbol of its stripe is in error. -/
def State.fetchQuiet (s : State) (c : Core) (ws : List Nat) : Bool :=
  (s.fetchHole c ws).isNone && ws.all (fun a => match s.translate c c.priv .x (a % 2 ^ 64) with | .ok pa _ => s.quiet (pa / 128) | _ => true)

/-- A word of the group stands where nothing backs the address: its fetch makes a UE record (07 R333), in the carve-out a DE record (13 R648); true when that has
left a machine check before the group (05 R240). -/
def State.fetchUe (s : State) (l : Nat) (ws : List Nat) : State × Bool :=
  match s.fetchHole (s.core l) ws with
  | some pa =>
    if isCarve pa then (s.report 1282 (payCore clDE s l pa 0x03), false) else
    let t := s.report (968 + (pa - farLo) / 2 ^ 41 % 8) (payCore clUE s l pa 0x03)
    (t, (t.core l).mchk.isSome)
  | none => (s.fetchSees l ws, false)

/-- The check before a group, or the next iteration of a repeat that stands between two, begins; an SMM that a full buffer has stopped
partway has been checked (R89, 03 R146, R179). -/
def State.wordsCheck (s : State) (l : Nat) (g : List Slot) (stop : Bool) : Acc :=
  let c := s.core l
  if !c.arch.rest.isEmpty then .ok []
  else
    match c.arch.repLeft, repOf g with
    | some _, some (_, _, y) => s.iterCheck l c y.op
    | _, _ => s.groupCheck l c g stop

/-- CSTAT.REPACT after a trap of group g: set by the trap of an iteration, also of the first, and 0 after ILLREP (03 R177, R179). A decode trap of the
repeated word is taken as one found for iteration 1 unless the count is 0 (DESIGN CHOICE: R179 does not say whether ILLOP, PRIV and FPDIS of that
word are; log entry 170). -/
def Core.repTrap (c : Core) (g : List Slot) (t : Trap) : Core :=
  let it : Bool := match repOf g with | some (r, _, _) => decide (c.arch.repCount r ≠ 0) && decide (t.slot = 1) | none => false
  { c with arch := c.arch.setBk { c.arch.bk with repact := decide (t.cause ≠ .illrep) && (it || c.arch.bk.repact) } }

/-- The group is complete: it traps as a whole, or it issues; nothing happens while it cannot issue yet. -/
def State.closeGroup (s0 : State) (l : Nat) (g : List Slot) (stop : Bool) : State :=
  let c0 := s0.core l
  let (s, ue) := if c0.arch.rest.isEmpty && c0.arch.repLeft.isNone then s0.fetchUe l (fetchWords c0.arch.pc.toNat g) else (s0, false)
  let c := s.core l
  if ue then s.setCore l { c with group := [] }
  else
    match s.wordsCheck l g stop with
    | .poison pa => (s.setCore l { c with group := [] }).walkPoison l pa
    | .trap t => (s.setCore l (c.repTrap g t)).take l t c.arch.pc
    | .ok _ =>
      match repOf g with
      | some (r, u, y) => (s.issueRep l r u y).getD s
      | none => (s.issueGroup l g).getD s

/-- An instruction word reaches the core at x: it joins the group being formed; the word with the stop bit, or a fourth
word, closes the group (R82). -/
def State.coreOp (s : State) (x : At) (f : Core → Slot) : State :=
  if !s.ready x.lc then s
  else
    let c := s.core x.lc
    let g := c.group ++ [f c]
    if c.arch.badPc then s.takeBadPc x.lc
    else if x.stop || decide (4 ≤ g.length) then s.closeGroup x.lc g x.stop else s.setCore x.lc { c with group := g }

/-! ## Decode traps (R57, R59, 03 R113, R114) -/

/-- The trap that decode gives: ILLOP, then PRIV below the level, then FPDIS (05 R239). -/
def decTrap (c : Core) (ill : Bool) (lvl : Nat) (fp : Bool) : Option Trap :=
  if ill then some { cause := .illop }
  else if c.priv.toNat < lvl then some { cause := .priv, hyp := decide (lvl = 2) }
  else if fp && !c.arch.fpu then some { cause := .fpdis }
  else none

/-! ## Serialising instructions (R85) -/

/-- A serialising instruction reaches the core: alone in its group it waits for the outstanding miss, lets every result
land, is checked, and has its effect, with a capture before it (06 R268); with other words it breaches R85. Results land in the
idle beats before the check, whatever the check finds (R85, R107; log entry 129), so that no result of an earlier group lands in
the beat of an MTC to FSTAT (R65; log entry 129). The idle beats count in RX7-compatible mode (R94, 06 R298). Poison that lands stops it (05
R243). -/
def State.serialOp (s : State) (x : At) (kind : Slot) (run : State → State) : State :=
  if !s.ready x.lc then s
  else
    let c := s.core x.lc
    if c.arch.badPc then s.takeBadPc x.lc
    else if !(c.group.isEmpty && x.stop) then s.coreOp x (fun _ => kind)
    else if !c.misses.isEmpty || !c.arch.rest.isEmpty then s
    else
      let (s1, ue) := ((s.setCore x.lc c.idle).rxBeats x.lc c.idleBeats).fetchUe x.lc [c.arch.pc.toNat]
      let c1 := s1.core x.lc
      if ue || c1.poisoned.isSome then s1
      else
        match s1.groupCheck x.lc c1 [kind] true with
        | .poison pa => s1.walkPoison x.lc pa
        | .trap t => s1.take x.lc t c1.arch.pc
        | .ok _ => run (s1.capture x.lc)

/-- The slot of a serialising instruction with its decode trap. -/
def serialSlot (t : Option Trap) (mem fp noDelay : Bool) : Slot := { op := .serial, mem := mem, fp := fp, serial := true, noDelay := noDelay, trap := t }

end Sys2Proof.Machine
end

