-- ==== Sys2Proof/Machine/Integer.lean ====
section
/-! DEFINITION. The integer, bit-register, multiply and integer divide-step instructions (03 R117 to R124, 04 R182 to
R188). -/

namespace Sys2Proof.Machine

/-- The slot of an instruction with register results only and no trap but a decode trap. -/
def landSlot (c : Core) (ill : Bool) (fs : List Flight) : Slot := { op := .land fs, trap := decTrap c ill 0 false }

/-- Gd := f Ga Gb with latency 1 (R117). -/
def aluR (r : RF) (f : Word → Word → Word) (c : Core) : Slot := landSlot c false [resG r.d (f (c.rg r.a) (c.rg r.b)) 1]
/-- Gd := f Ga, the b field unused (R113). -/
def aluU (r : RF) (f : Word → Word) (c : Core) : Slot := landSlot c (decide (r.b ≠ 0)) [resG r.d (f (c.rg r.a)) 1]
/-- Gd := f Ga sext(imm12). -/
def aluI (f : IF) (g : Word → Word → Word) (c : Core) : Slot := landSlot c false [resG f.d (g (c.rg f.a) (sxImm f.imm)) 1]
/-- A shift by an immediate: imm12[11:8] is unused (R120). -/
def shI (f : ShF) (g : Word → Nat → Word) (c : Core) : Slot := landSlot c (decide (f.hi ≠ 0)) [resG f.d (g (c.rg f.a) f.sh.toNat) 1]
/-- Bd := f Ba Bb (R121). -/
def bitR (r : RF) (f : Bool → Bool → Bool) (c : Core) : Slot := landSlot c false [resB r.d (f (c.rb r.a) (c.rb r.b)) 1]
/-- A multiply (R122): latency 3, class MD. -/
def mulR (r : RF) (f : Word → Word → Word) (c : Core) : Slot := { landSlot c false [resG r.d (f (c.rg r.a) (c.rg r.b)) 3] with md := true }

/-- The count of a register shift: Gb[5:0]. -/
def shCnt (w : Word) : Nat := w.toNat % 64
def minSW (x y : Word) : Word := if y.slt x then y else x
def maxSW (x y : Word) : Word := if x.slt y then y else x
def minUW (x y : Word) : Word := if y.ult x then y else x
def maxUW (x y : Word) : Word := if x.ult y then y else x

/-- The high 64 bits of the signed and the unsigned product. -/
def mulhW (x y : Word) : Word := BitVec.ofInt 64 (x.toInt * y.toInt / 2 ^ 64)
def mulhuW (x y : Word) : Word := BitVec.ofNat 64 (x.toNat * y.toNat / 2 ^ 64)

/-- The specifier of an integer division state: a multiple of 4 from 4 to 60 (R123). -/
def divReg (d : Reg) : Bool := decide (d.toNat % 4 = 0) && decide (4 ≤ d.toNat)
/-- The registers of a division state. -/
def quad (d : Reg) : List Nat := (List.range 4).map (fun k => d.toNat + k)

def dinitSlot (r : RF) (w sgn : Bool) (c : Core) : Slot :=
  { landSlot c (!divReg r.d) (dstRes r.d.toNat (dInit w sgn (c.rg r.a).toNat (c.rg r.b).toNat)) with md := true }
def dstepSlot (r : RF) (op : SlotOp) (c : Core) : Slot :=
  { op := op, md := true, trap := decTrap c (!divReg r.d || decide (r.a ≠ 0) || decide (r.b ≠ 0)) 0 false, regs := [r.d.toNat], wr := quad r.d }
def dfinSlot (r : RF) (c : Core) : Slot :=
  let q := dFin (c.arch.dst r.d.toNat)
  { landSlot c (!divReg r.d || decide (r.a ≠ 0) || decide (r.b ≠ 0)) [resG r.d (BitVec.ofNat 64 q.1) 1, res (.g (r.d.toNat + 1)) (BitVec.ofNat 64 q.2) 1] with md := true }

def execAdd (x : At) (r : RF) (s : State) : Out := .next (s.coreOp x (aluR r (· + ·)))
def execSub (x : At) (r : RF) (s : State) : Out := .next (s.coreOp x (aluR r (· - ·)))
def execAndR (x : At) (r : RF) (s : State) : Out := .next (s.coreOp x (aluR r (· &&& ·)))
def execOrR (x : At) (r : RF) (s : State) : Out := .next (s.coreOp x (aluR r (· ||| ·)))
def execXorR (x : At) (r : RF) (s : State) : Out := .next (s.coreOp x (aluR r (· ^^^ ·)))
def execAndn (x : At) (r : RF) (s : State) : Out := .next (s.coreOp x (aluR r (fun p q => p &&& ~~~q)))
def execShl (x : At) (r : RF) (s : State) : Out := .next (s.coreOp x (aluR r (fun p q => p <<< shCnt q)))
def execShr (x : At) (r : RF) (s : State) : Out := .next (s.coreOp x (aluR r (fun p q => p >>> shCnt q)))
def execSar (x : At) (r : RF) (s : State) : Out := .next (s.coreOp x (aluR r (fun p q => p.sshiftRight (shCnt q))))
def execMinS (x : At) (r : RF) (s : State) : Out := .next (s.coreOp x (aluR r minSW))
def execMaxS (x : At) (r : RF) (s : State) : Out := .next (s.coreOp x (aluR r maxSW))
def execMinu (x : At) (r : RF) (s : State) : Out := .next (s.coreOp x (aluR r minUW))
def execMaxu (x : At) (r : RF) (s : State) : Out := .next (s.coreOp x (aluR r maxUW))
def execClz (x : At) (r : RF) (s : State) : Out := .next (s.coreOp x (aluU r (fun p => BitVec.ofNat 64 (clzW p))))
def execPopc (x : At) (r : RF) (s : State) : Out := .next (s.coreOp x (aluU r (fun p => BitVec.ofNat 64 (popcW p))))
def execAddi (x : At) (f : IF) (s : State) : Out := .next (s.coreOp x (aluI f (· + ·)))
def execAndi (x : At) (f : IF) (s : State) : Out := .next (s.coreOp x (aluI f (· &&& ·)))
def execOri (x : At) (f : IF) (s : State) : Out := .next (s.coreOp x (aluI f (· ||| ·)))
def execXori (x : At) (f : IF) (s : State) : Out := .next (s.coreOp x (aluI f (· ^^^ ·)))
def execShli (x : At) (f : ShF) (s : State) : Out := .next (s.coreOp x (shI f (fun p n => p <<< n)))
def execShri (x : At) (f : ShF) (s : State) : Out := .next (s.coreOp x (shI f (fun p n => p >>> n)))
def execSari (x : At) (f : ShF) (s : State) : Out := .next (s.coreOp x (shI f (fun p n => p.sshiftRight n)))
def execLim (x : At) (d : Reg) (imm : BitVec 18) (s : State) : Out := .next (s.coreOp x (fun c => landSlot c false [resG d (limVal imm) 1]))
/-- CMP.cc: a cc of 6 to 63 is an ILLOP trap (R118). -/
def execCmp (x : At) (r : RF) (cc : BitVec 6) (s : State) : Out :=
  .next (s.coreOp x (fun c => landSlot c (decide (6 ≤ cc.toNat)) [resB r.d (ccHolds cc.toNat (c.rg r.a) (c.rg r.b)) 1]))
def execCmpi (x : At) (f : IF) (cc : Cc) (s : State) : Out :=
  .next (s.coreOp x (fun c => landSlot c false [resB f.d (ccHolds (Cc.num cc) (c.rg f.a) (sxImm f.imm)) 1]))
def execSel (x : At) (r : RF) (b : Reg) (s : State) : Out :=
  .next (s.coreOp x (fun c => landSlot c false [resG r.d (if c.rb b then c.rg r.a else c.rg r.b) 1]))
/-- NOP has every other field 0 (R116). -/
def execNop (x : At) (r : RF) (s : State) : Out := .next (s.coreOp x (fun c => landSlot c (decide (r ≠ ⟨0, 0, 0⟩)) []))
def execBand (x : At) (r : RF) (s : State) : Out := .next (s.coreOp x (bitR r (· && ·)))
def execBor (x : At) (r : RF) (s : State) : Out := .next (s.coreOp x (bitR r (· || ·)))
def execBxor (x : At) (r : RF) (s : State) : Out := .next (s.coreOp x (bitR r (fun p q => p != q)))
def execBandn (x : At) (r : RF) (s : State) : Out := .next (s.coreOp x (bitR r (fun p q => p && !q)))
def execBnot (x : At) (r : RF) (s : State) : Out := .next (s.coreOp x (fun c => landSlot c (decide (r.b ≠ 0)) [resB r.d (!c.rb r.a) 1]))
def execBextr (x : At) (r : RF) (s : State) : Out := .next (s.coreOp x (fun c => landSlot c false [resB r.d ((c.rg r.a).getLsbD (shCnt (c.rg r.b))) 1]))
def execBtog (x : At) (r : RF) (s : State) : Out :=
  .next (s.coreOp x (fun c => landSlot c (decide (r.b ≠ 0)) [resG r.d (BitVec.ofNat 64 (b2n (c.rb r.a))) 1]))
/-- BEXT: imm12[11:6] is unused (R121). -/
def execBext (x : At) (f : IF) (s : State) : Out :=
  .next (s.coreOp x (fun c => landSlot c (decide (64 ≤ f.imm.toNat)) [resB f.d ((c.rg f.a).getLsbD (f.imm.toNat % 64)) 1]))
def execMul (x : At) (r : RF) (s : State) : Out := .next (s.coreOp x (mulR r (· * ·)))
def execMulh (x : At) (r : RF) (s : State) : Out := .next (s.coreOp x (mulR r mulhW))
def execMulhu (x : At) (r : RF) (s : State) : Out := .next (s.coreOp x (mulR r mulhuW))
def execDinitD (x : At) (r : RF) (s : State) : Out := .next (s.coreOp x (dinitSlot r false true))
def execDinitDu (x : At) (r : RF) (s : State) : Out := .next (s.coreOp x (dinitSlot r false false))
def execDinitW (x : At) (r : RF) (s : State) : Out := .next (s.coreOp x (dinitSlot r true true))
def execDinitWu (x : At) (r : RF) (s : State) : Out := .next (s.coreOp x (dinitSlot r true false))
def execDstep (x : At) (r : RF) (s : State) : Out := .next (s.coreOp x (dstepSlot r (.dstep r.d.toNat)))
def execDstepF (x : At) (r : RF) (s : State) : Out := .next (s.coreOp x (dstepSlot r (.dstepF r.d.toNat)))
def execDfin (x : At) (r : RF) (s : State) : Out := .next (s.coreOp x (dfinSlot r))

/-- A word whose major or minor opcode is undefined is an ILLOP trap at decode (02 R81). -/
def execUndefinedOpcode (x : At) (_w : BitVec 32) (s : State) : Out := .next (s.coreOp x (fun c => landSlot c true []))

end Sys2Proof.Machine
end

