-- ==== Sys2Proof/Machine/LoadStore.lean ====
section
/-! DEFINITION. Loads, stores, atomics, bit-space instructions, store and load multiple, block moves, prefetch and cache
maintenance (03 R125 to R157, 07 R355 to R358). -/

namespace Sys2Proof.Machine

/-- The address of the I format: Ga + sext(imm12) (R125, R136). -/
def eaI (c : Core) (f : IF) : Word := c.rg f.a + sxImm f.imm

/-- A load into Gd (R125). -/
def ldG (f : IF) (n : Nat) (e : Ext) (c : Core) : Slot := { op := .load { n := n, e := e, dst := .g f.d.toNat, ea := eaI c f }, mem := true }
/-- A store of the low n bytes of Gs (R125, R126). -/
def stG (f : IF) (n : Nat) (c : Core) : Slot := { op := .store n (eaI c f) (c.rg f.d) false, mem := true }
/-- An F load or store: specifiers 32 to 63 are an ILLOP trap (02 R57), FPDIS with FPU 0. -/
def ldF (f : IF) (n : Nat) (c : Core) : Slot :=
  { op := .load { n := n, e := .zero, dst := .f f.d.toNat, ea := eaI c f }, mem := true, fp := true, trap := decTrap c (decide (32 ≤ f.d.toNat)) 0 true }
def stF (f : IF) (n : Nat) (c : Core) : Slot :=
  { op := .store n (eaI c f) (c.rf f.d) true, mem := true, fp := true, trap := decTrap c (decide (32 ≤ f.d.toNat)) 0 true }

def execLdB (x : At) (f : IF) (s : State) : Out := .next (s.coreOp x (ldG f 1 .sign))
def execLdH (x : At) (f : IF) (s : State) : Out := .next (s.coreOp x (ldG f 2 .sign))
def execLdW (x : At) (f : IF) (s : State) : Out := .next (s.coreOp x (ldG f 4 .sign))
def execLdD (x : At) (f : IF) (s : State) : Out := .next (s.coreOp x (ldG f 8 .zero))
def execLdBu (x : At) (f : IF) (s : State) : Out := .next (s.coreOp x (ldG f 1 .zero))
def execLdHu (x : At) (f : IF) (s : State) : Out := .next (s.coreOp x (ldG f 2 .zero))
def execLdWu (x : At) (f : IF) (s : State) : Out := .next (s.coreOp x (ldG f 4 .zero))
def execStB (x : At) (f : IF) (s : State) : Out := .next (s.coreOp x (stG f 1))
def execStH (x : At) (f : IF) (s : State) : Out := .next (s.coreOp x (stG f 2))
def execStW (x : At) (f : IF) (s : State) : Out := .next (s.coreOp x (stG f 4))
def execStD (x : At) (f : IF) (s : State) : Out := .next (s.coreOp x (stG f 8))
def execLdfS (x : At) (f : IF) (s : State) : Out := .next (s.coreOp x (ldF f 4))
def execLdfD (x : At) (f : IF) (s : State) : Out := .next (s.coreOp x (ldF f 8))
def execStfS (x : At) (f : IF) (s : State) : Out := .next (s.coreOp x (stF f 4))
def execStfD (x : At) (f : IF) (s : State) : Out := .next (s.coreOp x (stF f 8))

/-- An atomic of 1 to 8 bytes; minor[2], the high bit of sz, is unused (R130, R131). -/
def atomSlot (op : RmwOp) (r : RF) (sz : BitVec 3) (c : Core) : Slot :=
  { op := .atomic op (2 ^ (sz.toNat % 4)) (c.rg r.a) (c.rg r.d) (c.rg r.b) r.d.toNat, mem := true, trap := decTrap c (decide (4 ≤ sz.toNat)) 0 false }

def execCas (x : At) (r : RF) (sz : BitVec 3) (s : State) : Out := .next (s.coreOp x (atomSlot .cas r sz))
def execSwap (x : At) (r : RF) (sz : BitVec 3) (s : State) : Out := .next (s.coreOp x (atomSlot .swap r sz))
def execFaddA (x : At) (r : RF) (sz : BitVec 3) (s : State) : Out := .next (s.coreOp x (atomSlot .add r sz))
def execForA (x : At) (r : RF) (sz : BitVec 3) (s : State) : Out := .next (s.coreOp x (atomSlot .or r sz))
def execFandA (x : At) (r : RF) (sz : BitVec 3) (s : State) : Out := .next (s.coreOp x (atomSlot .and r sz))
/-- CAS2: d and b even, size 0b11 (R132). -/
def execCas2 (x : At) (r : RF) (sz : BitVec 3) (s : State) : Out :=
  .next (s.coreOp x (fun c =>
    { op := .cas2 (c.rg r.a) (c.rg r.d) (c.arch.rg (r.d.toNat + 1)) (c.rg r.b) (c.arch.rg (r.b.toNat + 1)) r.d.toNat, mem := true,
      trap := decTrap c (decide (sz ≠ 3) || decide (r.d.toNat % 2 ≠ 0) || decide (r.b.toNat % 2 ≠ 0)) 0 false }))

/-- A bit-space write of the I format (R136, R139); BST names its source in the d field, the others leave it unused. -/
def bitWr (f : IF) (op : BitOp) (c : Core) : Slot :=
  { op := .bitWrite op none f.a.toNat (sxImm f.imm), mem := true, trap := decTrap c (decide (f.d ≠ 0)) 0 false, regs := [f.a.toNat] }

def execBld (x : At) (f : IF) (s : State) : Out := .next (s.coreOp x (fun c => { op := .bitRead (eaI c f) f.d.toNat, mem := true }))
def execBst (x : At) (f : IF) (s : State) : Out :=
  .next (s.coreOp x (fun c => { op := .bitWrite (.put (c.rb f.d)) (some f.d.toNat) f.a.toNat (sxImm f.imm), mem := true, regs := [f.a.toNat] }))
def execBset (x : At) (f : IF) (s : State) : Out := .next (s.coreOp x (bitWr f (.put true)))
def execBclr (x : At) (f : IF) (s : State) : Out := .next (s.coreOp x (bitWr f (.put false)))
def execBflip (x : At) (f : IF) (s : State) : Out := .next (s.coreOp x (bitWr f .flip))
def execBtas (x : At) (r : RF) (s : State) : Out :=
  .next (s.coreOp x (fun c => { op := .bitTas r.a.toNat r.d.toNat, mem := true, trap := decTrap c (decide (r.b ≠ 0)) 0 false, regs := [r.a.toNat] }))
def execBxch (x : At) (r : RF) (s : State) : Out := .next (s.coreOp x (fun c => { op := .bitXch (c.rg r.a) (c.rb r.b) r.d.toNat, mem := true }))

/-- SMM and LMM leave d unused (R140). -/
def mmSlot (r : RF) (op : SlotOp) (c : Core) : Slot :=
  { op := op, mem := true, multi := true, trap := decTrap c (decide (r.d ≠ 0)) 0 false, regs := [r.a.toNat, r.b.toNat] }
def execSmm (x : At) (r : RF) (s : State) : Out := .next (s.coreOp x (mmSlot r (.smm r.a.toNat r.b.toNat)))
def execLmm (x : At) (r : RF) (s : State) : Out := .next (s.coreOp x (mmSlot r (.lmm r.a.toNat r.b.toNat)))

/-- MVB and MVL: d equal to a is an ILLOP trap, b is unused (R148); FILL and FILLL leave a unused. -/
def mvSlot (r : RF) (op : SlotOp) (c : Core) : Slot :=
  { op := op, mem := true, trap := decTrap c (decide (r.b ≠ 0) || decide (r.d = r.a)) 0 false, regs := [r.d.toNat, r.a.toNat] }
def fillSlot (r : RF) (op : SlotOp) (c : Core) : Slot :=
  { op := op, mem := true, trap := decTrap c (decide (r.a ≠ 0)) 0 false, regs := [r.d.toNat, r.b.toNat] }
def execMvb (x : At) (r : RF) (s : State) : Out := .next (s.coreOp x (mvSlot r (.mvb r.d.toNat r.a.toNat)))
def execMvl (x : At) (r : RF) (s : State) : Out := .next (s.coreOp x (mvSlot r (.mvl r.d.toNat r.a.toNat)))
def execFill (x : At) (r : RF) (s : State) : Out := .next (s.coreOp x (fillSlot r (.fill r.d.toNat r.b.toNat)))
def execFilll (x : At) (r : RF) (s : State) : Out := .next (s.coreOp x (fillSlot r (.filll r.d.toNat r.b.toNat)))

/-- A prefetch or maintenance by address (R153). -/
def eaA (c : Core) (a : Reg) (imm : BitVec 12) : Word := c.rg a + sxImm imm
def prefSlot (lvl : Nat) (a : Reg) (imm : BitVec 12) (c : Core) : Slot := { op := .pref lvl (eaA c a imm), mem := true }
def maintSlot (op : MaintOp) (lvl : Nat) (a : Reg) (imm : BitVec 12) (c : Core) : Slot :=
  { op := .maint op (eaA c a imm), mem := true, trap := decTrap c false lvl false }
def execPrefL1 (x : At) (a : Reg) (imm : BitVec 12) (s : State) : Out := .next (s.coreOp x (prefSlot 0 a imm))
def execPrefL1w (x : At) (a : Reg) (imm : BitVec 12) (s : State) : Out := .next (s.coreOp x (prefSlot 1 a imm))
def execPrefL2 (x : At) (a : Reg) (imm : BitVec 12) (s : State) : Out := .next (s.coreOp x (prefSlot 2 a imm))
def execPrefL3 (x : At) (a : Reg) (imm : BitVec 12) (s : State) : Out := .next (s.coreOp x (prefSlot 3 a imm))
def execClean (x : At) (a : Reg) (imm : BitVec 12) (s : State) : Out := .next (s.coreOp x (maintSlot .clean 0 a imm))
def execInval (x : At) (a : Reg) (imm : BitVec 12) (s : State) : Out := .next (s.coreOp x (maintSlot .inval 1 a imm))
def execClinv (x : At) (a : Reg) (imm : BitVec 12) (s : State) : Out := .next (s.coreOp x (maintSlot .clinv 0 a imm))

/-! ## Set/way maintenance (R156, R157, 07 R358) -/

/-- Maintenance of one way of L1D: a dirty line goes to L2, the next level down. -/
def State.swL1d (s : State) (n set way : Nat) (op : MaintOp) : State :=
  let p := s.pair n
  match p.l1d.at geoL1d set way with
  | none => s
  | some x =>
    let p1 := if op = .inval then p else p.l1dBack x
    s.setPair n { p1 with l1d := p.l1d.put geoL1d set way (if op = .clean then some { x with dirty := false } else none) }

/-- Maintenance of one way of L2, with the pair's L1 copies; a dirty line goes to the chiplet's L3. -/
def State.swL2 (s : State) (n set way : Nat) (op : MaintOp) : State :=
  let p := s.pair n
  match p.l2.at geoL2 set way with
  | none => s
  | some x =>
    let y := if op = .inval then x else p.newest x
    let p1 : Pair :=
      if op = .clean then
        { p with l2 := p.l2.put geoL2 set way (some { y with dirty := false }),
                 l1d := match p.l1d.find y.num with | some _ => p.l1d.update geoL1d y.num y.data false | none => p.l1d }
      else { p with l2 := p.l2.put geoL2 set way none, l1i := p.l1i.drop geoL1i x.num, l1d := p.l1d.drop geoL1d x.num }
    let s1 := s.setPair n p1
    if y.dirty && op ≠ .inval then s1.l3Put (n / 16) y else s1

/-- Maintenance of one way of L3: a dirty line goes into memory. -/
def State.swL3 (s : State) (c set way : Nat) (op : MaintOp) : State :=
  let ch := s.chip c
  match ch.l3.at geoL3 set way with
  | none => s
  | some x =>
    let s1 := if x.dirty && op ≠ .inval then s.writeLine x.num (lineBytes x.data) else s
    s1.setChip c { s1.chip c with l3 := (s1.chip c).l3.put geoL3 set way (if op = .clean then some { x with dirty := false } else none) }

/-- The set/way operation that G[a] names for a core of slot n (R156, R157). -/
def State.setWay (s : State) (n : Nat) (w : Nat) (op : MaintOp) : State :=
  let set := fld w 8 15
  let way := fld w 3 5
  match fld w 0 3 with
  | 0 => if set < 64 && way < 8 then s.swL1d n set way op else s
  | 1 => if set < 1024 && way < 16 - (s.pair n).scrw then s.swL2 n set way op else s
  | 2 => if set < 32768 && way < 32 then s.swL3 (n / 16) set way op else s
  | 3 => if set < 128 && way < 4 && op = .inval then s.setPair n { s.pair n with l1i := (s.pair n).l1i.put geoL1i set way none } else s
  | _ => s

/-- A set/way instruction: level H, serialising; only the a field is used. -/
def State.swOp (s : State) (x : At) (r : RF) (op : MaintOp) : State :=
  s.serialOp x (serialSlot (decTrap (s.core x.lc) (decide (r.d ≠ 0) || decide (r.b ≠ 0)) 2 false) false false false)
    (fun t => (t.setWay (pairOf x.lc) ((t.core x.lc).rg r.a).toNat op).retire x.lc)

def execCleanSw (x : At) (r : RF) (s : State) : Out := .next (s.swOp x r .clean)
def execInvalSw (x : At) (r : RF) (s : State) : Out := .next (s.swOp x r .inval)
def execClinvSw (x : At) (r : RF) (s : State) : Out := .next (s.swOp x r .clinv)

end Sys2Proof.Machine
end

