-- ==== Sys2Proof/Machine/System.lean ====
section
/-! DEFINITION. Control transfers, system calls and return, barriers, control registers, cache control, TLB invalidation
and the repeat prefix (02 R99 to R101, 03 R158 to R171, 05 R228 to R236, 07 R321 to R323, R350 to R354, R371). -/

namespace Sys2Proof.Machine

/-! ## Control transfers -/

/-- The address of the word being formed (R80). -/
def Core.wordPc (c : Core) : Word := c.arch.pc + BitVec.ofNat 64 (4 * c.group.length)
/-- The target of the branch format (R80). -/
def brTarget (c : Core) (f : BF) : Word := c.wordPc + f.disp.signExtend 64 * 4
/-- The address of the first word after a delay group of n words, four when it carries no stop bit in four (R101). -/
def delayLen (n : Nat) : Nat := Nat.min 4 (Nat.max 1 n)
def linkAddr (c : Core) (n : Nat) : Word := c.wordPc + BitVec.ofNat 64 (4 + 4 * delayLen n)

def execBr (x : At) (f : BF) (s : State) : Out := .next (s.coreOp x (fun c => { op := .branch (c.rb f.c) (brTarget c f) none 0, ct := true }))
/-- A CALL that is not taken leaves LK unchanged (R159). -/
def execCall (x : At) (f : BF) (n : Nat) (s : State) : Out :=
  .next (s.coreOp x (fun c => { op := .branch (c.rb f.c) (brTarget c f) (if c.rb f.c then some (linkAddr c n) else none) (delayLen n), ct := true }))
def execCallr (x : At) (r : RF) (n : Nat) (s : State) : Out :=
  .next (s.coreOp x (fun c => { op := .branch true (c.rg r.a) (some (linkAddr c n)) (delayLen n), ct := true, trap := decTrap c (decide (r.d ≠ 0) || decide (r.b ≠ 0)) 0 false }))
def execJmpr (x : At) (r : RF) (s : State) : Out :=
  .next (s.coreOp x (fun c => { op := .branch true (c.rg r.a) none 0, ct := true, trap := decTrap c (decide (r.d ≠ 0) || decide (r.b ≠ 0)) 0 false }))
def execJmprLk (x : At) (r : RF) (s : State) : Out :=
  .next (s.coreOp x (fun c => { op := .branch true c.arch.bk.lk none 0, ct := true, trap := decTrap c (decide (r ≠ ⟨0, 0, 0⟩)) 0 false }))

/-! ## System calls and return -/

/-- SVC n enters the next level; CEPC is the word after it (05 R233). It is serialising, so that a written LCTX takes effect as it
completes (07 R364), which it does not where bank exhaustion replaces it (05 R217). -/
def execSvc (x : At) (f : IF) (s : State) : Out :=
  .next (s.serialOp x (serialSlot (decTrap (s.core x.lc) (decide (f.d ≠ 0) || decide (f.a ≠ 0)) 0 false) false false true)
    (fun t => t.enterThen x.lc { cause := .svc, info := f.imm.toNat } ((t.core x.lc).arch.pc + 4) (fun u => if (t.core x.lc).arch.bank = 6 then u else u.lctxEffect x.lc)))

/-- RFE in bank 0 is an ILLOP trap (05 R235). -/
def rfeOp (x : At) (r : RF) (copy : Bool) (s : State) : State :=
  s.serialOp x (serialSlot (decTrap (s.core x.lc) (decide (r ≠ ⟨0, 0, 0⟩) || decide ((s.core x.lc).arch.bank = 0)) 1 false) false false true)
    (fun t => t.rfe x.lc copy)
def execRfe (x : At) (r : RF) (s : State) : Out := .next (rfeOp x r false s)
def execRfeC (x : At) (r : RF) (s : State) : Out := .next (rfeOp x r true s)

/-! ## Barriers and SAVEBANK -/

/-- A barrier begins to wait; its completion is a command of its own (07 R321 to R324). -/
def fenceOp (x : At) (r : RF) (b : Barrier) (s : State) : State :=
  s.serialOp x (serialSlot (decTrap (s.core x.lc) (decide (r ≠ ⟨0, 0, 0⟩)) 0 false) true false false)
    (fun t => t.modCore x.lc (fun c => { c with barrier := some b }))
def execFence (x : At) (r : RF) (s : State) : Out := .next (fenceOp x r .fence s)
def execFenceS (x : At) (r : RF) (s : State) : Out := .next (fenceOp x r .fenceS s)
def execFenceD (x : At) (r : RF) (s : State) : Out := .next (fenceOp x r .fenceD s)

/-- SAVEBANK writes the return bank into its frame, as far as the store buffer has room, and sets SAVED and FPSV when all
has entered (05 R228, R229); what a full buffer has stopped partway has been checked. -/
def State.saveBank (s : State) (l : Nat) : State :=
  let c := s.core l
  let a := c.arch
  let rb := fld a.bk.ccause.toNat 56 3
  let ob := a.bkOf rb
  let base := ob.cframe.toNat / 16 * 16
  let n := frameSize ob.fpx / 16
  match (if a.rest.isEmpty then s.frameCheck l c .w n base else .ok []) with
  | .poison pa => s.walkPoison l pa
  | .trap t => s.take l t a.pc
  | .ok ps =>
    let dt := s.delayTarget c ob a.bk.cepc
    let bytes := bankFrame ob dt (if ob.fpx then some (a.f, a.fstat) else none)
    let (c1, done) := c.pushSome 1 (pieceEntries (decide (c.priv = 2)) ps bytes)
    if !done then s.setCore l c1
    else
      let flags : Word := BitVec.ofNat 64 (1 + b2n ob.fpx * 2)
      (s.setCore l { c1 with arch := c1.arch.setBkOf rb { ob with cframe := ob.cframe ||| flags } }).retireAfter l n

def execSavebank (x : At) (r : RF) (s : State) : Out :=
  .next (
    if s.ready x.lc && !(s.core x.lc).arch.rest.isEmpty && (s.core x.lc).group.isEmpty && (s.core x.lc).misses.isEmpty && x.stop then s.saveBank x.lc
    else s.serialOp x (serialSlot (decTrap (s.core x.lc) (decide (r ≠ ⟨0, 0, 0⟩) || decide ((s.core x.lc).arch.bank = 0)) 1 false) true false false)
      (fun t => t.saveBank x.lc))

/-- WAIT stops issue; the pc already names the group after it (R163). It completes as it ends (State.waitEnd). -/
def execWait (x : At) (r : RF) (s : State) : Out :=
  .next (s.serialOp x (serialSlot (decTrap (s.core x.lc) (decide (r ≠ ⟨0, 0, 0⟩)) 1 false) false false false)
    (fun t => (t.modCore x.lc (fun c => { c with group := [], waiting := true, arch := { c.arch.advance 1 none with repLeft := none, rest := [] } })).rxGroup x.lc 1))

/-! ## Time, LK and TLB -/

def execRdtime (x : At) (r : RF) (s : State) : Out :=
  .next (s.coreOp x (fun c => { op := .rdtime r.d.toNat, mem := true, trap := decTrap c (decide (r.a ≠ 0) || decide (r.b ≠ 0)) 0 false }))
def execMflk (x : At) (r : RF) (s : State) : Out := .next (s.coreOp x (fun c => landSlot c (decide (r.a ≠ 0) || decide (r.b ≠ 0)) [resG r.d c.arch.bk.lk 1]))
def execMtlk (x : At) (r : RF) (s : State) : Out := .next (s.coreOp x (fun c => landSlot c (decide (r.d ≠ 0) || decide (r.b ≠ 0)) [res .lk (c.rg r.a) 1]))

/-- A TLB invalidation begins to wait (07 R371); the address or instance is read as it issues. -/
def tlbiOp (x : At) (r : RF) (lvl : Nat) (useA : Bool) (b : Core → Barrier) (s : State) : State :=
  s.serialOp x (serialSlot (decTrap (s.core x.lc) (decide (r.d ≠ 0) || decide (r.b ≠ 0) || (!useA && decide (r.a ≠ 0))) lvl false) false false false)
    (fun t => t.modCore x.lc (fun c => { c with barrier := some (b c) }))
def execTlbiV (x : At) (r : RF) (s : State) : Out := .next (tlbiOp x r 1 true (fun c => .tlbiV (c.rg r.a).toNat c.lctxCur.inst) s)
def execTlbiI (x : At) (r : RF) (s : State) : Out := .next (tlbiOp x r 2 true (fun c => .tlbiI ((c.rg r.a).toNat % 2 ^ 13)) s)
def execTlbiA (x : At) (r : RF) (s : State) : Out := .next (tlbiOp x r 2 false (fun _ => .tlbiA) s)

/-! ## Control registers (02 R59 to R62) -/

/-- The trap of an MFC or MTC: an unassigned number or a write with no access is ILLOP, below its level PRIV, FSTAT with FPU 0
FPDIS (R59, 05 R241). wr: MTC; more: another ILLOP. -/
def ctlTrap (c : Core) (n : Nat) (wr more : Bool) : Option Trap :=
  match ctlLevels n with
  | none => some { cause := .illop }
  | some (rd, w) =>
    if more || (wr && w.isNone) then some { cause := .illop }
    else
      let lv := if wr then w.getD 0 else rd
      if c.priv.toNat < lv then some { cause := .priv, info := 64 + n, hyp := decide (lv = 2) }
      else if n = 1 && !c.arch.fpu then some { cause := .fpdis }
      else none

/-- MFC Gd, n: latency 1, read in the issue beat of its group (R60, R88). -/
def execMfc (x : At) (r : RF) (n : BitVec 6) (s : State) : Out :=
  .next (s.coreOp x (fun c => { op := .mfc r.d.toNat n.toNat, fp := decide (n = 1), trap := ctlTrap c n.toNat false (decide (r.a ≠ 0) || decide (r.b ≠ 0)) }))

/-- MTC to CCTL from half O of a split pair is an ILLOP trap (06 R292). -/
def cctlIll (s : State) (l n : Nat) : Bool := decide (n = 8) && decide (l % 2 = 1) && decide ((s.pair (pairOf l)).mode = .split)

/-- CCTL after a write: SCRW keeps its value on 9 to 15 (07 R350). -/
def cctlWrite (old w : Word) : Word :=
  BitVec.ofNat 64 ((if fld w.toNat 12 4 ≤ 8 then fld w.toNat 12 4 else fld old.toNat 12 4) * 2 ^ 12 + fld w.toNat 0 4)

/-- Every line of a cache with its set and way, written back and dropped as CLINV does (07 R351). -/
def State.flushL1d (s : State) (n : Nat) : State := (s.pair n).l1d.lines.foldl (fun t e => t.swL1d n (e.1 / 8) (e.1 % 8) .clinv) s
def State.flushL2 (s : State) (n : Nat) (p : Nat → Bool) : State :=
  (s.pair n).l2.lines.foldl (fun t e => if p (e.1 % 16) then t.swL2 n (e.1 / 16) (e.1 % 16) .clinv else t) s

/-- The clean that a write of CCTL makes before it takes effect (07 R351, R352). The scratchpad bytes of newly converted ways are 0,
those of released ways are discarded, to come back only with a rollback across the write (R354), and L1D keeps no line of either. -/
def State.cctlClean (s : State) (n : Nat) (new : Word) : State :=
  let p := s.pair n
  let o := p.cctl.toNat
  let w := new.toNat
  let scr := fld w 12 4
  let s1 := if bit o 2 && !bit w 2 then (s.flushL1d n).flushL2 n (fun _ => true) else if bit o 1 && !bit w 1 then s.flushL1d n else s
  let s2 := if (bit o 0 && !bit w 0) || (bit o 2 && !bit w 2) then s1.setPair n { s1.pair n with l1i := {} } else s1
  let s3 := if p.scrw < scr then s2.flushL2 n (fun k => decide (16 - scr ≤ k)) else s2
  let lim := 131072 * Nat.min scr p.scrw
  let q := (s3.pair n).l1d.lines.foldl (fun (r : Pair) e => match e.2 with | some x => if scrLine lim ≤ x.num then r.l1dBack x else r | none => r) (s3.pair n)
  s3.setPair n { q with cctl := new, scr := q.scr.filter (fun e => decide (e.1 < lim)), lost := q.lost ++ q.scr.filter (fun e => decide (lim ≤ e.1)),
                        l1d := { q.l1d with lines := q.l1d.lines.filter (fun e => match e.2 with | some x => decide (x.num < scrLine lim) | none => true) } }

/-- A write of CCTL that must clean freezes the core until the clean ends; any other retires at once (R97, 07 R351). -/
def State.mtcCctl (s : State) (l : Nat) (w : Word) : State :=
  let n := pairOf l
  let o := (s.pair n).cctl
  let new := cctlWrite o w
  let cleans := (bit o.toNat 2 && !bit new.toNat 2) || (bit o.toNat 1 && !bit new.toNat 1) || (bit o.toNat 0 && !bit new.toNat 0) || decide (fld o.toNat 12 4 < fld new.toNat 12 4)
  let s1 := s.cctlClean n new
  if cleans then s1.modCore l (fun c => { c with group := [], freezes := c.freezes ++ [.cacheClean] }) else s1.retire l

/-- MTC n, Ga: serialising; the b... and d fields are unused (R60, R62). -/
def State.mtcOp (s : State) (x : At) (r : RF) (n : Nat) (val : Word → Word) : State :=
  s.serialOp x (serialSlot (ctlTrap (s.core x.lc) n true (decide (r.d ≠ 0) || decide (r.b ≠ 0) || cctlIll s x.lc n)) false (decide (n = 1)) false)
    (fun t =>
      let w := val ((t.core x.lc).rg r.a)
      if n = 8 then t.mtcCctl x.lc w
      else ((t.perfMtc x.lc n w).modArch x.lc (fun a => a.mtc n w)).retire x.lc)

def execMtc (x : At) (r : RF) (n : BitVec 6) (s : State) : Out := .next (s.mtcOp x r n.toNat id)
/-- The five changes of CCTL that clean, convert or release capacity (07 R351, R352): each is an MTC to CCTL with the value
of Ga; the change that its value makes decides what is cleaned. -/
def execCctlClearL1den (x : At) (r : RF) (s : State) : Out := .next (s.mtcOp x r 8 id)
def execCctlClearL1ien (x : At) (r : RF) (s : State) : Out := .next (s.mtcOp x r 8 id)
def execCctlClearL2en (x : At) (r : RF) (s : State) : Out := .next (s.mtcOp x r 8 id)
def execCctlRaiseScrw (x : At) (r : RF) (s : State) : Out := .next (s.mtcOp x r 8 id)
def execCctlLowerScrw (x : At) (r : RF) (s : State) : Out := .next (s.mtcOp x r 8 id)

/-- REP Ga: slot 0 of its group; d and b unused (R170). upto bounds the iterations of this command. -/
def execRep (x : At) (r : RF) (upto : Nat) (s : State) : Out :=
  .next (s.coreOp x (fun c => { op := .rep r.a.toNat upto, noDelay := true, trap := decTrap c (decide (r.d ≠ 0) || decide (r.b ≠ 0)) 0 false }))

end Sys2Proof.Machine
end

