-- ==== Sys2Proof/Machine/CoreEvents.lean ====
section
/-! DEFINITION. The events of a logical core and of its pair: interrupts and machine checks (05 R240 to R245), data that
arrives (02 R97), release from the store buffer (06 R272, 07 R311, R356), completion of barriers (07 R321 to R323, R372),
agreed inputs (06 R262 to R267), checkpoints, retry and sparing (06 R268 to R288), and the event router's events (05 R246 to
R249). -/

namespace Sys2Proof.Machine

/-- The core stands at a boundary at which an entry can begin (R102, R178): nothing frozen, no instruction half done, no halt
agreed (06 R266), and WAIT ended (03 R163, 06 R262). -/
def Core.atBoundary (c : Core) : Bool :=
  decide (c.run = .running) && c.freezes.isEmpty && !c.waiting && c.entryWait.isNone && decide (c.owed = 0) && !c.due && !c.arch.tas && c.arch.rest.isEmpty && !c.halting
  && (match c.barrier with | none | some .fence | some .fenceS | some .fenceD => true | _ => false)
/-- Nothing freezes the module or the pair either, so that an entry of 6 beats can begin (R95, 06 R298, 16 R747, R748). -/
def State.canEnter (s : State) (l : Nat) : Bool := s.lcExists l && !s.moduleStopped && !s.dpx.frozen && (s.core l).atBoundary && s.rxRoom l 6

/-- CSTAT.REPACT is set when a repeat stands between two iterations (03 R178). -/
def Core.markRep (c : Core) : Core :=
  if c.arch.repLeft.isSome then { c with arch := c.arch.setBk { c.arch.bk with repact := true } } else c

/-- Take an event at a boundary; CEPC is the group that would issue next (R240). -/
def State.takeHere (s : State) (l : Nat) (t : Trap) : State :=
  let c := (s.core l).markRep
  (s.setCore l c).take l t c.arch.pc

/-! ## Interrupts (R244, R245) -/

/-- The interrupt of vector v begins to be delivered with the values that CVCFG holds now (R250). -/
def State.intrTrap (s : State) (l v : Nat) : Trap :=
  let x := s.cv l v
  { cause := .intr, info := v, hyp := x.lvl, prio := x.prio.toNat, modt := x.modt.toNat }

def execInterruptEntry (lc : Nat) (s : State) : Out :=
  let c := s.core lc
  .next (
    if !s.canEnter lc || c.mchk.isSome || c.poisoned.isSome || decide (c.arch.bank = 7) then s
    else
      match s.bestVec lc c.arch.bk.ie with
      | none => s
      | some v => s.takeHere lc (s.intrTrap lc v))

/-- A pending machine check is taken first at a boundary (R240, R243): poison consumed by the core, then a routed fault. CBADA is
the address in the Rind record (R241). A routed one is kept until a seal covers its entry (06 R289). -/
def execMachineCheck (lc : Nat) (s : State) : Out :=
  let c := s.core lc
  .next (
    if !s.canEnter lc then s
    else
      match c.poisoned, c.mchk with
      | some pa, _ => (s.setCore lc { c with poisoned := none }).takeHere lc { cause := .mchk, info := poisonSrc pa, bada := s.poisonAddr pa, hyp := true }
      | none, some (n, a) => (s.setCore lc { c with mchk := none, mchkIn := some (n, a) }).takeHere lc { cause := .mchk, info := n, bada := a, hyp := true }
      | none, none => s)

/-! ## Data of misses (R96, R97) -/

/-- Results that wait for miss id take its value; poison takes the place of the first and the rest are dropped (R243). -/
def deliverFlights (id : Nat) (bad : Option Nat) : List Flight → List Flight
  | [] => []
  | f :: fs =>
    if f.wait = some id then
      match bad with
      | none => { f with wait := none } :: deliverFlights id none fs
      | some pa => { f with wait := none, dst := .poison pa, flags := 0 } :: fs.filter (fun g => decide (g.wait ≠ some id))
    else f :: deliverFlights id bad fs

/-- How many entries the place i of a block move's write becomes more than it was, for a count of k entries from the oldest on. -/
def holeShift (id n : Nat) (sb : List SbEntry) (k : Nat) : Nat :=
  if (sb.take k).any (fun e => match e.kind with | .hole i _ => decide (i = id) | _ => false) then k + n - 1 else k

/-- The data of a block move takes the place that its write holds in the store buffer (R307); poison leaves nothing to write. -/
def fillHole (id : Nat) (ks : List SbKind) (sb : List SbEntry) : List SbEntry :=
  sb.flatMap (fun e => match e.kind with
    | .hole i _ => if i = id then ks.map (fun k => { e with kind := k }) else [e]
    | _ => [e])

/-- What a block move writes: nothing of a read that came as poison (R243). -/
def Miss.writes (m : Miss) (bytes : List Byte) (bad : Option Nat) : List SbKind :=
  match m.move, bad with
  | some (_, ps, h), none => pieceEntries h (ps.map (fun (p : Nat × Nat × Nat) => (⟨p.1, p.2.1, p.2.2⟩ : Piece))) bytes
  | _, _ => []

/-- The first miss has its data: vs the register words, bytes for a block move, or poison (R97, R243). A response, poison too, enters the
log that O consumes in RX7-compatible mode (06 R299). -/
def State.deliver (s : State) (l : Nat) (m : Miss) (vs : List Word) (bytes : List Byte) (bad : Option Nat) : State :=
  let c := s.core l
  let ks := m.writes bytes bad
  let sh := fun (x : Miss) => ({ x with ahead := holeShift m.id ks.length c.sb x.ahead, older := holeShift m.id ks.length c.sb x.older } : Miss)
  let c1 := { c with misses := (c.misses.drop 1).map sh, sb := fillHole m.id ks c.sb,
                     sealed := { c.sealed with misses := c.sealed.misses.map sh }, capturing := c.capturing.map (fun (k : Ckpt) => { k with misses := k.misses.map sh }),
                     arch := { c.arch with infl := deliverFlights m.id bad (fixFlights m.id vs c.arch.infl) } }
  let t := vs.foldl (fun t v => t.rxLog l v) (s.setCore l c1.resume)
  if bad.isSome then t.rxResp l none else t

/-- A repeated BTAS whose bit was 0 ends its repeat (03 R174); v is the bit that the miss m has returned. -/
def State.tasArrived (s : State) (l : Nat) (m : Miss) (v : Word) : State :=
  let c := s.core l
  let isTas := match m.src with | .bitRmw _ _ => c.arch.tas | _ => false
  if isTas && !c.due then
    (if v = 0 || decide (c.arch.repLeft = some 0) then s.repEnd l else s.setCore l { c with arch := { c.arch with tas := false } })
  else s

/-- What had to wait for data goes on: a repeat whose state is complete ends (03 R174), an entry completes, with poison before it
(R103, R240), and a capture that is due is made (06 R268). -/
def State.finish (s : State) (l : Nat) : State :=
  let c := s.core l
  let s1 := if c.arch.repLeft.isSome && c.entryWait.isNone && decide (c.owed = 0) && !c.due && c.arch.stepDone c.arch.repStep then s.repEnd l else s
  let c1 := s1.core l
  (match c1.entryWait with
   | some (t, a) =>
     if !c1.misses.isEmpty then s1
     else if c1.poisoned.isSome then s1.setCore l { c1 with entryWait := none, mchk := if t.cause = Cause.mchk then some (t.info, t.bada) else c1.mchk, mchkIn := if t.cause = Cause.mchk then none else c1.mchkIn }
     else s1.take l t a
   | none => s1).settle l

/-- Bring the lines of a WB piece into the pair's caches (07 R346). -/
def State.fillPiece (s : State) (n pa len : Nat) : State :=
  let one := fun (t : State) (a : Nat) => if isMem a && !isCarve a && t.backed a then t.fillData n (a / 128) true else t
  one (one s pa) (pa + len - 1)

/-- Read the pieces of a miss for core l, each by its own region type (R328, R333, R342), at once with what the core's older stores sb that
still wait forward to them (R314, R334, R335). Where those stores cover a piece wholly, what backs the address is not asked: it gives the forwarded
bytes and makes no record (DESIGN CHOICE: R314 and R333 do not say which holds; log entry 172). -/
def State.readParts (l : Nat) (h : Bool) (sb : List SbEntry) : State → List (Nat × Nat × Nat) → CoreRd
  | s, [] => ⟨some [], 0, s⟩
  | s, (pa, mt, n) :: ps =>
    let fs := fwdBytes sb ⟨pa, n, mt⟩
    let m : CoreRd :=
      if fs.all (fun b => b.isSome) then ⟨some (List.replicate n 0), 0, s⟩
      else if mt = 3 then
        let r := s.readScr l pa n 0x01
        { r with st := if s.backed pa then r.st.fillScr (pairOf l) (pa % 2 ^ 20) else r.st }
      else if mt = 2 then (if !s.backed pa then ⟨some (List.replicate n 255), 0, s.devError l pa false⟩ else s.readMem l false pa n 0x08)
      else
        let r := s.readMem l h pa n 0x01
        if mt = 0 && r.val.isSome then { r with st := r.st.fillPiece (pairOf l) pa n } else r
    match m.val with
    | none => m
    | some bs =>
      let rest := State.readParts l h sb m.st ps
      ⟨rest.val.map (overFwd fs bs ++ ·), rest.bad, rest.st⟩

/-- The new value of an atomic of n bytes (03 R130). -/
def RmwOp.apply (op : RmwOp) (n old exp v : Nat) : Nat :=
  let m := 2 ^ (8 * n)
  match op with
  | .cas => if old = exp % m then v % m else old
  | .swap => v % m
  | .add => (old + v) % m
  | .or => old ||| (v % m)
  | .and => old &&& (v % m)

/-- Read and rewrite n bytes at once (03 R135): the old bytes, or poison, with nothing written then. -/
def State.rmwMem (s : State) (l pa n mt : Nat) (f : List Byte → List Byte) : CoreRd :=
  let np := pairOf l
  if mt = 3 then
    let r := s.readScr l pa n 0x04
    if s.backed pa then ⟨r.val, r.bad, r.st.scrWrite np (pa % 2 ^ 20) (f (r.val.getD []))⟩ else r
  else
    let r := s.readMem l false pa n 0x04
    match r.val with
    | none => r
    | some old =>
      if isCarve pa || !s.backed pa then r
      else ⟨some old, 0, if mt = 1 then r.st.agentPart pa (f old) else r.st.coreStore np pa (f old)⟩

/-- A load of DTIME or DSTAT: on a pair both sides return the leader's value (16 R750). -/
def isTimeReg (pa : Nat) : Bool := decide ((pa - ctlLo) / 16 = 0x100)

/-- What the directory grants to core l for a read, or for a store that leaves the buffer (16 R747): lines of memory and bits, and the
value of a reading of device time. -/
def MissSrc.grants (l : Nat) : MissSrc → List Grant
  | .parts ps _ => (ps.filter (fun p => decide (p.2.1 ≠ 3))).map (fun p => { kind := 0, addr := p.1 / 128, agent := l })
  | .rmw _ pa _ mt _ _ | .cas2 pa mt _ _ _ _ => if mt = 3 then [] else [{ kind := 0, addr := pa / 128, agent := l }]
  | .bitAt ba | .bitRmw ba _ => [{ kind := 1, addr := ba, agent := l }]
  | .ctl pa _ _ _ => if isTimeReg pa then [{ kind := 2, addr := pa, agent := l }] else []
  | _ => []
def SbKind.grants (l : Nat) : SbKind → List Grant
  | .mem pa _ _ => [{ kind := 0, addr := pa / 128, agent := l }]
  | .bitw ba _ => if isPrivBit ba then [] else [{ kind := 1, addr := ba, agent := l }]
  | _ => []
def State.turns (s : State) (gs : List Grant) : Bool := gs.all s.dpx.turn

/-- The outstanding miss is performed. -/
def State.perform (s : State) (l : Nat) : State :=
  let c := s.core l
  match c.misses with
  | [] => s
  | m :: _ =>
    if !c.mayPerform m then s
    else
      let w := fun bs : List Byte => BitVec.ofNat 64 (ofLe bs)
      let good := fun (t : State) (vs : List Word) (bs : List Byte) => ((t.setCore l (match vs with | [v] => (t.core l).logOnce m.key m.ex v | _ => t.core l)).deliver l m vs bs none).tasArrived l m (vs.headD 0)
      let poison := fun (t : State) (pa : Nat) => (t.deliver l m [] [] (some pa)).tasArrived l m 1
      match m.src with
      | .dev _ | .data _ => s
      | .fixed =>
        let v := ((c.arch.infl.find? (fun f => f.wait = some m.id)).map (fun f => f.val)).getD 0
        s.deliver l m [v] (leBytes 8 v.toNat) none
      | .parts ps x =>
        let r := State.readParts l (decide (c.priv = 2)) (c.sb.take m.older) s ps
        (match r.val with
         | none => poison r.st r.bad
         | some d => good r.st [extVal x (ofLe d)] d)
      | .bitAt ba =>
        match s.bitPoison (bitAt ba) with
        | some pa => poison s pa
        | none => good (s.planeCompare (bitAt ba)) [BitVec.ofNat 64 (b2n ((bitPend (c.sb.take m.older) ba).foldl bitApply (s.bitGet l (bitAt ba))))] []
      | .ctl pa size h x =>
        (match s.ctlRead (if h then 2 else 1) pa size with
         | some (v, t) =>
           let g : Grant := { kind := 2, addr := pa, agent := l }
           let u := if s.dpx.follows && isTimeReg pa then (((s.dpx.next g).map (fun h => h.val.toNat)).getD v) else v
           good (if s.dpx.leads && isTimeReg pa then t.grant { g with val := BitVec.ofNat 64 u } else t) [extVal x u] (leBytes size u)
         | none => good (s.devError l pa false) [extVal x (2 ^ (8 * x.1) - 1)] (List.replicate x.1 255))
      | .rmw op pa n mt e v =>
        let r := s.rmwMem l pa n mt (fun old => leBytes n (op.apply n (ofLe old) e.toNat v.toNat))
        (match r.val with
         | none => poison r.st r.bad
         | some old => good r.st [w old] old)
      | .cas2 pa mt elo ehi vlo vhi =>
        let r := s.rmwMem l pa 16 mt (fun old => if ofLe old = elo.toNat + 2 ^ 64 * ehi.toNat then leBytes 8 vlo.toNat ++ leBytes 8 vhi.toNat else old)
        (match r.val with
         | none => poison r.st r.bad
         | some old =>
           let lo := w (old.take 8)
           let hi := w (old.drop 8)
           (r.st.setCore l (((r.st.core l).logOnce m.key m.ex lo).logOnce (m.key.map (· + 1)) m.ex hi)).deliver l m [lo, hi] [] none)
      | .bitRmw ba v =>
        match s.bitPoison (bitAt ba) with
        | some pa => poison s pa
        | none => good (s.bitPut l (bitAt ba) v) [BitVec.ofNat 64 (b2n (s.bitGet l (bitAt ba)))] []

/-- The data of the outstanding miss arrives (R97); on the follower of a pair only when its turn has come (16 R747). An L1D hit needs no
grant. -/
def State.arrive (s : State) (l : Nat) : State :=
  let c := s.core l
  match c.misses with
  | [] => s
  | m :: _ =>
    let gs := if m.hit then [] else m.src.grants l
    if !c.mayPerform m || !s.turns gs then s
    else (gs.filter (fun g => decide (g.kind ≠ 2) || s.dpx.follows)).foldl State.grant (s.perform l)

/-- L1D hits that waited behind an older access are performed as soon as it has been (07 R313); n bounds them. -/
def State.performHits (l : Nat) : Nat → State → State
  | 0, s => s
  | n + 1, s =>
    match (s.core l).misses with
    | m :: _ => if m.hit then State.performHits l n (s.arrive l) else s
    | [] => s

/-- Data reaches a core that a restore, sparing or the module's freeze does not hold. -/
def execMissDataArrival (lc : Nat) (s : State) : Out :=
  let c := s.core lc
  .next (
    if !s.lcNumbered lc || s.moduleStopped || s.dpx.frozen || c.freezes.contains .restore || c.freezes.contains .sparing then s
    else ((State.performHits lc c.misses.length (s.arrive lc)).sendHead lc).finish lc)

/-- A group has been fetched: its line stands in L1I (07 R346). The model never begins a fetch freeze (log entry 24). -/
def execFetchComplete (lc : Nat) (s : State) : Out :=
  let c := s.core lc
  .next (s.live (
    if !s.lcExists lc then s
    else
      match s.translate c c.priv .x c.arch.pc.toNat with
      | .ok pa mt => if mt = 0 && s.backed pa && !isCarve pa then (s.coreSees lc pa 0x03).fillFetch (pairOf lc) (pa / 128) else s
      | _ => s))

/-- A table walk for an address completes: the lines of the entries that it has read, as WB loads, stand in the caches (07 R347, R369), and its entries enter the TLB
(R370); a poisoned entry is a machine check (R243). -/
def execTlbWalkComplete (lc : Nat) (va : Word) (k : AccKind) (s : State) : Out :=
  let c := s.core lc
  let need : Need := match k with | .read => .r | .write => .w | .rmw => .rw | .fetch => .x
  .next (s.live (
    if !s.lcExists lc then s
    else
      match s.translate c c.priv need va.toNat with
      | .poison pa => s.walkPoison lc pa
      | .fault h f o => s.walkHole lc (pageTrap .dpage h f o need va.toNat)
      | .ok _ _ => ((s.walkReads c c.priv va.toNat).foldl (fun t a => (t.walkSees lc a).fillPiece (pairOf lc) a 8) s).modCore lc
          (fun d => { d with tlb := d.tlb ++ (s.tlbEntries c c.priv va.toNat).filter (fun e => !d.tlb.contains e) })))

/-- A freeze of a core ends: what it held goes on, unless the freeze of the module stands (R95, R97, 16 R748). -/
def State.endFreeze (s : State) (l : Nat) (f : Freeze) : State :=
  if (s.core l).freezes.contains f && !s.dpx.frozen then ((s.modCore l (fun c => Core.resume { c with freezes := c.freezes.erase f })).sendHead l).finish l else s

/-- The 4-clock freeze of a subnormal or constant-time group ends (04 R210). -/
def execSubnormalFreezeEnd (lc : Nat) (s : State) : Out := .next (s.live (s.endFreeze lc .subnormal))

/-! ## Release (06 R272, 07 R325) -/

/-- One entry has left: accesses that waited for it count down, in the checkpoints too, and a DEV load whose turn comes is sent (07
R338). -/
def Miss.less (m : Miss) : Miss := { m with ahead := m.ahead - 1, older := m.older - 1 }
def Ckpt.less (k : Ckpt) : Ckpt := { k with misses := k.misses.map Miss.less }
def State.afterRelease (s : State) (l : Nat) : State :=
  (s.modCore l (fun c => { c with misses := c.misses.map Miss.less, sealed := c.sealed.less, capturing := c.capturing.map Ckpt.less })).sendHead l

/-- A load, DEV load or atomic that has not been performed stands before every younger store: the oldest entry is younger than it (07 R313,
R314, R317, R338). -/
def Core.readFirst (c : Core) : Bool := c.misses.any (fun m => decide (m.older = 0) && decide (m.src ≠ .fixed))

/-- A released DEV store reaches its target (07 R340, R342, 10 R507); one to control space or memory, or to the aperture where no window carries it,
completes at once, and the capture that follows it is due (06 R268). -/
def State.releaseDev (s : State) (l pa size : Nat) (val : Word) (h : Bool) : State :=
  if isAperture pa then
    match s.devWindow pa with
    | some w => s.modCore l (fun c => { c with devOut := c.devOut ++ [{ pa := pa, size := size, write := true, val := val, miss := none,
                                                                        sent := s.time.ticks, tmo := s.winTmo w, ep := (s.win w).ep.toNat, wack := (s.win w).wack, tgt := (s.win w).target pa }] })
    | none => ((s.devError l pa true).modCore l (fun c => { c with capDue := true })).settle l
  else
    let t :=
      if isCtl pa then (s.ctlWrite (if h then 2 else 1) pa size val.toNat).getD (s.devError l pa true)
      else if isCarve pa then s.report 1282 (payCore clDE s l pa 0x09)
      else if !s.backed pa then s.devError l pa true
      else (s.coreSees l pa 0x09).agentPart pa (leBytes size val.toNat)
    (t.modCore l (fun c => { c with capDue := true })).settle l

/-- A released store reaches the coherent fabric (07 R316, R333, 13 R648); one that reads its line first finds what the decode of it finds (13 R631). -/
def State.releaseMem (s : State) (l pa : Nat) (bs : List Byte) (uc : Bool) : State :=
  if isCarve pa then s.report 1282 (payCore clDE s l pa 0x02)
  else if !s.backed pa then s.report (968 + (pa - farLo) / 2 ^ 41 % 8) (payCore clUE s l pa 0x02)
  else if uc then (s.coreSees l pa 0x02).agentPart pa bs
  else if bs.length = 128 then s.coreStore (pairOf l) pa bs
  else (s.coreSees l pa 0x02).coreStore (pairOf l) pa bs

/-- Maintenance of a scratchpad line that L1D holds: a dirty one is written back into the scratchpad ways, or discarded by INVAL (07 R346, R355). -/
def State.maintScr (s : State) (n : Nat) (op : MaintOp) (line : Nat) : State :=
  let p := s.pair n
  match p.l1d.find line with
  | none => s
  | some x =>
    let q := if op = .inval then p else p.l1dBack x
    s.setPair n { q with l1d := if op = .clean then p.l1d.update geoL1d line x.data false else p.l1d.drop geoL1d line }

/-- What the oldest entry does as it leaves. -/
def State.releaseKind (s : State) (l : Nat) : SbKind → State
  | .hole _ _ => s
  | .mem pa bs uc => s.releaseMem l pa bs uc
  | .scr pa bs => if s.backed pa then s.scrWrite (pairOf l) (pa % 2 ^ 20) bs else s.report (968 + (pa - farLo) / 2 ^ 41 % 8) (payCore clUE s l pa 0x02)
  | .dev pa size val h => s.releaseDev l pa size val h
  | .bitw ba op => s.bitDo l (bitAt ba) op
  | .maint op line =>
    if 2 ^ 45 ≤ line then s.maintScr (pairOf l) op line
    else match op with
    | .clean => s.cleanLine line
    | .inval => s.dropLine line
    | .clinv => s.flushLine line

/-- A fill of the line is in progress for a core: a WB or SCR read of it that no older access holds up (07 R357). -/
def Core.fills (c : Core) (line : Nat) : Bool :=
  (c.misses.takeWhile (fun m => decide (m.ahead = 0) && (match m.src with | .parts _ _ => true | _ => false))).any (fun m => match m.src with
    | .parts ps _ => !m.hit && ps.any (fun p => (decide (p.2.1 = 0) || decide (p.2.1 = 3)) && (decide (lineFor p.2.1 p.1 = line) || decide (lineFor p.2.1 (p.1 + p.2.2 - 1) = line)))
    | _ => false)

/-- The oldest entry of core l must stay: a block move whose data has not come, a bit whose unit is not ready, maintenance of a line that is
being filled, of a scratchpad line by a core of the pair (R307, 07 R357). -/
def State.releaseWaits (s : State) (l : Nat) : SbKind → Bool
  | .hole _ _ => true
  | .bitw ba _ => s.bitWaits (bitAt ba)
  | .maint _ line => s.cores.any (fun e => (decide (line < 2 ^ 45) || decide (pairOf e.1 = pairOf l)) && e.2.fills line)
  | _ => false

/-- The oldest entry, when a sealed checkpoint covers it, leaves the buffer (06 R272); on the follower of a pair when its turn has come (16
R747). -/
def execStoreRelease (lc : Nat) (s : State) : Out :=
  let c := s.core lc
  .next (
    if s.moduleStopped || !s.lcNumbered lc then s
    else
      match c.sb with
      | [] => s
      | e :: rest =>
        if e.cov ≠ 2 || c.readFirst || s.releaseWaits lc e.kind || !s.turns (e.kind.grants lc) then s
        else (e.kind.grants lc).foldl State.grant (((s.setCore lc { c with sb := rest }).releaseKind lc e.kind).afterRelease lc))

/-! ## Completion of barriers and TLB invalidation -/

/-- A waiting barrier completes: the instruction retires; not while the module is frozen (R95, 16 R748). -/
def State.mayRetire (s : State) (l : Nat) : Bool := decide ((s.core l).run = .running) && !s.dpx.frozen
def State.barrierDone (s : State) (l : Nat) : State := (s.modCore l (fun c => { c with barrier := none })).retire l

def execFenceComplete (lc : Nat) (s : State) : Out :=
  let c := s.core lc
  .next (s.live (if c.barrier = some .fence && c.sb.isEmpty && c.misses.isEmpty && s.mayRetire lc then s.barrierDone lc else s))
def execFenceSComplete (lc : Nat) (s : State) : Out :=
  let c := s.core lc
  .next (s.live (if c.barrier = some .fenceS && c.sb.isEmpty && c.misses.isEmpty && s.mayRetire lc then s.barrierDone lc else s))
def execFenceDComplete (lc : Nat) (s : State) : Out :=
  let c := s.core lc
  let dev := c.sb.any (fun e => match e.kind with | .dev _ _ _ _ => true | _ => false)
  .next (s.live (if c.barrier = some .fenceD && c.devOut.isEmpty && !dev && c.misses.isEmpty && s.mayRetire lc then s.barrierDone lc else s))

/-- The TLB entries that an invalidation leaves (07 R371). -/
def tlbAfter (b : Barrier) (t : List TlbEntry) : List TlbEntry :=
  match b with
  | .tlbiV va i => t.filter (fun e => !(decide (e.stage = 0) && decide (e.inst = i) && decide (e.page = va / 2 ^ (12 + 9 * e.lvl))))
  | .tlbiI i => t.filter (fun e => !(decide (e.stage ≠ 2) && decide (e.inst = i)))
  | .tlbiA => []
  | _ => t

/-- Nothing that a core has translated is still to be performed, nor would a rollback request it again (R372, 06 R276; log entry 132). -/
def Core.allPerformed (c : Core) : Bool :=
  c.sb.isEmpty && c.misses.isEmpty && c.devOut.isEmpty && c.arch.rest.isEmpty && c.sealed.misses.isEmpty && c.capturing.all (fun k => k.misses.isEmpty)
def State.allPerformed (s : State) : Bool := s.cores.all (fun e => e.2.allPerformed)

/-- The entries are dropped in every core and in every hub agent (R371). -/
def State.tlbDrop (s : State) (b : Barrier) : State :=
  let t := s.cores.foldl (fun t e => t.modCore e.1 (fun d => { d with tlb := tlbAfter b d.tlb })) s
  { t with inst := { t.inst with hubTlb := tlbAfter b t.inst.hubTlb } }

def execTlbiComplete (lc : Nat) (s : State) : Out :=
  let c := s.core lc
  .next (s.live (
    match c.barrier with
    | some b =>
      let isT := match b with | .tlbiV _ _ | .tlbiI _ | .tlbiA => true | _ => false
      if isT && s.allPerformed && c.sb.isEmpty && s.mayRetire lc then (s.tlbDrop b).barrierDone lc else s
    | none => s))

/-- The clean of a CCTL change ends and the MTC retires (07 R351), on a core that runs and that nothing else freezes (R95). -/
def execCacheCleanComplete (lc : Nat) (s : State) : Out :=
  let c := s.core lc
  .next (s.live (if c.freezes.contains .cacheClean && s.mayRetire lc then (s.setCore lc { c with freezes := c.freezes.erase .cacheClean }).retire lc else s))

/-- WAIT ends on an interrupt that would be deliverable with IE 1, or on a machine check (R163). -/
def State.wakes (s : State) (l : Nat) : Bool := (s.bestVec l true).isSome || (s.core l).mchk.isSome || (s.core l).poisoned.isSome
/-- WAIT completes: a written LCTX takes effect, and a checkpoint is captured (07 R364, 06 R268). -/
def State.waitEnd (s : State) (l : Nat) : State := ((s.modCore l (fun c => { c with waiting := false })).lctxEffect l).capture l
/-- On a checked pair the wake-up is an input, presented to both halves (06 R262); a split half takes it at once. -/
def execWaitWakeup (lc : Nat) (s : State) : Out :=
  let c := s.core lc
  .next (s.live (
    if !c.waiting || !s.wakes lc then s
    else if s.checkedPair lc then
      (if c.inputs.any (fun i => decide (i.kind = .wake)) then s else s.setCore lc { c with inputs := c.inputs ++ [{ kind := .wake, e := none, o := none }] })
    else s.waitEnd lc))

/-! ## DEV accesses to endpoints (07 R338 to R342) -/

/-- The k-th access sent completes, by its value or as an error; one before it to the same target keeps it waiting (07
R338). The capture that follows a DEV access is due with it (06 R268). -/
def State.devDone (s : State) (l k : Nat) (val : Option Word) : State :=
  let c := s.core l
  match c.devOut[k]? with
  | none => s
  | some d =>
    if (c.devOut.take k).any (fun e => decide (e.ep = d.ep)) then s
    else
      let s1 := s.setCore l { c with devOut := c.devOut.eraseIdx k, capDue := true }
      let s2 := if val.isNone then s1.devError l d.pa d.write else s1
      if d.write then s2.settle l
      else
        let raw := match val with | some v => v.toNat | none => 2 ^ (8 * d.size) - 1
        let x : LdExt := ((c.misses.findSome? (fun m => if some m.id = d.miss then (match m.src with | .dev x => some x | _ => none) else none)).getD (d.size, .zero))
        let v := extVal x raw
        let c2 := (s2.core l).logOnce d.key d.ex v
        match d.miss with
        | some id => s2.setCore l (c2.fixMiss id [v])
        | none => s2.setCore l { c2 with once := c2.once.map (fun e => if some e.key = d.key && decide (e.ex = d.ex) then { e with again := true } else e) }

/-- The answer to a DEV access: a store whose window has WACK 0 waits for the acknowledgement of the data link layer alone, which reports no error (10 R509). -/
def State.devAnswer (s : State) (l k : Nat) (ok : Bool) (val : Word) : State :=
  let posted := match (s.core l).devOut[k]? with | some d => d.write && !d.wack | none => false
  s.devDone l k (if ok || posted then some val else none)
def execDevAccessComplete (lc : Nat) (k : Nat) (ok : Bool) (val : Word) (s : State) : Out :=
  .next (s.live (s.agree (.dev lc k ok val) (s.devAnswer lc k ok val)))
/-- The timeout expires at the tick boundary by which that many whole ticks have passed since the access left (R341). An access sent in a tick is
taken to have left after that tick's boundary (DESIGN CHOICE: 00 R14 and R341 count whole ticks from an event whose place within its tick the
spec leaves open; log entry 166). -/
def execDevCompletionTimeout (lc : Nat) (k : Nat) (s : State) : Out :=
  .next (s.live (
    match (s.core lc).devOut[k]? with
    | some d => if d.sent + 1 + d.tmo ≤ s.time.ticks then s.devDone lc k none else s
    | none => s))

/-! ## Agreed inputs (06 R262 to R267) -/

/-- A procedure raises its halt request, or withdraws it: a core that no other procedure halts goes on at the boundary at which it stopped
(R267). -/
def Core.askHalt (c : Core) (k : Nat) : Core := if c.haltReq.contains k then c else { c with haltReq := c.haltReq ++ [k] }
def Core.withdraw (c : Core) (k : Nat) : Core :=
  let d := { c with haltReq := c.haltReq.filter (· ≠ k) }
  if d.haltReq.isEmpty then
    { d with halting := false, run := if d.run = .halted then .running else d.run, inputs := d.inputs.filter (fun r => decide (r.kind ≠ .halt)) }
  else d

/-- A halt is agreed: the core stops at the first boundary once a seal has been taken there (R266), for which it is captured as soon as
no miss is outstanding. -/
def State.beginHalt (s : State) (l : Nat) : State := (s.modCore l (fun c => { c with halting := true })).settle l

/-- The halves sample an input that is presented; a halt is presented only on a request (R267), and a split half takes it
without agreement. -/
def execInputPresented (lc : Nat) (i : InKind) (e o : Option Sample) (s : State) : Out :=
  let c := s.core lc
  let fresh := c.inputs.any (fun r => decide (r.kind = i) && r.e.isNone && r.o.isNone)
  .next (s.live (
    if fresh then
      s.setCore lc { c with inputs := (c.inputs.foldl (fun (p : List InputReq × Bool) r =>
        if !p.2 && decide (r.kind = i) && r.e.isNone && r.o.isNone then (p.1 ++ [{ r with e := e, o := o }], true) else (p.1 ++ [r], p.2)) ([], false)).1 }
    else if decide (i = .halt) && !c.haltReq.isEmpty && !c.halting && decide (c.run = .running) then
      (if s.checkedPair lc then s.setCore lc { c with inputs := c.inputs ++ [{ kind := i, e := e, o := o }] } else s.beginHalt lc)
    else s))

/-- The agreement comes late and makes a CE record (R263): not both samples within 2 clocks. -/
def lateInput (r : InputReq) : Bool :=
  match r.e, r.o with
  | some a, some b => decide (a.clk + 2 < b.clk) || decide (b.clk + 2 < a.clk)
  | _, _ => true

/-- The agreed value of RDTIME; none is a mismatch (R265). With one sample alone it is that sample (DESIGN CHOICE: R265 speaks of two; log
entry 27). -/
def agreedTime (now : Word) (r : InputReq) : Option Word :=
  match r.e, r.o with
  | some a, some b =>
    if a.val = b.val then some a.val
    else if a.val + 1 = b.val then some b.val
    else if b.val + 1 = a.val then some a.val
    else none
  | some a, none => some a.val
  | none, some b => some b.val
  | none, none => some now

/-- A pair event of class cls at source k of the current E (14 R686). -/
def State.pairReport (s : State) (l k : Nat) (cls : BitVec 3) : State :=
  s.report (s.coreSrc (pairOf l) (!s.checkedPair l && decide (l % 2 = 1)) k) (s.payPair l cls)

/-- A once-only access that was outstanding at the checkpoint is not sent again: its logged result, or the access under way, of the execution that
made it, answers it (06 R275, R304). -/
def Core.rejoin (c : Core) (m : Miss) : Core :=
  match m.key with
  | none => c
  | some k =>
    match c.once.find? (fun e => decide (e.key = k) && decide (e.ex = m.ex)) with
    | some e => ({ c with capDue := true, once := c.once.map (fun x => if x.key = k && decide (x.ex = m.ex) then { x with again := false } else x) } : Core).fixMiss m.id [e.val]
    | none => { c with devOut := c.devOut.map (fun d => if d.key = some k && decide (d.ex = m.ex) then { d with miss := some m.id } else d) }

/-- Roll back to the sealed checkpoint (06 R275 to R279): stores that a seal covers stay to be released (log entry 16), loads
that had no data are requested again, and a machine check whose entry no seal covers pends again (R289). -/
def Core.rollback (c : Core) : Core :=
  let pers := decide (3 ≤ c.retries)
  let k := c.sealed
  let c1 := { c with
    capturing := none, sb := c.sb.filter (fun e => decide (e.cov = 2)), misses := k.misses, group := [], barrier := none, waiting := k.waiting, entryWait := none,
    owed := 0, poisoned := none, inputs := c.inputs.filter (fun r => decide (r.kind ≠ .rdtime)), acks := [], rlog := [], groups := 0, capDue := false,
    mchk := c.mchkIn.or c.mchk, mchkIn := none, vecIn := [], devOut := c.devOut.map (fun d => { d with miss := none }), once := c.once.map (fun e => { e with cap := false, again := true }), lctxCur := k.lctxCur,
    arch := { k.arch with vpend := k.arch.vpend ||| k.agreed }, retries := c.retries + 1, inRetry := true, persistent := pers,
    freezes := if pers then [.sparing] else [.restore] }
  k.misses.foldl Core.rejoin c1

/-- The control registers that a pair holds go back with its core (R276); what its counters have met so far is counted first. -/
def State.restoreShared (s : State) (l : Nat) (k : Ckpt) : State :=
  (if s.checkedPair l then s.pmSettleAll (pairOf l) (fun _ => true) else s).restorePair l k

/-- The next deliveries of the vectors go back to what they were before the entries that a rollback discards (R289). -/
def State.vecBack (s : State) (l : Nat) (vs : List (Nat × Nat)) : State := vs.foldr (fun p t => t.setCv l p.1 { t.cv l p.1 with next := p.2 }) s

/-- A Press mismatch of core l, also while it stands halted (R259, R276, R279, R280). -/
def State.mismatch (s : State) (l : Nat) : State :=
  let c := s.core l
  if (decide (c.run = .running) || decide (c.run = .halted)) && !c.persistent && !s.moduleStopped then ((s.setCore l c.rollback).vecBack l c.vecIn).restoreShared l c.sealed else s

/-- The agreed value of the k-th input enters both halves (R264 to R266); O finds it in the log (R299). The agreement of an RDTIME ends no freeze
while the freeze of the module stands (R95, 16 R748). -/
def execInputAgreed (lc : Nat) (k : Nat) (s : State) : Out :=
  let c := s.core lc
  .next (s.live (
    match c.inputs[k]? with
    | none => s
    | some r =>
      let s1 := s.setCore lc { c with inputs := c.inputs.eraseIdx k }
      let fin := fun t : State => if lateInput r then t.pairReport lc 2 clCE else t
      let wake := fun t : State => if c.waiting && t.wakes lc then t.waitEnd lc else t
      match r.kind with
      | .intr v => fin (wake ((s1.modCore lc (fun d => d.setVpend v)).rxLog lc (BitVec.ofNat 64 v)))
      | .wake =>
        let s2 := match s.bestVec lc true with | some v => (s1.modCore lc (fun d => d.setVpend v)).rxLog lc (BitVec.ofNat 64 v) | none => s1.rxLog lc 0
        fin (wake s2)
      | .halt => if !c.haltReq.isEmpty && decide (c.run = .running) then fin ((s1.rxLog lc 0).beginHalt lc) else fin s1
      | .rdtime =>
        if s.dpx.frozen then s else
        match agreedTime s.time.dtime r with
        | none => s1.mismatch lc
        | some v =>
          let s2 := s1.modArch lc (fun a => { a with infl := a.infl.map (fun f => if f.wait = some r.id then { f with val := v, wait := none } else f) })
          fin (((s2.rxLog lc v).endFreeze lc .agreement).grant { kind := 2, addr := 0, agent := lc, val := v })))

/-! ## Checkpoints and retry (06 R268 to R281) -/

/-- RX7-compatible mode has no 64-clock trigger (R300), but a core whose store buffer is, or may be for its next group, too full to go on is captured
there too, since the freeze must not wait on itself (R268): an SMM or SAVEBANK stands partway, or fewer than 16 entries are free, the most that the
two memory instructions of a group need (DESIGN CHOICE: no rule says how the buffer drains in that mode; log entry 149). -/
def Core.bufferFull (c : Core) : Bool := !c.arch.rest.isEmpty || decide (c.room < 16)

/-- The 64-clock trigger: the Press captures a checkpoint at a boundary with no miss outstanding; in RX7-compatible mode only for a full store
buffer (R268, R300; log entry 149). -/
def execCheckpointCapture (lc : Nat) (s : State) : Out :=
  let c := s.core lc
  .next (
    if !s.lcExists lc || s.moduleStopped || (s.isRx7 lc && !c.bufferFull) || !c.misses.isEmpty || c.arch.infl.any (fun f => f.wait.isSome) || decide (c.owed ≠ 0) then s
    else s.capture lc)

/-- The capture shows the state at which the core stands; VPEND may have gained since. -/
def Core.standsAt (c : Core) (k : Ckpt) : Bool := decide ({ k.arch with vpend := c.arch.vpend } = c.arch) && c.misses.isEmpty && decide (c.owed = 0)

/-- A seal that holds the value of CCTL now in force leaves the scratchpad bytes behind that a write of it discarded (07 R352, R354). -/
def State.sealPair (s : State) (l : Nat) (k : Ckpt) : State :=
  let p := s.pair (pairOf l)
  if p.cctl = k.cctl && (s.checkedPair l || decide (l % 2 = 0)) then s.setPair (pairOf l) { p with lost := [] } else s

/-- The signatures are compared: the capture is sealed, or it is discarded and the pair rolls back (R269, R278). An agreed halt takes effect
at a sealed boundary (R266). In RX7-compatible mode O has reached the capture, and what waited for it leaves (R298 to R301). -/
def execSealCompare (lc : Nat) (same : Bool) (s : State) : Out :=
  let c := s.core lc
  .next (s.live (
    match c.capturing with
    | none => s
    | some k =>
      if same then
        let halt := c.halting && c.standsAt k
        let s1 := s.setCore lc { c with sealed := k, capturing := none, sb := c.sb.map (fun e => if e.cov = 1 then { e with cov := 2 } else e), acks := [],
                                        once := c.once.filter (fun e => !e.cap), retries := 0, inRetry := false, vecIn := [],
                                        mchkIn := if c.entryWait.isSome then c.mchkIn else none,
                                        run := if halt then .halted else c.run, group := if halt then [] else c.group, barrier := if halt then none else c.barrier }
        let s2 := ((c.acks.foldl (fun t v => t.ackEvent lc v) (s1.rxReach lc k.arch.pos)).sealPair lc k).sendHead lc
        let s3 := if c.inRetry then s2.pairReport lc 2 clCE else s2
        if c.halting && !halt then s3.settle lc else s3
      else s.mismatch lc))

def execPressMismatch (lc : Nat) (s : State) : Out := .next (if s.lcExists lc then s.mismatch lc else s)
def execRestoreComplete (lc : Nat) (s : State) : Out := .next (s.live (s.endFreeze lc .restore))

/-- A parity or ECC error inside a half: corrected with a CE record, else a mismatch (R280). -/
def execHalfEccError (lc : Nat) (o : Bool) (corrected : Bool) (s : State) : Out :=
  .next (
    if !s.lcExists lc then s
    else if corrected then s.report (s.coreSrc (pairOf lc) o 0) (s.payPair lc clCE)
    else s.mismatch lc)

/-- The checkpoint store fails: offline first, then the FC record (R281, R288). -/
def execCheckpointStoreUe (lc : Nat) (s : State) : Out :=
  .next (if !s.lcExists lc then s else (s.live (s.offline lc)).pairReport lc 3 clFC)

/-! ## BIST and sparing (06 R283 to R288) -/

/-- Replace a half of slot n by its chiplet's spare; the half it replaced is excluded (R284). -/
def State.replaceHalf (s : State) (n : Nat) (o : Bool) : State :=
  let p := s.pair n
  let ch := s.chip (n / 16)
  let old := 2 * s.physPair n o + b2n o
  (s.setPair n (if o then { p with repO := true } else { p with repE := true })).setChip (n / 16)
    { (if o then { ch with spareO := false } else { ch with spareE := false }) with excluded := ch.excluded ++ [old] }

/-- BIST of a persistently mismatching core ends (R283); a split half is tested and replaced alone. The suspect mark goes when one outcome replaces both
halves; two episodes that replace one half each leave it (DESIGN CHOICE: R287 says that replacing both halves clears it and that replacing one
leaves it, not what two single replacements do; log entry 169). -/
def execBistComplete (lc : Nat) (ePass oPass : Bool) (s : State) : Out :=
  let c := s.core lc
  let n := pairOf lc
  let p := s.pair n
  let ch := s.chip (n / 16)
  let split := decide (p.mode = .split)
  let bothPass := if split then (if lc % 2 = 1 then oPass else ePass) else ePass && oPass
  let all := bothPass && p.suspect
  let needE := !(split && decide (lc % 2 = 1)) && (!ePass || all)
  let needO := !(split && decide (lc % 2 = 0)) && (!oPass || all)
  .next (s.live (
    if !c.persistent || (decide (c.run ≠ .running) && decide (c.run ≠ .halted)) then s
    else if bothPass && !p.suspect then
      (((s.setPair n { p with suspect := true }).setCore lc { c with persistent := false, retries := 0, inRetry := false }).endFreeze lc .sparing).pairReport lc 3 clDE
    else if (needE && !ch.spareE) || (needO && !ch.spareO) then (s.offline lc).pairReport lc 3 clFC
    else
      let s1 := if needE then s.replaceHalf n false else s
      let s2 := if needO then s1.replaceHalf n true else s1
      let s3 := if needE && needO then s2.setPair n { s2.pair n with suspect := false } else s2
      (s3.setCore lc { c with persistent := false }).pairReport lc 3 clCE))

/-- The checkpoint has been loaded into the new pair, which resumes in lockstep (R285). -/
def execSparingResume (lc : Nat) (s : State) : Out :=
  let c := s.core lc
  .next (s.live (if c.freezes.contains .sparing && !c.persistent then (s.setCore lc { c with retries := 0, inRetry := false }).endFreeze lc .sparing else s))

/-! ## The event router (05 R246 to R249) -/

def execEventSourceAssert (src : Nat) (s : State) : Out := .next (s.agree (.sourceUp src) (if src < 2048 then s.erRise src else s))
def execEventSourceDeassert (src : Nat) (s : State) : Out := .next (s.agree (.sourceDown src) (if src < 2048 then s.erFall src else s))
/-- The moderation interval of a core vector ends at tick T + MODT, not before (R248, 01 R53). -/
def execRouterModerationExpiry (lc : Nat) (v : Nat) (s : State) : Out :=
  .next (if lc < 128 && v < 64 && (s.cv lc v).next ≤ s.time.ticks then s.setCv lc v { s.cv lc v with next := Nat.min (s.cv lc v).next s.time.ticks } else s)
def execErctlWrite (src : Nat) (val : Word) (s : State) : Out := .next (if src < 2048 then s.erctlSet src val.toNat else s)

/-- A store by level H of core lc to a control-space register that has no row of its own (R17, 07 R342). -/
def execControlSpaceWrite (lc : Nat) (addr : Nat) (size : Nat) (val : Word) (s : State) : Out :=
  .next (
    if !s.lcExists lc || s.moduleStopped || !isCtl addr || isAperture addr then s
    else if (size = 1 || size = 2 || size = 4 || size = 8) && addr % size = 0 then (s.ctlWrite 2 addr size val.toNat).getD (s.devError lc addr true)
    else s)

end Sys2Proof.Machine
end

