-- ==== Sys2Proof/Machine/Ranges.lean ====
section
/-! DEFINITION. Scatter lists (10 R537) and the reads and writes that an engine or the channel subsystem makes over several ranges of an
instance's memory. -/

namespace Sys2Proof.Machine

/-- Ranges of addresses: IPA and length. -/
abbrev Ranges := List (Nat × Nat)

/-- A scatter list as read. -/
inductive SgRes where
  | ok (rs : Ranges)
  | bad
  | fault (ipa : Nat)
  | poison (pa : Nat)
deriving DecidableEq, Repr

/-- The elements from address a on; n bounds them with the last, of length 0. -/
def State.sglN (s : State) (i : Nat) : Nat → Nat → SgRes
  | 0, _ => .bad
  | n + 1, a =>
    match s.agentRead i a 16 with
    | .fault f => .fault f
    | .poison p => .poison p
    | .ok e _ =>
      if leAt e 12 4 ≠ 0 then .bad
      else if leAt e 8 4 = 0 then .ok []
      else
        match State.sglN s i n (a + 16) with
        | .ok rs => .ok ((leAt e 0 8, leAt e 8 4) :: rs)
        | r => r

/-- The ranges of a buffer of len bytes: the buffer itself, or the list at ptr, whose lengths must sum to len (R537). -/
def State.ranges (s : State) (i : Nat) (isSgl : Bool) (ptr len : Nat) : SgRes :=
  if !isSgl then .ok [(ptr, len)]
  else if ptr % 16 ≠ 0 then .bad
  else
    match s.sglN i 257 ptr with
    | .ok rs => if (rs.map (·.2)).foldl (· + ·) 0 = len then .ok rs else .bad
    | r => r

/-- Read the ranges in order for instance i, by a unit. -/
def State.readRanges (s : State) (unit msub i : Nat) : Ranges → State × AgRead
  | [] => (s, .ok [] [])
  | (a, n) :: rs =>
    match s.agentGet unit msub i a n with
    | (t, .ok bs _) =>
      match State.readRanges t unit msub i rs with
      | (u, .ok bs2 _) => (u, .ok (bs ++ bs2) [])
      | r => r
    | r => r

/-- What the reading of a scatter list leaves, up to its end or its failure: the records of its elements (13 R634, R648, 14 R688). -/
def State.sglSees (unit msub i : Nat) : Nat → State → Nat → State
  | 0, s, _ => s
  | n + 1, s, a =>
    match s.agentGet unit msub i a 16 with
    | (t, .ok e _) => if leAt e 12 4 ≠ 0 || leAt e 8 4 = 0 then t else State.sglSees unit msub i n t (a + 16)
    | (t, _) => t
def State.rangesSee (s : State) (unit msub i : Nat) (isSgl : Bool) (ptr : Nat) : State := if !isSgl || ptr % 16 ≠ 0 then s else State.sglSees unit msub i 257 s ptr

/-- Of the first n bytes of the ranges, how many can be written before a failure, and the failure. -/
def State.room (s : State) (i : Nat) : Ranges → Nat → Nat × AgEnd
  | [], _ => (0, .ok)
  | (a, l) :: rs, n =>
    let k := Nat.min l n
    match s.agentPieces i (k / 128 + 2) a (List.replicate k 0) with
    | .ok _ _ => let r := State.room s i rs (n - k); (k + r.1, r.2)
    | .fault f => (f - a, .fault f)
    | .poison p => (0, .poison p)

/-- What a write over the ranges that fails leaves: the record of the walk at which it ends (R589). -/
def State.roomSees (s : State) (unit msub i : Nat) (rs : Ranges) : State := rs.foldl (fun t r => t.agentSees unit msub i r.1 r.2 true) s

/-- Write bytes over the ranges from their first byte. -/
def State.writeRanges (s : State) (unit msub i : Nat) : Ranges → List Byte → State
  | [], _ => s
  | (a, l) :: rs, bs => if bs.isEmpty then s else State.writeRanges (s.agentStore unit msub i a (bs.take l)).1 unit msub i rs (bs.drop l)

/-- The ranges that hold bytes o to o + n - 1 of a buffer. -/
def subRanges : Ranges → Nat → Nat → Ranges
  | [], _, _ => []
  | (a, l) :: rs, o, n =>
    if n = 0 then []
    else if l ≤ o then subRanges rs (o - l) n
    else let k := Nat.min (l - o) n; (a + o, k) :: subRanges rs 0 (n - k)

/-- Two ranges share a byte. -/
def overlaps (p q : Nat × Nat) : Bool := decide (0 < p.2) && decide (0 < q.2) && decide (p.1 < q.1 + q.2) && decide (q.1 < p.1 + p.2)

/-- A free number below n. -/
def State.drawBelow (s : State) (n : Nat) : Nat × State := let (w, t) := s.draw; (w.toNat % n, t)

/-- n free bytes. -/
def State.junk (s : State) (n : Nat) : List Byte × State :=
  ((List.range n).map (fun k => (Config.free (s.freeCtr + k)).setWidth 8), { s with freeCtr := s.freeCtr + n })

/-- Exactly n bytes. -/
def fit (n : Nat) (bs : List Byte) : List Byte := (padTo n bs).take n

end Sys2Proof.Machine
end

