-- ==== Sys2Proof/Machine/Channel.lean ====
section
/-! DEFINITION. The channel subsystem (10): operations taken into the ledger, attempts, path failure and fencing, outcomes, arrivals,
and the events of ports, paths and PCIe. -/

namespace Sys2Proof.Machine

open Host

/-! ## Channel descriptors (R532 to R537) -/

def cFlags (d : List Byte) : Nat := dF d 2 1
def cEp (d : List Byte) : Nat := if dOpc d = 0x1F then 0 else dF d 0 2
def cDptr (d : List Byte) : Nat := let o := dOpc d; if isNv o then dF d 0x18 8 else if o = 0x18 then dF d 0x20 8 else dF d 8 8
/-- FLAGS.SGL. -/
def cSgl (d : List Byte) : Bool :=
  let o := dOpc d
  if o = 0x1A then bit (cFlags d) 2 else if o = 0x1B then false else bit (cFlags d) 1
/-- IDEM (R516). -/
def cIdem (d : List Byte) : Bool :=
  let o := dOpc d
  decide (o ∈ [0x10, 0x12, 0x1B]) || (decide (o ∈ [0x15, 0x18]) && bit (cFlags d) 0)

/-- The endpoint types that an opcode accepts (R532). -/
def typeOk (o t : Nat) : Bool := if isNv o then decide (1 ≤ t) && decide (t ≤ 3) else if o = 0x18 then decide (t = 4) else decide (t = 5)

/-- The fields of a descriptor keep R533, R535 or R536. -/
def chanFields (d : List Byte) : Bool :=
  let o := dOpc d
  let f := cFlags d
  if isNv o then
    decide (f < 8) && (o = 0x15 || !bit f 0) && zeroAt d (16 + 3) 1 && decide (1 ≤ dF d 0x10 4) && decide (dF d 0x10 4 ≤ if o = 0x14 then 256 else 65536)
    && (if o = 0x15 then decide (dF d 0x28 8 % 64 = 0) else zeroAt d (16 + 0x28) 8)
  else if o = 0x18 then
    decide (f < 4) && decide (dF d 3 1 ≤ 2) && decide (6 ≤ dF d 4 1) && decide (dF d 4 1 ≤ 16) && decide (dF d 5 1 ≤ 2) && zeroAt d (16 + 6) 2
    && zeroAt d (16 + 0x10 + dF d 4 1) (16 - dF d 4 1) && zeroAt d (16 + 0x2C) 4
  else if o = 0x1A then
    decide (f < 8) && zeroAt d (16 + 3) 1 && (if bit f 0 then decide (536 ≤ dF d 4 2) && decide (dF d 4 2 ≤ 9000) else decide (dF d 4 2 = 0))
    && decide (cDlen d ≤ 262144) && zeroAt d (16 + 0x14) 28
  else zeroAt d (16 + 2) 6 && decide (9216 ≤ cDlen d) && zeroAt d (16 + 0x14) 28

/-- The key of a namespace's format (R814). -/
def fmtKey (ep nsid : Nat) : Nat := 2 ^ 32 * ep + nsid

/-- The block size of a namespace that the device holds: as the controller has reported it since a path connected, else as Identify Namespace then found it (R814;
log entry 156). -/
def State.format (s : State) (ep nsid : Nat) : Option Nat :=
  match Tab.get none s.chan.formats (fmtKey ep nsid) with
  | some told => told
  | none => (s.ep ep).learned.bind (fun n => Config.nsFormat n ep nsid)

/-- DLEN differs from NLB times the block size that the device holds (R814). -/
def State.fmtBad (s : State) (d : List Byte) : Bool :=
  decide (dOpc d ≤ 0x11) &&
  (match s.format (cEp d) (dF d 4 4) with
  | some blk => decide (cDlen d ≠ dF d 0x10 4 * blk)
  | none => false)

/-- What the check of a pass-through entry finds (R534): its opcode, or a failure. -/
def State.sqe (s : State) (i : Nat) (d : List Byte) : AgRead :=
  if dOpc d = 0x15 then s.agentRead i (dF d 0x28 8) 64 else .ok [] []

/-- The ranges of a descriptor's data buffer. -/
def State.cRanges (s : State) (i : Nat) (d : List Byte) : SgRes := s.ranges i (cSgl d) (cDptr d) (cDlen d)

/-- A channel descriptor of instance i is not refused with JOB_FIELD before it is taken (R520, R524). -/
def State.chanOk (s : State) (i : Nat) (d : List Byte) : Bool :=
  let e := s.ep (cEp d)
  chanFields d && e.made && decide (e.owner = some i) && typeOk (dOpc d) e.typ && !s.fmtBad d
  && (match s.cRanges i d with | .bad => false | _ => true)
  && (match s.sqe i d with | .ok (b :: _) _ => !Config.adminRefused b.toNat | _ => true)

/-- Which way the data goes: 1 to memory, 2 to the target. For a pass-through entry bits [1:0] of its opcode tell (log entry 51). -/
def State.cDir (s : State) (i : Nat) (d : List Byte) : Nat :=
  let o := dOpc d
  if o = 0x10 || o = 0x1B then 1
  else if o = 0x11 || o = 0x14 || o = 0x1A then 2
  else if o = 0x18 then dF d 5 1
  else if o = 0x15 then (match s.sqe i d with | .ok (b :: _) _ => if b.toNat % 4 = 1 then 2 else if b.toNat % 4 = 2 then 1 else 0 | _ => 0)
  else 0

/-! ## Paths (R502, R503) -/

def Endp.path (e : Endp) (k : Nat) : Path := e.paths.getD k {}
def State.setPath (s : State) (e k : Nat) (p : Path) : State := s.setEp e { s.ep e with paths := (s.ep e).paths.set k p }

/-- The paths that may carry operations: the ACTIVE ones, else the STANDBY ones (R502). -/
def Endp.carriers (e : Endp) : List Nat :=
  let at_ := fun st : PathSt => (List.range e.paths.length).filter (fun k => decide ((e.path k).st = st))
  if (at_ .active).isEmpty then at_ .standby else at_ .active

/-- Every path of the endpoint is in TRIED. -/
def Endp.allTried (e : Endp) (tried : Nat) : Bool := (List.range e.paths.length).all (fun k => bit tried k)

/-- An entry whose outcome is still open (R513). -/
def Led.isOpen (e : Led) : Bool := decide (e.st = .issued) || decide (e.st = .accepted) || decide (e.st = .data)

/-! ## Outcomes (R520 to R524) -/

/-- The opcode-specific bytes of a channel completion (R522). -/
def chanExtra (l : Nat) (e : Led) : List Byte :=
  leBytes 4 l ++ leBytes 1 e.attempt ++ leBytes 1 e.tried ++ leBytes 2 e.pstat.toNat ++ leBytes 4 e.bytes ++ leBytes 4 e.pdw0.toNat

/-- Deliver the completion of entry l (R521). -/
def State.deliverLed (s : State) (l : Nat) : State :=
  let e := s.led l
  s.complete e.ins e.gen e.qp e.cq { bytes := cplBytes e.tag e.qp e.status e.sqhead e.opc (chanExtra l e), flags := e.cflags, lidx := some l, ord := e.ord }

/-- A report of the channel subsystem about a port and an instance. -/
def payPort (cls : BitVec 3) (lp i : Nat) : Payload :=
  { pay cls with unit := 8, msub := BitVec.ofNat 8 lp, ins := BitVec.ofNat 13 i }

/-- The logical port of the path of an entry. -/
def State.ledPort (s : State) (e : Led) : Nat := ((s.ep e.ep).path e.path).lport

/-- A ledger entry is mirrored to the other side under its number (R539; log entry 157). -/
def State.mirrorLed (s : State) (l : Nat) : State := s.twinSend 2 (leBytes 4 l ++ (s.led l).view) (some l)

/-- Entry l is COMPLETE with a status; in a duplex pair its completion waits for the mirror (R520, R523, R539). -/
def State.finishLed (s : State) (l status : Nat) : State :=
  let e := s.led l
  let s1 := s.setLed l { e with st := .complete, status := status, waiting := false, rfence := false, pendStatus := none }
  let s2 := if status = scOutcomeUnknown then
      s1.report (976 + s.ledPort e) { payPort clDE (s.ledPort e) e.ins with synd := BitVec.ofNat 128 (e.ep + e.osn * 2 ^ 16) } else s1
  if s2.dpx.st = .paired then s2.mirrorLed l else s2.deliverLed l

/-- The ledger entry stands in a stripe that reads as poison (R515). -/
def State.ledPoison (s : State) (l : Nat) : Bool := s.linePoison ((carveLo + 128 * l) / 128)

/-- An uncorrectable error in entry l (R515): OUTCOME_UNKNOWN from the copy on chip, or, when a free value says that none is there,
a report of class FC against the owning instance. -/
def State.ledUe (s : State) (l : Nat) : State :=
  let (w, s1) := s.draw
  let s2 := s1.writeLine ((carveLo + 128 * l) / 128) (List.replicate 128 0)
  if w.getLsbD 0 then s2.finishLed l scOutcomeUnknown
  else s2.report 1056 (payPort clFC (s2.ledPort (s2.led l)) (s2.led l).ins)

/-- What an event of entry l does, f, once its entry has been read: an uncorrectable error in it ends the operation instead (R515). -/
def State.ledRead (s : State) (l : Nat) (f : State) : State := if (s.led l).isOpen && s.ledPoison l then s.ledUe l else f

/-- In a duplex pair P0 to P3 belong to side A and P4 to P7 to side B (16 R735). -/
def State.peerGroup (s : State) (g : Nat) : Bool :=
  (s.dpx.st = .paired || s.dpx.st = .simplex || s.dpx.st = .repair || s.dpx.st = .pairing) && decide (decide (4 ≤ g) ≠ s.dpx.sideB)

/-- The port belongs to the other side: not one of a group in CXL mode, which serves each side (16 R735). -/
def State.peerPort (s : State) (lp : Nat) : Bool := s.peerGroup (lp / 8) && decide ((s.group (lp / 8)).mode ≠ 2)

/-- The owning side transmits its outputs of the batches up to n, which wait for their comparison; those of the other side's ports leave there
(R540, 16 R735, R752). -/
def State.transmit (s : State) (n : Nat) : State :=
  (s.dpx.outs.filter (fun o => decide (o.1 ≤ n) && !s.peerPort o.2.1)).foldl (fun t o => t.emit o.2.1 o.2.2)
    { s with dpx := { s.dpx with outs := s.dpx.outs.filter (fun o => !decide (o.1 ≤ n)) } }

/-- The port belongs to a side that is fenced, until re-pairing ends (R541). -/
def State.lostPort (s : State) (lp : Nat) : Bool := (s.dpx.st = .simplex || s.dpx.st = .pairing || s.dpx.st = .repair) && s.peerPort lp

/-! ## Attempts (R516 to R519) -/

/-- A free XID, not that of the attempt before (R517). -/
def State.freshXid (s : State) (old : BitVec 32) : BitVec 32 × State :=
  let (w, t) := s.draw
  (if w.setWidth 32 = old then old + 1 else w.setWidth 32, t)

/-- The status of an operation whose buffer cannot be used: OUTCOME_UNKNOWN with IDEM = 0, but for poison found before an attempt was sent (R520). -/
def Led.faultStatus (e : Led) (status : Nat) : Nat := if e.idem || (decide (status = scMemPoison) && decide (e.attempt = 0)) then status else scOutcomeUnknown

/-- A buffer of entry l cannot be used (R520): complete when nothing was sent, else fence first. -/
def State.faultLed (s : State) (l status : Nat) : State :=
  let e := s.led l
  if e.attempt = 0 then s.finishLed l (e.faultStatus status)
  else
    let s1 := if e.live then s.sendAbort l e.path else s
    let x := s1.led l
    if x.aborts.isEmpty && x.closing.isEmpty then s1.finishLed l (e.faultStatus status)
    else s1.setLed l { x with pendStatus := some status, rfence := true, waiting := false, tdead := if x.aborts.isEmpty then x.tdead else s.time.deadline (s.ep e.ep).abtmo }

/-- The NVMe submission entry of a pass-through command, as it was taken, as it is sent: the command identifier and the data pointers are the device's own, whose values the
spec does not give; every other byte is as written (R534; log entry 7). -/
def State.sentSqe (s : State) (bs : List Byte) (x : BitVec 32) : List Byte × State :=
  let (ptr, s1) := s.junk 16
  (bs.take 2 ++ leBytes 2 x.toNat ++ (bs.drop 4).take 20 ++ ptr ++ bs.drop 40, s1)

/-- The command of an attempt, none of a network interface: its XID, the entry of a pass-through command, and for an FCP target that accepts task retry identification the OSN (R517). -/
def State.command (s : State) (e : Led) (k : Nat) (x : BitVec 32) : List Byte × State :=
  if e.opc = 0x15 then s.sentSqe e.sqe x
  else if e.opc = 0x1A || e.opc = 0x1B then ([], s)
  else (leBytes 4 x.toNat ++ (if (s.ep e.ep).typ = 4 && ((s.ep e.ep).path k).retry then leBytes 4 e.osn else []), s)

/-! ### The offloads of a send (R499, R536; log entry 180) -/

/-- n bytes from byte o on as a big-endian number, and such a field replaced. -/
def beAt (bs : List Byte) (o n : Nat) : Nat := ofLe ((bs.drop o).take n).reverse
def bePut (bs : List Byte) (o n v : Nat) : List Byte := if o + n ≤ bs.length then bs.take o ++ (leBytes n v).reverse ++ bs.drop (o + n) else bs

/-- The Internet checksum: the one's complement of the one's complement sum of 16-bit words, an odd last byte padded with 0. -/
def sum16 : List Byte → Nat
  | [] => 0
  | [a] => a.toNat * 256
  | a :: b :: r => a.toNat * 256 + b.toNat + sum16 r
def fold16 (n : Nat) : Nat := let a := n % 65536 + n / 65536; let b := a % 65536 + a / 65536; b % 65536 + b / 65536
def netSum (bs : List Byte) : Nat := 65535 - fold16 (sum16 bs)

/-- The frame carries IPv6, and the protocol that its IP header names. -/
def isV6 (bs : List Byte) (l3 : Nat) : Bool := beAt bs l3 1 / 16 = 6
def ipProto (bs : List Byte) (l3 : Nat) : Nat := beAt bs (l3 + (if isV6 bs l3 then 6 else 9)) 1

/-- The pseudo-header that the TCP and UDP checksums cover. -/
def pseudo (bs : List Byte) (l3 l4 proto : Nat) : List Byte :=
  if isV6 bs l3 then (bs.drop (l3 + 8)).take 32 ++ (leBytes 4 (bs.length - l4)).reverse ++ [0, 0, 0, BitVec.ofNat 8 proto]
  else (bs.drop (l3 + 12)).take 8 ++ [0, BitVec.ofNat 8 proto] ++ (leBytes 2 (bs.length - l4)).reverse

/-- The IPv4 header checksum and the TCP or UDP checksum inserted. -/
def insertSums (bs : List Byte) (l3 l4 proto : Nat) : List Byte :=
  let b1 := if isV6 bs l3 then bs
    else let z := bePut bs (l3 + 10) 2 0
         bePut z (l3 + 10) 2 (netSum ((z.drop l3).take (4 * (beAt bs l3 1 % 16))))
  let o := l4 + (if proto = 6 then 16 else 6)
  if proto ≠ 6 && proto ≠ 17 then b1
  else
    let z := bePut b1 o 2 0
    let c := netSum (pseudo z l3 l4 proto ++ z.drop l4)
    bePut z o 2 (if proto = 17 && c = 0 then 65535 else c)

/-- Segment k of a send: its headers with the lengths, the IPv4 identification, the sequence number and the flags that it has, and its part of the data. -/
def segment (bs : List Byte) (l3 l4 hdr mss n k : Nat) : List Byte :=
  let seg := bs.take hdr ++ ((bs.drop hdr).drop (k * mss)).take mss
  let s1 := if isV6 bs l3 then bePut seg (l3 + 4) 2 (seg.length - l3 - 40)
    else bePut (bePut seg (l3 + 2) 2 (seg.length - l3)) (l3 + 4) 2 (beAt bs (l3 + 4) 2 + k)
  let s2 := bePut s1 (l4 + 4) 4 (beAt bs (l4 + 4) 4 + k * mss)
  let fl := beAt bs (l4 + 13) 1
  let f1 := if k + 1 = n then fl else fl &&& 0xF6
  bePut s2 (l4 + 13) 1 (if k = 0 then f1 else f1 &&& 0x7F)

/-- The frames that a send of the bytes of its buffer becomes: with TSO a segment for each MSS bytes behind the headers, else the buffer; with checksum offload each
has its checksums inserted. -/
def sendFrames (d bs : List Byte) : List (List Byte) :=
  let l3 := dF d 6 1
  let l4 := dF d 7 1
  let mss := dF d 4 2
  let tso := bit (cFlags d) 0
  let hdr := l4 + 4 * (beAt bs (l4 + 12) 1 / 16)
  let n := Nat.max 1 ((bs.length - hdr + mss - 1) / Nat.max 1 mss)
  let segs := if tso then (List.range n).map (segment bs l3 l4 hdr mss n) else [bs]
  if bit (cFlags d) 1 then segs.map (fun f => insertSums f l3 l4 (if tso then 6 else ipProto f l3)) else segs

def State.outputAll (s : State) (lp : Nat) (fs : List (List Byte)) : State := fs.foldl (fun t f => t.output lp f) s

/-- Send an attempt of entry l on path k (R512, R513, R527). A send reads its data first (R529). -/
def State.sendLed (s : State) (l k : Nat) : State :=
  let e := s.led l
  let lp := ((s.ep e.ep).path k).lport
  let (s1, r) := if e.opc = 0x1A then
      (match s.cRanges e.ins e.desc with
       | .ok rs => s.readRanges 8 lp e.ins rs
       | .fault f => (s, .fault f)
       | .poison p => (s, .poison p)
       | .bad => (s, .fault 0))
    else (s, .ok [] [])
  match r with
  | .fault _ => s1.faultLed l scJobFault
  | .poison _ => s1.faultLed l scMemPoison
  | .ok data _ =>
    let (x, s3) := s1.freshXid e.xid
    let (cmd, s2) := s3.command e k x
    let now := s2.time.dtime
    (s2.setLed l { e with path := k, tried := e.tried ||| 2 ^ k, attempt := e.attempt + 1, xid := x, tissue := now,
                          tdead := if e.opc = 0x1B then 0 else now + BitVec.ofNat 64 (s2.ep e.ep).optmo, bytes := 0, st := .issued,
                          waiting := false, rfence := false, sent := false }).outputAll lp (if e.opc = 0x1A then sendFrames e.desc data else if cmd.isEmpty then [] else [cmd])

/-- The addresses and ports of the flow of a send, from the headers that its descriptor locates (R503, R536). -/
def State.flowOf (s : State) (e : Led) : List Byte :=
  let l3 := dF e.desc 6 1
  let l4 := dF e.desc 7 1
  match s.ranges e.ins (cSgl e.desc) (cDptr e.desc) (cDlen e.desc) with
  | .ok rs =>
    (match (s.readRanges 8 0 e.ins (subRanges rs 0 (Nat.min 512 (cDlen e.desc)))).2 with
     | .ok bs _ => (if leAt bs l3 1 / 16 = 6 then (bs.drop (l3 + 8)).take 32 else (bs.drop (l3 + 12)).take 8) ++ (bs.drop l4).take 4
     | _ => [])
  | _ => []

/-- The path that the flow of a send has taken before, while it is ACTIVE (R503). -/
def Endp.flowPath (ep : Endp) (flow : List Byte) (cand : List Nat) : Option Nat :=
  ((ep.flows.find? (fun x => decide (x.1 = flow))).map (·.2)).filter (fun k => decide ((ep.path k).st = .active) && cand.contains k)

/-- The path of a first attempt (R503): the lowest, the next in turn, or for a network interface the one that its flow has kept or that its flow's hash
picks. -/
def State.firstPath (s : State) (e : Led) (cand : List Nat) : Nat :=
  let ep := s.ep e.ep
  if ep.typ = 5 then
    let flow := s.flowOf e
    (ep.flowPath flow cand).getD (cand.getD (Config.flowHash flow % cand.length) 0)
  else if ep.policy = 1 then (cand.find? (fun k => decide (ep.rr ≤ k))).getD (cand.headD 0)
  else cand.headD 0

/-- The endpoint after a first attempt on path k: the turn goes on, and the flow keeps the path (R503). -/
def State.tookPath (s : State) (e : Led) (k : Nat) : State :=
  let ep := s.ep e.ep
  s.setEp e.ep { ep with rr := k + 1, flows := if ep.typ = 5 then (let f := s.flowOf e; ep.flows.filter (fun x => decide (x.1 ≠ f)) ++ [(f, k)]) else ep.flows }

/-- A reissue on path k. For an FCP target that accepts task retry identification the device first sends REC for the old exchange; when it shows that the command
has completed, which a free value tells, its response comes through SRR and nothing is sent again (R517; log entry 158). -/
def State.reissue (s : State) (l k : Nat) : State :=
  let e := s.led l
  if (s.ep e.ep).typ = 4 && ((s.ep e.ep).path k).retry then
    let (w, s1) := (s.output ((s.ep e.ep).path k).lport (leBytes 4 e.xid.toNat)).draw
    if w.getLsbD 0 then
      (if w.getLsbD 1 then (s1.setLed l { e with pstat := 0, pdw0 := 0 }).finishLed l scOk
       else (s1.setLed l { e with pstat := BitVec.ofNat 16 (w.toNat / 4), pdw0 := BitVec.ofNat 32 (w.toNat / 2 ^ 18) }).finishLed l scIoError)
    else s1.sendLed l k
  else s.sendLed l k

/-- Send entry l on a path that may carry it, let it wait, or complete it when every path has been tried (R517, R518, R520); the first
attempt in a duplex pair waits for the mirror (R539). -/
def State.trySend (s : State) (l : Nat) : State :=
  let e := s.led l
  let ep := s.ep e.ep
  if !e.isOpen || e.drain || e.pendStatus.isSome || (s.dpx.st = .paired && !e.mirrored) then s
  else if e.attempt ≠ 0 && ep.allTried e.tried then s.finishLed l (if e.idem then scPathExhausted else scOutcomeUnknown)
  else
    let cand := ep.carriers.filter (fun k => !bit e.tried k)
    if cand.isEmpty then s.setLed l { e with waiting := true }
    else if e.rfence then s.setLed l { e with waiting := false }
    else if e.attempt = 0 then
      if s.fmtBad e.desc then s.finishLed l scJobField
      else
        let k := s.firstPath e cand
        (s.tookPath e k).sendLed l k
    else s.reissue l (cand.headD 0)

/-- An abort or a closing of entry l has ended: once none is left, the old attempts are fenced (R517, R519); one that drains waits for its abort alone (R543). -/
def State.fencedLed (s : State) (l : Nat) : State :=
  let e := s.led l
  if !(e.aborts.isEmpty && (e.drain || e.closing.isEmpty)) then s
  else if e.drain then
    if e.st = .retired then s
    else
      let x := s.ins e.ins
      (s.setLed l { e with st := .retired }).setIns e.ins { x with cnt := { x.cnt with sqchan := x.cnt.sqchan + 1 } }
  else if !e.isOpen then s
  else
    match e.pendStatus with
    | some st => s.finishLed l (e.faultStatus st)
    | none => if e.rfence then (s.setLed l { e with rfence := false }).trySend l else s

/-- The attempt of entry l was live on a path that fails (R517, R518); gone: its connection or link is lost, so that no abort can be
answered and what the awaited fence ends at is free (R512, R519). -/
def State.failAttempt (s : State) (l : Nat) (gone : Bool) : State :=
  let e := s.led l
  let s0 := s.setLed l { e with since := s.time.start }
  if e.opc = 0x1A && e.sent then s.finishLed l scLinkDown
  else if !(s.ep e.ep).aborts then s0.trySend l
  else
    let (w, s1) := if gone then (s0.setLed l { s0.led l with closing := e.closing ++ [(e.path, s.time.start)] }).draw
      else (s.time.deadline (s.ep e.ep).abtmo, s0.sendAbort l e.path)
    (s1.setLed l { s1.led l with rfence := !e.idem, tdead := if e.idem then e.tdead else w }).trySend l

/-- An entry put among others in the order of their taking. -/
def putOrd (x : Nat × Led) : List (Nat × Led) → List (Nat × Led)
  | [] => [x]
  | y :: r => if x.2.ord < y.2.ord then x :: y :: r else y :: putOrd x r

/-- The entries of endpoint e in the order of their taking, in which the sends of a queue pair leave (R525). -/
def State.ledsOf (s : State) (e : Nat) : List Nat :=
  ((s.chan.led.filter (fun x => decide (x.2.ep = e) && decide (x.2.st ≠ .free))).foldr putOrd []).map (·.1)

/-- The connection or link of a path is gone: its aborts can have no answer, and what fences is the second column of R519; a draining entry still
counts ABTMO from its abort (R543). -/
def State.loseAborts (s : State) (e k : Nat) : State :=
  (s.ledsOf e).foldl (fun t l =>
    let x := t.led l
    if x.aborts.any (fun a => decide (a.1 = k)) then
      let (w, t1) := t.draw
      t1.setLed l { x with aborts := if x.drain then x.aborts else x.aborts.filter (fun a => decide (a.1 ≠ k)),
                           closing := x.closing.filter (fun a => decide (a.1 ≠ k)) ++ [(k, s.time.start)], tdead := if x.rfence && decide (x.path = k) then w else x.tdead }
    else t) s

/-- Path k of endpoint e fails (R504, R505, R517). -/
def State.failPathTo (s : State) (e k : Nat) (dst : PathSt) (gone : Bool) : State :=
  let ep := s.ep e
  let p := ep.path k
  if ep.paths.length ≤ k then s
  else
    let s1 := s.setPath e k { p with st := dst, failAt := if p.st = .failed && dst = .failed then p.failAt else s.time.start }
    let s2 := if gone then s1.loseAborts e k else s1
    if p.st = .down || p.st = .failed then s2
    else
      let o := ep.owner.getD 0
      let s3 := s2.report (976 + p.lport) (payPort clCE p.lport o)
      let s4 := if !ep.carriers.isEmpty && (s2.ep e).carriers.isEmpty then s3.report (976 + p.lport) { payPort clDE p.lport o with synd := BitVec.ofNat 128 e } else s3
      (s4.ledsOf e).foldl (fun t l => if (t.led l).live && decide ((t.led l).path = k) then t.ledRead l (t.failAttempt l gone) else t) s4

/-- The state that a failed path takes: DOWN while its port is down, else FAILED (R502), as on a port of a fenced side (R541). -/
def State.failPath (s : State) (e k : Nat) (gone : Bool) : State :=
  let lp := ((s.ep e).path k).lport
  s.failPathTo e k (if (s.port lp).st = 2 || s.lostPort lp then .failed else .down) gone

/-- The entries of an endpoint that wait for a path, in the order of their taking (R518, R525). -/
def State.wakeEp (s : State) (e : Nat) : State :=
  (s.ledsOf e).foldl (fun t l => if (t.led l).isOpen && ((t.led l).waiting || decide ((t.led l).attempt = 0)) then t.ledRead l (t.trySend l) else t) s

/-! ## Taking a descriptor (R511, R513, R516) -/

def State.ledFree (s : State) (l : Nat) : Bool := decide (l < 262144) && (decide ((s.led l).st = .free) || decide ((s.led l).st = .retired))

/-- The new entry of a descriptor. -/
def State.newLed (s : State) (qp : Nat) (d : List Byte) : Led :=
  let i := s.qpOwner qp
  { st := .issued, idem := cIdem d, dir := s.cDir i d, ins := i, gen := (s.ins i).gen, opc := dOpc d, ep := cEp d, qp := qp, cq := dCq d, cflags := dFlags d % 4,
    tag := dTag d, osn := (s.ep (cEp d)).osn, tfirst := s.time.dtime, since := s.time.start, desc := d, sqhead := (s.qp qp).head, ord := s.chan.nextOrd,
    sqe := match s.sqe i d with | .ok bs _ => bs | _ => [] }

/-- The entry has been taken: its scatter list and pass-through entry must be readable; then it is mirrored, or sent (R520, R539). -/
def State.startLed (s : State) (l : Nat) : State :=
  let e := s.led l
  let bad : Option Nat :=
    match s.sqe e.ins e.desc with
    | .fault _ => some scJobFault
    | .poison _ => some scMemPoison
    | .ok _ _ => (match s.cRanges e.ins e.desc with | .fault _ => some scJobFault | .poison _ => some scMemPoison | _ => none)
  let t := if e.opc = 0x15 then (s.agentGet 8 (s.ledPort e) e.ins (dF e.desc 0x28 8) 64).1 else s
  let s0 := t.rangesSee 8 (s.ledPort e) e.ins (cSgl e.desc) (cDptr e.desc)
  let s1 := if s.dpx.st = .paired then s0.mirrorLed l else s0
  match bad with
  | some st => s1.finishLed l (e.faultStatus st)
  | none => s1.trySend l

/-- Take the descriptor of opcode opc at the head of qp into entry lidx. -/
def State.takeChan (s : State) (qp opc lidx : Nat) : State :=
  let s := s.skipRefused qp
  match s.headIs qp opc with
  | none => s
  | some d =>
    let i := s.qpOwner qp
    if !s.ledRoom i || !s.ledFree lidx then s
    else
      match s.spend i (chanCharges d) with
      | none => s
      | some s1 =>
        if !s.chanOk i d then (s.headOn qp).completeDesc qp d scJobField (refusedExtra d) false
        else
          let s2 := s1.headOn qp
          let e := s2.newLed qp d
          let old := ((s2.led lidx).aborts).map (fun a => ({ lidx := lidx, ep := (s2.led lidx).ep, path := a.1, sent := a.2 } : Orphan))
          let s3 := (({ s2 with chan := { s2.chan with orphans := s2.chan.orphans ++ old } } : State).setEp e.ep { s2.ep e.ep with osn := ((s2.ep e.ep).osn + 1) % 2 ^ 32 }).setLed lidx e
          ({ s3 with chan := { s3.chan with nextOrd := s3.chan.nextOrd + 1 } } : State).startLed lidx

def execNvread (qp lidx : Nat) (s : State) : Out := .next (s.takeChan qp 0x10 lidx)
def execNvwrite (qp lidx : Nat) (s : State) : Out := .next (s.takeChan qp 0x11 lidx)
def execNvflush (qp lidx : Nat) (s : State) : Out := .next (s.takeChan qp 0x12 lidx)
def execNvzero (qp lidx : Nat) (s : State) : Out := .next (s.takeChan qp 0x13 lidx)
def execNvdsm (qp lidx : Nat) (s : State) : Out := .next (s.takeChan qp 0x14 lidx)
def execNvcmd (qp lidx : Nat) (s : State) : Out := .next (s.takeChan qp 0x15 lidx)
def execScmd (qp lidx : Nat) (s : State) : Out := .next (s.takeChan qp 0x18 lidx)
def execNsend (qp lidx : Nat) (s : State) : Out := .next (s.takeChan qp 0x1A lidx)
def execNrecv (qp lidx : Nat) (s : State) : Out := .next (s.takeChan qp 0x1B lidx)

/-- A LACK retires the OUTCOME_UNKNOWN entry that it names (R523, R536). -/
def execLack (qp : Nat) (s : State) : Out :=
  let s := s.skipRefused qp
  .next (
    match s.headIs qp 0x1F with
    | none => s
    | some d =>
      let i := s.qpOwner qp
      match s.spend i [(clsChop, 1)] with
      | none => s
      | some s1 =>
        let s2 := s1.headOn qp
        let l := dF d 8 8
        let e := s2.led l
        let ok := zeroAt d 16 8 && zeroAt d (16 + 16) 32 && decide (l < 262144) && decide (e.st = .complete) && decide (e.status = scOutcomeUnknown) && decide (e.ins = i)
        let s3 := if ok then s2.setLed l { e with st := .retired } else s2
        s3.completeDesc qp d (if ok then scOk else scJobField) (leBytes 4 (l % 2 ^ 18) ++ List.replicate 12 0) false)

/-! ## Arrivals (R510, R513, R514, R520, R529 to R531) -/

def State.countStale (s : State) : State := { s with chan := { s.chan with stale := s.chan.stale + 1 } }
def State.countDiscard (s : State) : State := { s with chan := { s.chan with discards := s.chan.discards + 1 } }

/-- An arrival that carries XID x for entry l is stale (R514), or comes after the ledger fence of a reset (R543). -/
def State.staleFor (s : State) (l : Nat) (x : BitVec 32) : Bool :=
  let e := s.led l
  !e.isOpen || decide (e.attempt = 0) || decide (e.xid ≠ x) || e.drain

/-- No earlier send of the same queue pair to the same logical port waits to leave (R525). -/
def State.sendTurn (s : State) (l : Nat) : Bool :=
  let e := s.led l
  !s.chan.led.any (fun x => decide (x.2.opc = 0x1A) && x.2.live && decide (x.2.st = .issued) && decide (x.2.qp = e.qp) && decide (x.2.ord < e.ord)
    && decide (s.ledPort x.2 = s.ledPort e))

/-- The IPA and the bytes of separate PI: 8 for each block of an NVREAD or NVWRITE with MPTR (R533). -/
def piRange (d : List Byte) : Ranges := if dOpc d ≤ 0x11 && decide (dF d 0x20 8 ≠ 0) then [(dF d 0x20 8, 8 * dF d 0x10 4)] else []

/-- How many bytes of a write or a send that has begun have been moved so far: a free value until it is whole (R512; log entry 159). -/
def movedSoFar (w : Word) (d : List Byte) : Nat := Nat.min (cDlen d) (1 + w.toNat % Nat.max 1 (cDlen d - 1))

/-- The target holds the command (R513); write data is then read and sent, with its separate PI (R533). Of a send the first frame is queued. -/
def State.doTargetAccept (s : State) (l : Nat) (x : BitVec 32) : State :=
  let e := s.led l
  if s.staleFor l x then s.countStale
  else if e.pendStatus.isSome || decide (e.st ≠ .issued) || (e.opc = 0x1A && !s.sendTurn l) then s
  else if e.opc = 0x1A then
    let (w, s1) := s.draw
    s1.setLed l { e with st := .data, sent := true, bytes := movedSoFar w e.desc }
  else if e.dir ≠ 2 || !e.live || decide (cDlen e.desc = 0) then s.setLed l { e with st := .accepted }
  else
    let s1 := s.setLed l { e with st := .accepted }
    let lp := s.ledPort e
    match s1.cRanges e.ins e.desc with
    | .ok rs =>
      match s1.readRanges 8 lp e.ins (rs ++ piRange e.desc) with
      | (s2, .ok bs _) =>
        let (w, s3) := s2.draw
        (s3.setLed l { s3.led l with st := .data, bytes := movedSoFar w e.desc }).output lp bs
      | (s2, .fault _) => s2.faultLed l scJobFault
      | (s2, .poison _) => s2.faultLed l scMemPoison
    | .poison _ => s1.faultLed l scMemPoison
    | _ => s1.faultLed l scJobFault

/-- The part of the separate PI of a read that comes with n bytes of data from offset off on: of each block of DLEN / NLB bytes that begins there (R533). -/
def piPart (e : Led) (off n : Nat) : Ranges :=
  let blk := Nat.max 1 (cDlen e.desc / Nat.max 1 (dF e.desc 0x10 4))
  subRanges (piRange e.desc) (8 * ((off + blk - 1) / blk)) (8 * ((off + n + blk - 1) / blk - (off + blk - 1) / blk))

/-- Separate PI that comes with data of a read: free bytes at MPTR (R533, log entry 52). -/
def State.writePi (s : State) (e : Led) (rs : Ranges) : State :=
  let (bs, s1) := s.junk ((rs.map (·.2)).foldl (· + ·) 0)
  if rs.isEmpty then s else s1.writeRanges 8 (s.ledPort e) e.ins rs bs

/-- A whole, checked data unit arrives (R514, R529, R530). -/
def State.doDataUnit (s : State) (l : Nat) (x : BitVec 32) (off : Nat) (data : List Byte) (good : Bool) : State :=
  let e := s.led l
  let n := data.length
  if !good then s.countDiscard
  else if s.staleFor l x then s.countStale
  else if e.pendStatus.isSome || decide (e.dir ≠ 1) || decide (e.opc = 0x1B) || decide (n = 0) || decide (131072 < n) || decide (cDlen e.desc < off + n) then s
  else if s.oldGen e.ins e.gen then (s.countDrop e.ins).setLed l { e with st := .data, bytes := e.bytes + n }
  else
    match s.cRanges e.ins e.desc with
    | .ok rs =>
      let rs2 := subRanges rs off n
      let pi := piPart e off n
      match (s.room e.ins (rs2 ++ pi) (n + (pi.map (·.2)).foldl (· + ·) 0)).2 with
      | .ok => ((s.writeRanges 8 (s.ledPort e) e.ins rs2 data).writePi e pi).setLed l { e with st := .data, bytes := e.bytes + n }
      | .fault _ => (s.roomSees 8 (s.ledPort e) e.ins (rs2 ++ pi)).faultLed l scJobFault
      | .poison _ => (s.roomSees 8 (s.ledPort e) e.ins (rs2 ++ pi)).faultLed l scMemPoison
    | .poison _ => s.faultLed l scMemPoison
    | _ => s.faultLed l scJobFault

/-- An earlier send of the same queue pair to the same logical port has not left it whole (R525). -/
def State.sendBehind (s : State) (l : Nat) : Bool :=
  let e := s.led l
  s.chan.led.any (fun x => decide (x.2.opc = 0x1A) && x.2.live && decide (x.2.qp = e.qp) && decide (x.2.ord < e.ord) && decide (s.ledPort x.2 = s.ledPort e))

/-- The target's response (R504, R520); a send has left the port whole. -/
def State.doResponse (s : State) (l : Nat) (x : BitVec 32) (k : RespKind) (pstat : BitVec 16) (pdw0 : BitVec 32) : State :=
  let e := s.led l
  if s.staleFor l x then s.countStale
  else if e.pendStatus.isSome || (e.opc = 0x1A && k = .success && s.sendBehind l) then s
  else
    let s1 := s.setLed l { e with pstat := pstat, pdw0 := pdw0, bytes := if e.dir = 2 && decide (k = .success) then cDlen e.desc else e.bytes }
    match k with
    | .success => s1.finishLed l scOk
    | .error => s1.finishLed l scIoError
    | _ => if e.live then s.failPath e.ep e.path false else s

/-- The posted receive buffer that was taken first (R531). -/
def State.oldestRecv (s : State) (e : Nat) : Option Nat :=
  let ps := s.chan.led.filter (fun x => decide (x.2.ep = e) && decide (x.2.opc = 0x1B) && x.2.isOpen && x.2.pendStatus.isNone && !x.2.drain)
  (ps.find? (fun x => ps.all (fun y => decide (x.2.ord ≤ y.2.ord)))).map (·.1)

/-- A frame arrives for a network interface (R529 to R531); one of a removed plan takes them while a receive of its old work is posted (R542). -/
def State.doFrame (s : State) (e : Nat) (data : List Byte) (good : Bool) : State :=
  if !good then s.countDiscard
  else if (s.ep e).typ ≠ 5 || (!(s.ep e).made && (s.oldestRecv e).isNone) || data.isEmpty || decide (9216 < data.length) then s
  else
    match s.oldestRecv e with
    | none => { s with chan := { s.chan with rxDropped := s.chan.rxDropped + 1 } }
    | some l =>
      let x := s.led l
      let n := data.length
      let rs : Ranges := [(cDptr x.desc, n)]
      let s1 := s.setBk x.ins clsChbyte ((s.bk x.ins clsChbyte).charge (units4k n))
      s.ledRead l (
      if s.oldGen x.ins x.gen then ((s1.countDrop x.ins).setLed l { x with st := .data, bytes := n }).finishLed l scOk
      else
        match (s.room x.ins rs n).2 with
        | .ok => ((s1.writeRanges 8 (s.ledPort x) x.ins rs data).setLed l { x with st := .data, bytes := n }).finishLed l scOk
        | .fault _ => (s.roomSees 8 (s.ledPort x) x.ins rs).faultLed l scJobFault
        | .poison _ => (s.roomSees 8 (s.ledPort x) x.ins rs).faultLed l scMemPoison)

/-! ### The frame buffer (R531) -/

/-- The logical port and the bytes that a unit which waits to be agreed holds in the frame buffer; every other unit leaves it in the step in which it comes. -/
def State.heldUnit (s : State) (i : AgreedIn) : Nat × Nat :=
  match i with
  | .data l _ _ bs _ => (s.ledPort (s.led l), bs.length)
  | .frame e bs _ => (((s.ep e).path 0).lport, bs.length)
  | .inbound e _ _ bs _ => (((s.ep e).path 0).lport, bs.length)
  | _ => (64, 0)

/-- What port lp holds in the frame buffer beyond its reserve of 256 KiB, with n bytes more. -/
def State.overReserve (s : State) (lp n : Nat) : Nat :=
  (((s.dpx.inputs.map (fun x => s.heldUnit x.2)).filter (fun u => decide (u.1 = lp))).map (·.2)).foldl (· + ·) n - 262144

/-- A unit of n bytes finds room: in the reserve of its port, or in what is shared of the 64 MiB less the macros switched off, 256 KiB of each (R531, 13
R658). -/
def State.bufferRoom (s : State) (lp n : Nat) : Bool :=
  let lps := (List.range 64).filter (fun k => decide ((s.port k).st ≠ 0))
  let shared := 2 ^ 26 - 262144 * s.chan.macroOff.length - 262144 * lps.length
  decide (s.overReserve lp n = 0) || decide ((lps.map (fun k => s.overReserve k (if k = lp then n else 0))).foldl (· + ·) 0 ≤ shared)

/-- A unit of port lp arrives. With no room, PCIe and Fibre Channel withhold credits and R_RDY, so that it stays with its sender; Ethernet sends PFC, or on a
priority without it discards and counts the frame: a free value tells which (R531; log entry 160). -/
def State.receive (s : State) (lp : Nat) (i : AgreedIn) (t : State) : State :=
  if s.bufferRoom lp (s.heldUnit i).2 then s.agree i t
  else if (s.group (lp / 8)).mode ≠ 3 then s
  else
    let (w, s1) := s.draw
    if w.getLsbD 0 then { s1 with chan := { s1.chan with rxDropped := s1.chan.rxDropped + 1 } } else s1

def execTargetAccept (lidx : Nat) (xid : BitVec 32) (s : State) : Out := .next (s.live (s.agree (.accept lidx xid) (s.ledRead lidx (s.doTargetAccept lidx xid))))
def execDataUnitReceived (lidx : Nat) (xid : BitVec 32) (off : Nat) (data : List Byte) (good : Bool) (s : State) : Out :=
  .next (s.live (s.receive (s.ledPort (s.led lidx)) (.data lidx xid off data good) (s.ledRead lidx (s.doDataUnit lidx xid off data good))))
def execTargetResponse (lidx : Nat) (xid : BitVec 32) (k : RespKind) (pstat : BitVec 16) (pdw0 : BitVec 32) (s : State) : Out :=
  .next (s.live (s.agree (.response lidx xid k pstat pdw0) (s.ledRead lidx (s.doResponse lidx xid k pstat pdw0))))
def execFrameReceived (ep : Nat) (data : List Byte) (good : Bool) (s : State) : Out :=
  .next (s.live (s.receive ((s.ep ep).path 0).lport (.frame ep data good) (s.doFrame ep data good)))

/-- An inbound request of a PCIe function (R510): a write is performed for the owning instance, a refused request is answered with UR. A TLP that fails LCRC
or ECRC is discarded whole and counted; one has at most 4,096 bytes (R529, R530). -/
def State.doInbound (s : State) (e : Nat) (write : Bool) (ipa : Nat) (data : List Byte) (good : Bool) : State :=
  let ep := s.ep e
  let i := ep.owner.getD 0
  let lp := (ep.path 0).lport
  let refused := fun (t : State) (a : Nat) => t.report 1281 { payAgent clDE 9 lp i a (ipaSpace i) (if write then 0x0B else 0x0A) with synd := BitVec.ofNat 128 e }
  if !good then s.countDiscard
  else if !ep.made || decide (ep.typ ≠ 6) || decide (4096 < data.length) then s
  else if write then
    match s.agentStore 9 lp i ipa data with
    | (s1, .ok) => s1
    | (s1, .fault a) => refused s1 a
    | (s1, .poison a) => refused s1 a
  else
    match s.agentGet 9 lp i ipa data.length with
    | (t, .fault a) => refused t a
    | (t, _) => t

def execPcieInboundRequest (ep : Nat) (write : Bool) (ipa : Nat) (data : List Byte) (s : State) : Out :=
  let e := ep % 65536
  let good := decide (ep < 65536)
  .next (s.live (s.receive ((s.ep e).path 0).lport (.inbound e write ipa data good) (s.doInbound e write ipa data good)))

/-- An MSI or MSI-X write raises the vector that the endpoint's message table names (R510, 12 R604). -/
def State.doMsi (s : State) (e v : Nat) : State :=
  if (s.ep e).made && decide ((s.ep e).typ = 6) then s.raiseVvFrom ((s.ep e).owner.getD 0) v else s

def execMsiWrite (ep v : Nat) (s : State) : Out := .next (s.live (s.agree (.msi ep v) (s.doMsi ep v)))

/-! ## Ports and paths (R496, R502, R504, R509, R528) -/

/-- The paths on a logical port: endpoint and number. -/
def State.pathsOn (s : State) (lp : Nat) : List (Nat × Nat) :=
  s.chan.eps.flatMap (fun e => ((List.range e.2.paths.length).filter (fun k => decide ((e.2.path k).lport = lp))).map (fun k => (e.1, k)))

/-- The link of an FC path ends with its port (R519). -/
def linkFences (t : Nat) : Bool := t = 3 || t = 4

def execPortDown (lp : Nat) (s : State) : Out :=
  .next (s.live (if (s.port lp).st = 0 then s
    else (s.pathsOn lp).foldl (fun t p => t.failPath p.1 p.2 (linkFences (t.ep p.1).typ)) (s.setPort lp { s.port lp with st := 0 })))

/-- Path k of endpoint e begins to connect: the device logs in (R502, R540). -/
def State.connect (s : State) (e k : Nat) : State :=
  (s.setPath e k { (s.ep e).path k with st := .connecting }).output ((s.ep e).path k).lport (Config.cmdBytes 0 e k)

/-- Identify Namespace finds the formats of the namespaces of endpoint e as path k connects (R814): anew when no other path of it was connected, since a change is
reported on one that is. -/
def State.learnFormats (s : State) (e k : Nat) : State :=
  if 3 < (s.ep e).typ then s
  else
    let others := (List.range (s.ep e).paths.length).any (fun j => decide (j ≠ k) && (((s.ep e).path j).st = .active || ((s.ep e).path j).st = .standby))
    let s1 := s.output ((s.ep e).path k).lport (Config.cmdBytes 1 e k)
    if others && (s.ep e).learned.isSome then s1
    else
      { (s1.setEp e { s1.ep e with learned := some s1.freeCtr }) with
        freeCtr := s1.freeCtr + 1, chan := { (s1.setEp e { s1.ep e with learned := some s1.freeCtr }).chan with formats := s1.chan.formats.filter (fun x => decide (x.1 / 2 ^ 32 ≠ e)) } }

/-- A path finishes connecting (R502): the operations that wait are started at the tick boundary, so that of several paths that connect in one tick the lowest
is taken (R518, R526; log entry 161). Whether an FCP target accepts task retry identification at PRLI is a free value (R517). -/
def State.doConnect (s : State) (ep k : Nat) (standby : Bool) : State :=
  let e := s.ep ep
  let p := e.path k
  if p.st ≠ .connecting || decide ((s.port p.lport).st ≠ 2) || s.lostPort p.lport then s
  else
    let (w, s1) := s.draw
    (s1.setPath ep k { p with st := if standby || bit p.pflags 1 then .standby else .active, closing := false, alive := s.time.start,
                              retry := decide (e.typ = 4) && w.getLsbD 0 }).learnFormats ep k
def execPathConnected (ep k : Nat) (standby : Bool) (s : State) : Out := .next (s.live (s.agree (.connect ep k standby) (s.doConnect ep k standby)))

/-- The target reports an ANA state (R502, R504). -/
def State.doAna (s : State) (ep k : Nat) (ana : Ana) : State :=
  let p := (s.ep ep).path k
  if !((s.ep ep).typ ≤ 3) || !(p.st = .active || p.st = .standby) then s
  else
    match ana with
    | .optimized => s.setPath ep k { p with st := if bit p.pflags 1 then .standby else .active }
    | .nonOptimized => s.setPath ep k { p with st := .standby }
    | .inaccessible => s.failPath ep k false
def execAnaStateChange (ep k : Nat) (ana : Ana) (s : State) : Out :=
  .next (s.live (s.agree (.ana ep k ana) (s.doAna ep k ana)))

/-- The target has ended a login, an association or a connection (R504). -/
def State.doLogout (s : State) (ep k : Nat) : State :=
  let p := (s.ep ep).path k
  if decide (2 ≤ (s.ep ep).typ) && decide ((s.ep ep).typ ≤ 4) && (p.st = .active || p.st = .standby || p.st = .connecting) then s.failPath ep k true else s
def execLoginLoss (ep k : Nat) (s : State) : Out := .next (s.live (s.agree (.login ep k) (s.doLogout ep k)))

/-- KATO ticks without a keep-alive response (R528). The responses are no events of the table, so that the first is the connecting itself, before which none
can be due (log entry 11). -/
def execKeepaliveTimeout (ep k : Nat) (s : State) : Out :=
  let p := (s.ep ep).path k
  .next (s.live (if ((s.ep ep).typ = 2 || (s.ep ep).typ = 3) && (p.st = .active || p.st = .standby) && p.alive + (s.ep ep).kato ≤ s.time.ticks then s.atEdge (fun t => t.failPath ep k false) else s))

/-- The retest of a failed path is due: RETEST whole epochs after it entered FAILED, with its port up, and on a port of a fenced side not before
re-pairing ends (R526, R528, R541). -/
def State.retestDue (s : State) (ep k : Nat) : Bool :=
  let p := (s.ep ep).path k
  decide (p.st = .failed) && decide ((s.port p.lport).st = 2) && p.failAt + 1024 * (s.ep ep).retest ≤ s.time.ticks && !s.lostPort p.lport
def State.retest (s : State) (ep k : Nat) : State := s.connect ep k
def execPathRetest (ep k : Nat) (s : State) : Out := .next (s.live (if s.retestDue ep k then s.atEdge (fun t => t.retest ep k) else s))

/-- The deadline of a live attempt has come (R527); a receive has none. -/
def State.opDue (s : State) (lidx : Nat) : Bool := (s.led lidx).live && decide ((s.led lidx).opc ≠ 0x1B) && (s.led lidx).tdead.toNat ≤ s.time.dtime.toNat
def State.opTimeout (s : State) (lidx : Nat) : State := s.ledRead lidx (s.failPath (s.led lidx).ep (s.led lidx).path false)
def execOperationTimeout (lidx : Nat) (s : State) : Out := .next (s.live (if s.opDue lidx then s.atEdge (fun t => t.opTimeout lidx) else s))

/-- OPTMO ticks have passed from the taking of entry l, or from the failure of its last attempt, with no path able to carry it (R518). -/
def State.waitDue (s : State) (l : Nat) : Bool :=
  let e := s.led l
  e.isOpen && e.waiting && !e.drain && e.pendStatus.isNone && e.since + (s.ep e.ep).optmo ≤ s.time.ticks
def State.waitExpiry (s : State) (lidx : Nat) : State :=
  let e := s.led lidx
  s.ledRead lidx (
    if e.attempt = 0 then s.finishLed lidx scPathExhausted
    else (s.setLed lidx { e with tried := e.tried ||| (2 ^ (s.ep e.ep).paths.length - 1) }).finishLed lidx (if e.idem then scPathExhausted else scOutcomeUnknown))
def execOperationWaitExpiry (lidx : Nat) (s : State) : Out := .next (s.live (if s.waitDue lidx then s.atEdge (fun t => t.waitExpiry lidx) else s))

/-- The oldest abort of an operation that has left entry l. -/
def State.orphan (s : State) (l : Nat) : Option Orphan := s.chan.orphans.find? (fun o => decide (o.lidx = l))
def State.dropOrphan (s : State) (o : Orphan) : State := { s with chan := { s.chan with orphans := s.chan.orphans.erase o } }

/-- An abort of entry l is answered: first one of an operation that has left the entry (R519). -/
def State.doAbortAnswer (s : State) (l : Nat) : State :=
  let e := s.led l
  match s.orphan l with
  | some o => s.dropOrphan o
  | none => if e.aborts.isEmpty then s else s.ledRead l ((s.setLed l { e with aborts := e.aborts.drop 1 }).fencedLed l)
def execAbortAnswer (lidx : Nat) (s : State) : Out := .next (s.live (s.agree (.abort lidx) (s.doAbortAnswer lidx)))

/-- The device itself brings about the event of the second column of R519 for path k of endpoint e: it resets the controller, closes the connection or logs out
(R815). -/
def State.forceFence (s : State) (e k : Nat) : State :=
  ((if (s.ep e).typ = 1 then s.setPath e k { (s.ep e).path k with closing := true } else s).output ((s.ep e).path k).lport (Config.cmdBytes 2 e k)).failPath e k true

/-- ABTMO ticks have passed from the oldest unanswered abort of entry l (R815, R528). -/
def State.abortDue (s : State) (l : Nat) : Bool :=
  match s.orphan l, (s.led l).aborts with
  | some o, _ => o.sent + (s.ep o.ep).abtmo ≤ s.time.ticks
  | none, a :: _ => a.2 + (s.ep (s.led l).ep).abtmo ≤ s.time.ticks
  | none, [] => false

/-- No answer to an abort within ABTMO (R815): the device brings about the event of the second column; a draining entry is retired
unfenced (R543). The tick at which the awaited fence ends is free. -/
def State.abortTimeout (s : State) (lidx : Nat) : State :=
  let e := s.led lidx
  match s.orphan lidx, e.aborts with
  | some o, _ => (s.dropOrphan o).forceFence o.ep o.path
  | none, [] => s
  | none, (k, _) :: rest =>
    s.ledRead lidx (
    let (w, s0) := s.draw
    let s1 := s0.setLed lidx { e with aborts := rest, closing := e.closing.filter (fun a => decide (a.1 ≠ k)) ++ [(k, s.time.start)], tdead := if e.rfence then w else e.tdead }
    let s3 := s1.forceFence e.ep k
    let x := s3.led lidx
    if x.drain && decide (x.st ≠ .retired) then
      let y := s3.ins x.ins
      (s3.setLed lidx { x with st := .retired, aborts := [], closing := [] }).setIns x.ins { y with cnt := { y.cnt with sqchan := y.cnt.sqchan + 1, unfenced := y.cnt.unfenced + 1 } }
    else s3)
def execAbortTimeout (lidx : Nat) (s : State) : Out := .next (s.live (if s.abortDue lidx then s.atEdge (fun t => t.abortTimeout lidx) else s))

/-- Every attempt on path k of endpoint e that awaits the second column is fenced (R519, R815). -/
def State.fencePath (s : State) (e k : Nat) : State :=
  (s.ledsOf e).foldl (fun t l =>
    let x := t.led l
    if x.closing.any (fun a => decide (a.1 = k)) then
      t.ledRead l ((t.setLed l { x with closing := x.closing.filter (fun a => decide (a.1 ≠ k)), aborts := x.aborts.filter (fun a => decide (a.1 ≠ k)) }).fencedLed l)
    else t) s

/-- CSTS.RDY reads 0 after the clearing of CC.EN (R815). -/
def State.doCtlReset (s : State) (ep k : Nat) : State :=
  let p := (s.ep ep).path k
  if (s.ep ep).typ = 1 && p.closing then (s.setPath ep k { p with closing := false }).fencePath ep k else s
def execControllerResetDone (ep k : Nat) (s : State) : Out := .next (s.live (s.agree (.ctlReset ep k) (s.doCtlReset ep k)))

/-- The DEV accesses of core l to endpoints behind a port complete as errors, oldest first (R509); n bounds them. -/
def State.containDev (s : State) (lp l : Nat) : Nat → State
  | 0 => s
  | n + 1 =>
    match (s.core l).devOut.findIdx? (fun d => decide (((s.ep d.ep).path 0).lport = lp)) with
    | some k => (s.devDone l k none).containDev lp l n
    | none => s

/-- DPC contains the link of a port (R509, R519). -/
def State.contain (s : State) (lp : Nat) : State :=
  let s1 := s.setPort lp { s.port lp with st := 0 }
  let s2 := (s1.pathsOn lp).foldl (fun t p =>
    let t1 := t.failPath p.1 p.2 true
    if (t1.ep p.1).typ = 1 then (t1.setPath p.1 p.2 { (t1.ep p.1).path p.2 with closing := false }).fencePath p.1 p.2 else t1) s1
  s2.cores.foldl (fun t c => t.containDev lp c.1 c.2.devOut.length) s2

def execDpcContainment (lp : Nat) (s : State) : Out := .next (s.live (if (s.group (lp / 8)).mode = 1 && decide (lp < 64) then s.contain lp else s))

/-- CAP.TO has passed: the device triggers DPC containment of the controller's link (R815). -/
def execControllerResetTimeout (ep k : Nat) (s : State) : Out :=
  let p := (s.ep ep).path k
  .next (s.live (if (s.ep ep).typ = 1 && p.closing then s.contain p.lport else s))

/-- The quiesce time after a closed connection or a logout has passed: KATO ticks and the controller's own time for NVMe/TCP, times of the fabric and of
the target otherwise (R519). -/
def execQuiesceElapsed (lidx : Nat) (s : State) : Out :=
  let e := s.led lidx
  let ep := s.ep e.ep
  .next (s.live (
    match e.closing with
    | [] => s
    | (k, t0) :: rest =>
      if ep.typ = 1 || (ep.typ = 2 && decide (s.time.ticks < t0 + ep.kato)) then s
      else s.ledRead lidx ((s.setLed lidx { e with closing := rest, aborts := e.aborts.filter (fun a => decide (a.1 ≠ k)) }).fencedLed lidx)))

/-- The controller reports the format of a namespace, or that there is none (R814). -/
def State.doSpace (s : State) (ep nsid : Nat) (blk : Option Nat) : State :=
  let s1 : State := { s with chan := { s.chan with formats := Tab.set none s.chan.formats (fmtKey ep nsid) (some blk) } }
  if (s.ep ep).paths.isEmpty then s
  else (s1.ledsOf ep).foldl (fun t l => if (t.led l).isOpen && decide ((t.led l).attempt = 0) && !(t.ep ep).carriers.isEmpty && t.fmtBad (t.led l).desc && !(t.led l).drain && (t.led l).pendStatus.isNone
      then t.finishLed l scJobField else t) s1
def execNamespaceChange (ep nsid : Nat) (blk : Option Nat) (s : State) : Out := .next (s.live (s.agree (.space ep nsid blk) (s.doSpace ep nsid blk)))

/-- A link finishes training, at most at the configured width and rate; one narrower than configured makes a CE record (R496); the paths of its port begin to connect. -/
def execLinkTrained (lp lanes rate : Nat) (s : State) : Out :=
  let g := s.group (lp / 8)
  .next (s.live (
    match g.ports[lp % 8]? with
    | none => s
    | some (wl, wr) =>
      if g.mode = 0 || decide (64 ≤ lp) || (s.port lp).st = 2 then s
      else
        let s1 := s.setPort lp { st := 2, lanes := Nat.min lanes wl, rate := Nat.min rate wr }
        let s2 := if (g.mode = 1 || g.mode = 2) && decide (lanes < wl) then s1.report (976 + lp) (payPort clCE lp 0) else s1
        (s2.pathsOn lp).foldl (fun t p => let x := (t.ep p.1).path p.2
          if x.st = .down then t.connect p.1 p.2 else t) s2))

end Sys2Proof.Machine
end

