-- ==== Sys2Proof/Machine/Formats.lean ====
section
/-! DEFINITION. The compression formats (11 R550 to R558, R574): the checksums, and the streams that a compression job makes and a decompression
job reads, down to the bodies of their compressed blocks, which are functions of Config. What the standards that R550 names fix and the spec does not repeat is
PRESUMED from them (log entry 162). -/

namespace Sys2Proof.Machine

/-! ## Checksums (R550, R574) -/

/-- CRC-32 as gzip has it. -/
def crcStep (c : BitVec 32) : BitVec 32 := if c.getLsbD 0 then (c >>> 1) ^^^ 0xEDB88320 else c >>> 1
def crcByte (c : BitVec 32) (b : Byte) : BitVec 32 := Nat.fold 8 (fun _ _ x => crcStep x) (c ^^^ b.zeroExtend 32)
def crc32 (bs : List Byte) : BitVec 32 := ~~~(bs.foldl crcByte 0xFFFFFFFF)

/-- Adler-32 as zlib has it. -/
def adler32 (bs : List Byte) : BitVec 32 :=
  let r := bs.foldl (fun (x : Nat × Nat) b => ((x.1 + b.toNat) % 65521, (x.2 + x.1 + b.toNat) % 65521)) (1, 0)
  BitVec.ofNat 32 (65536 * r.2 + r.1)

/-- XXH64 with seed 0, as Zstandard has it. -/
def xxP1 : Word := 0x9E3779B185EBCA87
def xxP2 : Word := 0xC2B2AE3D27D4EB4F
def xxP3 : Word := 0x165667B19E3779F9
def xxP4 : Word := 0x85EBCA77C2B2AE63
def xxP5 : Word := 0x27D4EB2F165667C5
def xxRound (acc x : Word) : Word := (acc + x * xxP2).rotateLeft 31 * xxP1
def xxMerge (acc x : Word) : Word := (acc ^^^ xxRound 0 x) * xxP1 + xxP4
def xxW (bs : List Byte) (o : Nat) : Word := BitVec.ofNat 64 (leAt bs o 8)

/-- The four lanes after the stripes of 32 bytes; n bounds them. -/
def xxStripes : Nat → Word × Word × Word × Word → List Byte → Word × Word × Word × Word
  | 0, v, _ => v
  | n + 1, v, bs =>
    xxStripes n (xxRound v.1 (xxW bs 0), xxRound v.2.1 (xxW bs 8), xxRound v.2.2.1 (xxW bs 16), xxRound v.2.2.2 (xxW bs 24)) (bs.drop 32)

/-- The words of 8 bytes after the stripes, the word of 4 and the single bytes; n bounds them. -/
def xxTail : Nat → Word → List Byte → Word
  | 0, h, _ => h
  | n + 1, h, bs =>
    if 8 ≤ bs.length then xxTail n ((h ^^^ xxRound 0 (xxW bs 0)).rotateLeft 27 * xxP1 + xxP4) (bs.drop 8)
    else if 4 ≤ bs.length then xxTail n ((h ^^^ (BitVec.ofNat 64 (leAt bs 0 4) * xxP1)).rotateLeft 23 * xxP2 + xxP3) (bs.drop 4)
    else
      match bs with
      | [] => h
      | b :: t => xxTail n ((h ^^^ (b.zeroExtend 64 * xxP5)).rotateLeft 11 * xxP1) t

def xxh64 (bs : List Byte) : Word :=
  let n := bs.length / 32
  let v := xxStripes n (xxP1 + xxP2, xxP2, 0, 0 - xxP1) bs
  let h0 := if n = 0 then xxP5
    else xxMerge (xxMerge (xxMerge (xxMerge (v.1.rotateLeft 1 + v.2.1.rotateLeft 7 + v.2.2.1.rotateLeft 12 + v.2.2.2.rotateLeft 18) v.1) v.2.1) v.2.2.1) v.2.2.2
  let h := xxTail (bs.length % 32) (h0 + BitVec.ofNat 64 bs.length) (bs.drop (32 * n))
  let h1 := (h ^^^ (h >>> 33)) * xxP2
  let h2 := (h1 ^^^ (h1 >>> 29)) * xxP3
  h2 ^^^ (h2 >>> 32)

/-- CHECK over the uncompressed data (R574). -/
def checkOf (fmt : Nat) (bs : List Byte) : BitVec 32 :=
  match fmt with
  | 0 | 2 => crc32 bs
  | 1 => adler32 bs
  | _ => (xxh64 bs).setWidth 32

/-! ## Blocks (R552) -/

/-- The bytes of a list in pieces of k, the last with the remainder; n bounds them. -/
def piecesN : Nat → Nat → List Byte → List (List Byte)
  | 0, _, _ => []
  | n + 1, k, bs => if bs.isEmpty then [] else bs.take k :: piecesN n k (bs.drop k)
def piecesOfLen (k : Nat) (bs : List Byte) : List (List Byte) := piecesN (bs.length / Nat.max 1 k + 1) k bs

/-- What a level sets (R552): chain length, search depth and the logarithm of the Zstandard window. -/
def levelChain (l : Nat) : Nat := [1, 1, 2, 4, 8, 16, 32, 64, 128, 256, 512, 1024, 4096].getD l 1
def levelDepth (l : Nat) : Nat := [0, 0, 0, 1, 1, 1, 2, 2, 2, 2, 3, 3, 3].getD l 0
def levelWindow (l : Nat) : Nat := [18, 18, 19, 20, 20, 21, 21, 22, 22, 23, 23, 23, 23].getD l 18

/-- The last n bytes of a list: the window that matches may reach back into. -/
def lastBytes (n : Nat) (bs : List Byte) : List Byte := bs.drop (bs.length - n)

/-- A stream being made: its bits, low bit of a byte first, the input coded so far, whether a block has been stored raw, and the whole bytes that stood at the
end of each block. -/
structure Coded where
  bits : List Bool := []
  before : List Byte := []
  raw : Bool := false
  ends : List Nat := []
deriving DecidableEq, Repr

def byteBits (b : Byte) : List Bool := (List.range 8).map (fun k => b.getLsbD k)
def bytesBits (bs : List Byte) : List Bool := bs.flatMap byteBits
/-- The bytes that hold bits, the last filled with 0; n bounds them. -/
def packN : Nat → List Bool → List Byte
  | 0, _ => []
  | n + 1, bs => if bs.isEmpty then [] else BitVec.ofNat 8 ((bs.take 8).zipIdx.foldl (fun x p => x + (if p.1 then 2 ^ p.2 else 0)) 0) :: packN n (bs.drop 8)
def packBits (bs : List Bool) : List Byte := packN (bs.length / 8 + 1) bs

/-- A block done: it has been coded as the bits e. -/
def Coded.put (c : Coded) (b : List Byte) (e : List Bool) (raw : Bool) : Coded :=
  { bits := c.bits ++ e, before := c.before ++ b, raw := c.raw || raw, ends := c.ends ++ [(c.bits.length + e.length) / 8] }

/-! ## DEFLATE (R550, R553) -/

/-- One stored block at bit position o of at most 65,535 bytes: its header, filled to a byte, its length, the complement and its bytes. -/
def storedOne (o : Nat) (last : Bool) (b : List Byte) : List Bool :=
  let h := [last, false, false]
  h ++ List.replicate ((8 - (o + 3) % 8) % 8) false ++ bytesBits (leBytes 2 b.length ++ leBytes 2 (65535 - b.length) ++ b)
/-- A block stored raw: stored blocks of at most 65,535 bytes each. -/
def storedAll (last : Bool) : Nat → List (List Byte) → List Bool
  | _, [] => []
  | o, [b] => storedOne o last b
  | o, b :: bs => let e := storedOne o false b; e ++ storedAll last (o + e.length) bs

/-- One block of R552 in DEFLATE: its coded form, or stored raw where that would not be smaller (R553). -/
def deflateStep (level : Nat) (c : Coded) (b : List Byte × Bool) : Coded :=
  let e := b.2 :: Config.deflateBlock (levelChain level) (levelDepth level) (lastBytes 32768 c.before) b.1
  if e.length < 8 * b.1.length then c.put b.1 e false else c.put b.1 (storedAll b.2 c.bits.length (piecesOfLen 65535 b.1)) true

/-- The blocks of an input, each with whether it is the last; whole: the input has been read to its end. -/
def blocksOf (blk : Nat) (whole : Bool) (src : List Byte) : List (List Byte × Bool) :=
  let bs := piecesOfLen (2 ^ blk) src
  let ok := if whole then bs else bs.filter (fun b => decide (b.length = 2 ^ blk))
  ok.zipIdx.map (fun p => (p.1, whole && decide (p.2 + 1 = bs.length)))

/-! ## Zstandard (R550, R553) -/

/-- The header of a block: last, type (0 raw, 1 RLE, 2 compressed) and size. -/
def zstdBlockHead (last : Bool) (typ n : Nat) : List Byte := leBytes 3 ((if last then 1 else 0) + 2 * typ + 8 * n)

/-- One block of R552 in Zstandard: RLE when its bytes are all equal, else compressed, or raw where that would not be smaller (R553). -/
def zstdStep (level : Nat) (c : Coded) (b : List Byte × Bool) : Coded :=
  let e := Config.zstdBlock (levelChain level) (levelDepth level) (lastBytes (2 ^ levelWindow level) c.before) b.1
  if b.1.all (fun x => decide (some x = b.1.head?)) then c.put b.1 (bytesBits (zstdBlockHead b.2 1 b.1.length ++ b.1.take 1)) false
  else if e.length < b.1.length then c.put b.1 (bytesBits (zstdBlockHead b.2 2 e.length ++ e)) false
  else c.put b.1 (bytesBits (zstdBlockHead b.2 0 b.1.length ++ b.1)) true

/-- The frame header: the content size in the smallest field that holds it (DESIGN CHOICE: R550 does not say which; log entry 162), Single_Segment when n is at most
the window, else the window; no dictionary. -/
def zstdHead (level n : Nat) (xsum : Bool) : List Byte :=
  let single := decide (n ≤ 2 ^ levelWindow level)
  let flag := if n < 256 ∧ single then 0 else if 256 ≤ n ∧ n < 65792 then 1 else 2
  let fcs := match flag with | 0 => leBytes 1 n | 1 => leBytes 2 (n - 256) | _ => leBytes 4 n
  [0x28, 0xB5, 0x2F, 0xFD, BitVec.ofNat 8 (64 * flag + (if single then 32 else 0) + (if xsum then 4 else 0))]
  ++ (if single then [] else [BitVec.ofNat 8 (8 * (levelWindow level - 10))]) ++ fcs

/-! ## Compression (R550 to R555) -/

/-- The header of a stream of n input bytes. -/
def streamHead (fmt level n : Nat) (xsum : Bool) : List Byte :=
  match fmt with
  | 0 => []
  | 1 =>
    let flg := 64 * (Config.zlibLevel level % 4)
    [0x78, BitVec.ofNat 8 (flg + (31 - (0x7800 + flg) % 31) % 31)]
  | 2 => [0x1F, 0x8B, 0x08, 0, 0, 0, 0, 0, if 10 ≤ level then 2 else 0, 0xFF]
  | _ => zstdHead level n xsum

/-- Its end. -/
def streamTail (fmt : Nat) (xsum : Bool) (src : List Byte) : List Byte :=
  match fmt with
  | 0 => []
  | 1 => (leBytes 4 (adler32 src).toNat).reverse
  | 2 => leBytes 4 (crc32 src).toNat ++ leBytes 4 src.length
  | _ => if xsum then leBytes 4 ((xxh64 src).toNat % 2 ^ 32) else []

/-- The blocks of src coded: n is SRCLEN, of which src is what has been read; whole when it is all. -/
def codeBlocks (fmt level blk : Nat) (whole : Bool) (src : List Byte) : Coded :=
  (blocksOf blk whole src).foldl (if fmt = 3 then zstdStep level else deflateStep level) {}

/-- The stream that a compression job has made of what it has read, whether a block is stored raw, and how many bytes of the stream stood at the end of
each block. -/
def compressed (fmt level blk n : Nat) (xsum whole : Bool) (src : List Byte) : List Byte × Bool × List Nat :=
  let c := codeBlocks fmt level blk whole src
  let h := streamHead fmt level n xsum
  (h ++ packBits c.bits ++ (if whole then streamTail fmt xsum src else []), c.raw, c.ends.map (h.length + ·))

/-! ## Decompression (R550, R551, R557) -/

/-! ### DEFLATE (RFC 1951; log entry 162) -/

/-- The number in the next n bits, low bit first. -/
def takeBits : Nat → List Bool → Option (Nat × List Bool)
  | 0, bs => some (0, bs)
  | _ + 1, [] => none
  | n + 1, b :: r => (takeBits n r).map (fun x => ((if b then 1 else 0) + 2 * x.1, x.2))

/-- The next symbol of a canonical code whose lengths by symbol are lens: n lengths from len on are left, code is what has been read, first the first code of this
length. -/
def huffN (lens : List Nat) : Nat → Nat → Nat → Nat → List Bool → Option (Nat × List Bool)
  | 0, _, _, _, _ => none
  | _ + 1, _, _, _, [] => none
  | n + 1, len, code, first, b :: r =>
    let c := code + (if b then 1 else 0)
    let syms := (List.range lens.length).filter (fun k => decide (lens.getD k 0 = len))
    if c < first + syms.length then some (syms.getD (c - first) 0, r) else huffN lens n (len + 1) (2 * c) (2 * (first + syms.length)) r
def huff (lens : List Nat) (bs : List Bool) : Option (Nat × List Bool) := huffN lens 15 1 0 0 bs

/-- More codes than their lengths leave room for. -/
def overfull (lens : List Nat) : Bool := decide (2 ^ 15 < (lens.map (fun l => if l = 0 then 0 else 2 ^ (15 - l))).foldl (· + ·) 0)

/-- n bytes from distance d back, which may reach into those being copied. -/
def copyBack (d : Nat) : Nat → List Byte → List Byte
  | 0, out => out
  | n + 1, out => copyBack d n (out ++ [out.getD (out.length - d) 0])

def lenBase : List Nat := [3, 4, 5, 6, 7, 8, 9, 10, 11, 13, 15, 17, 19, 23, 27, 31, 35, 43, 51, 59, 67, 83, 99, 115, 131, 163, 195, 227, 258]
def lenExtra : List Nat := [0, 0, 0, 0, 0, 0, 0, 0, 1, 1, 1, 1, 2, 2, 2, 2, 3, 3, 3, 3, 4, 4, 4, 4, 5, 5, 5, 5, 0]
def distBase (k : Nat) : Nat := if k < 4 then k + 1 else (2 + k % 2) * 2 ^ (k / 2 - 1) + 1
def distExtra (k : Nat) : Nat := k / 2 - 1

/-- The symbols of a block up to its end: the output, the bits left and whether it is well formed; the first number bounds them. -/
def lzN (lit dist : List Nat) : Nat → List Bool → List Byte → List Byte × List Bool × Bool
  | 0, bs, out => (out, bs, false)
  | n + 1, bs, out =>
    match huff lit bs with
    | none => (out, bs, false)
    | some (y, r) =>
      if y < 256 then lzN lit dist n r (out ++ [BitVec.ofNat 8 y])
      else if y = 256 then (out, r, true)
      else if 285 < y then (out, r, false)
      else
        match takeBits (lenExtra.getD (y - 257) 0) r with
        | none => (out, r, false)
        | some (x, r1) =>
          match huff dist r1 with
          | none => (out, r1, false)
          | some (k, r2) =>
            match takeBits (distExtra k) r2 with
            | none => (out, r2, false)
            | some (z, r3) =>
              let d := distBase k + z
              if 29 < k || decide (out.length < d) then (out, r3, false) else lzN lit dist n r3 (copyBack d (lenBase.getD (y - 257) 0 + x) out)

/-- The code lengths that a dynamic block gives, n in all: 16 repeats the last one, 17 and 18 give zeros; the first number bounds them. -/
def codeLens (cl : List Nat) (n : Nat) : Nat → List Bool → List Nat → Option (List Nat × List Bool)
  | 0, _, _ => none
  | f + 1, bs, ls =>
    if n < ls.length then none
    else if ls.length = n then some (ls, bs)
    else
      match huff cl bs with
      | none => none
      | some (y, r) =>
        if y < 16 then codeLens cl n f r (ls ++ [y])
        else
          match takeBits (if y = 16 then 2 else if y = 17 then 3 else 7) r with
          | none => none
          | some (x, r1) => if y = 16 && ls.isEmpty then none else codeLens cl n f r1 (ls ++ List.replicate ((if y = 18 then 11 else 3) + x) (if y = 16 then ls.getLastD 0 else 0))

def clOrder : List Nat := [16, 17, 18, 0, 8, 7, 9, 6, 10, 5, 11, 4, 12, 3, 13, 2, 14, 1, 15]

/-- The two codes of a dynamic block. -/
def dynCodes (bs : List Bool) : Option ((List Nat × List Nat) × List Bool) :=
  match takeBits 14 bs with
  | none => none
  | some (h, r) =>
    let hlit := 257 + h % 32
    let hdist := 1 + h / 32 % 32
    let nc := 4 + h / 1024
    match takeBits (3 * nc) r with
    | none => none
    | some (v, r1) =>
      let cl := (List.range 19).map (fun y => let k := clOrder.idxOf y; if k < nc then v / 8 ^ k % 8 else 0)
      if overfull cl || decide (286 < hlit) then none
      else
        match codeLens cl (hlit + hdist) (hlit + hdist + 1) r1 [] with
        | none => none
        | some (ls, r2) => if overfull (ls.take hlit) || overfull (ls.drop hlit) || decide (ls.getD 256 0 = 0) then none else some ((ls.take hlit, ls.drop hlit), r2)

def fixedLit : List Nat := List.replicate 144 8 ++ List.replicate 112 9 ++ List.replicate 24 7 ++ List.replicate 8 8

/-- The blocks of a stream of total bits: the output, the bits left, whether it is whole and well formed, and the output at the end of each block; the first
number bounds them. -/
def deflateBlocks (total : Nat) : Nat → List Bool → List Byte → List Nat → List Byte × List Bool × Bool × List Nat
  | 0, bs, out, ends => (out, bs, false, ends)
  | n + 1, bs, out, ends =>
    match takeBits 3 bs with
    | none => (out, [], false, ends)
    | some (h, r) =>
      let done : List Byte × List Bool × Bool :=
        match h / 2 with
        | 0 =>
          let q := r.drop ((8 - (total - r.length) % 8) % 8)
          (match takeBits 32 q with
          | none => (out, [], false)
          | some (v, q1) =>
            let len := v % 65536
            if v / 65536 ≠ 65535 - len then (out, q1, false)
            else (out ++ packBits (q1.take (8 * len)), q1.drop (8 * len), decide (8 * len ≤ q1.length)))
        | 1 => lzN fixedLit (List.replicate 30 5) r.length r out
        | 2 => (match dynCodes r with | some (c, q) => lzN c.1 c.2 q.length q out | none => (out, r, false))
        | _ => (out, r, false)
      if !done.2.2 then (done.1, done.2.1, false, ends)
      else if h % 2 = 1 then (done.1, done.2.1, true, ends ++ [done.1.length])
      else deflateBlocks total n done.2.1 done.1 (ends ++ [done.1.length])

/-- What the stream at the start of an input decodes to: the output, the bytes that it takes, whether it is whole and well formed, and the output at the end of
each of its blocks (R550, R551, R577). -/
def inflate (src : List Byte) : List Byte × Nat × Bool × List Nat :=
  let bits := bytesBits src
  let r := deflateBlocks bits.length (bits.length + 1) bits [] []
  (r.1, (bits.length - r.2.1.length + 7) / 8, r.2.2)

/-- What a decompressor makes of its input: the output, the input bytes used, how it ends: 0 whole, 1 malformed, 2 a checksum or a size differs, 3 an
option that R551 excludes; and how much output stood at the end of each input block (R577). -/
structure Decoded where
  out : List Byte := []
  used : Nat := 0
  code : Nat := 0
  ends : List Nat := []
deriving DecidableEq, Repr

/-- A stream or member of DEFLATE with n bytes of header, whose trailer of k bytes must be t of the output. -/
def inflated (n k : Nat) (t : List Byte → List Byte) (src : List Byte) : Decoded :=
  let r := inflate (src.drop n)
  let e := n + r.2.1
  if !r.2.2.1 || decide (src.length < e + k) then { out := r.1, used := Nat.min src.length e, code := 1, ends := r.2.2.2 }
  else { out := r.1, used := e + k, code := if (src.drop e).take k = t r.1 then 0 else 2, ends := r.2.2.2 }

/-- A whole stream: nothing may follow it (R551). -/
def Decoded.alone (r : Decoded) (n : Nat) : Decoded := if r.code = 0 && decide (r.used < n) then { r with code := 1 } else r

def zlibDecoded (src : List Byte) : Decoded :=
  let cmf := leAt src 0 1
  let flg := leAt src 1 1
  if src.length < 2 || decide (cmf % 16 ≠ 8) || decide (7 < cmf / 16) || decide ((256 * cmf + flg) % 31 ≠ 0) then { used := Nat.min 2 src.length, code := 1 }
  else if bit flg 5 then { used := 2, code := 3 }
  else (inflated 2 4 (fun o => (leBytes 4 (adler32 o).toNat).reverse) src).alone src.length

/-- The length of a field that ends with a zero byte, from offset o on; none when no such byte follows. -/
def zeroEnded (src : List Byte) (o : Nat) : Option Nat := ((src.drop o).findIdx? (· == 0)).map (fun k => o + k + 1)

/-- The offset after the optional fields of a gzip header, FHCRC not among them. -/
def gzipFields (src : List Byte) : Option Nat :=
  let flg := leAt src 3 1
  let o1 := if bit flg 2 then 12 + leAt src 10 2 else 10
  match (if bit flg 3 then zeroEnded src o1 else some o1) with
  | some o2 => if bit flg 4 then zeroEnded src o2 else some o2
  | none => none

/-- One member of gzip. -/
def gzipMember (src : List Byte) : Decoded :=
  let flg := leAt src 3 1
  if src.length < 10 || decide (src.take 3 ≠ [0x1F, 0x8B, 0x08]) then { used := Nat.min 10 src.length, code := 1 }
  else if 32 ≤ flg then { used := 10, code := 3 }
  else
    match gzipFields src with
    | none => { used := src.length, code := 1 }
    | some o =>
      let h := if bit flg 1 then o + 2 else o
      if src.length < h then { used := src.length, code := 1 }
      else if bit flg 1 && decide (leAt src o 2 ≠ (crc32 (src.take o)).toNat % 65536) then { used := h, code := 2 }
      else inflated h 8 (fun d => leBytes 4 (crc32 d).toNat ++ leBytes 4 d.length) src

/-- The blocks of a Zstandard frame from offset o on: cap is the largest block, prev the compressed blocks before, whose tables a block may use again; n bounds
them. -/
def zstdBlocks (src : List Byte) (cap : Nat) : Nat → Nat → List (List Byte) → List Byte → List Nat → Decoded
  | 0, o, _, out, ends => { out := out, used := o, code := 1, ends := ends }
  | n + 1, o, prev, out, ends =>
    let h := leAt src o 3
    let size := h / 8
    let typ := h / 2 % 4
    let len := if typ = 1 then 1 else size
    if src.length < o + 3 || decide (src.length < o + 3 + len) || decide (typ = 3) || decide (cap < size) then { out := out, used := Nat.min src.length (o + 3), code := 1, ends := ends }
    else
      let body := (src.drop (o + 3)).take len
      let r : Option (List Byte) := if typ = 0 then some body else if typ = 1 then some (List.replicate size (body.headD 0)) else Config.zstdDecode prev out body
      match r with
      | none => { out := out, used := o + 3 + len, code := 1, ends := ends }
      | some bs =>
        let ends1 := ends ++ [out.length + bs.length]
        if cap < bs.length then { out := out, used := o + 3 + len, code := 1, ends := ends }
        else if bit h 0 then { out := out ++ bs, used := o + 3 + len, ends := ends1 }
        else zstdBlocks src cap n (o + 3 + len) (if typ = 2 then prev ++ [body] else prev) (out ++ bs) ends1

/-- One frame of Zstandard, or one that is skipped. -/
def zstdFrame (src : List Byte) : Decoded :=
  let magic := leAt src 0 4
  let d := leAt src 4 1
  let single := bit d 5
  let dictLen := [0, 1, 2, 4].getD (d % 4) 0
  let wl := if single then 0 else 1
  let fcsLen := match d / 64 with | 0 => (if single then 1 else 0) | 1 => 2 | 2 => 4 | _ => 8
  let h := 5 + wl + dictLen + fcsLen
  let fcs := leAt src (5 + wl + dictLen) fcsLen + (if d / 64 = 1 then 256 else 0)
  let wd := leAt src 5 1
  let window := if single then fcs else 2 ^ (10 + wd / 8) + 2 ^ (10 + wd / 8) / 8 * (wd % 8)
  if src.length < 4 then { used := src.length, code := 1 }
  else if magic / 16 = 0x184D2A5 then
    (if src.length < 8 || decide (src.length < 8 + leAt src 4 4) then { used := src.length, code := 1 } else { used := 8 + leAt src 4 4 })
  else if magic ≠ 0xFD2FB528 then { used := 4, code := 1 }
  else if src.length < h then { used := src.length, code := 1 }
  else if bit d 3 || decide (leAt src (5 + wl) dictLen ≠ 0) || decide (2 ^ 23 < window) then { used := h, code := 3 }
  else
    let r := zstdBlocks src (Nat.min window 131072) (src.length + 1) h [] [] []
    if r.code ≠ 0 then r
    else if fcsLen ≠ 0 && decide (r.out.length ≠ fcs) then { r with code := 1 }
    else if !bit d 2 then r
    else if src.length < r.used + 4 then { r with used := src.length, code := 1 }
    else { r with used := r.used + 4, code := if leAt src r.used 4 = (xxh64 r.out).toNat % 2 ^ 32 then 0 else 2 }

/-- The members or frames of a stream, one after another to the end of the input; n bounds them. -/
def members (one : List Byte → Decoded) : Nat → List Byte → Decoded
  | 0, _ => { code := 1 }
  | n + 1, src =>
    let r := one src
    if r.code ≠ 0 || decide (src.length ≤ r.used) then r
    else
      let t := members one n (src.drop r.used)
      { out := r.out ++ t.out, used := r.used + t.used, code := t.code, ends := r.ends ++ t.ends.map (r.out.length + ·) }

/-- The decompression of a whole input (R550, R551). -/
def decoded (fmt : Nat) (src : List Byte) : Decoded :=
  match fmt with
  | 0 => (inflated 0 0 (fun _ => []) src).alone src.length
  | 1 => zlibDecoded src
  | 2 => members gzipMember src.length src
  | _ => members zstdFrame src.length src

end Sys2Proof.Machine
end

