-- ==== Sys2Proof/Machine/Engines.lean ====
section
/-! DEFINITION. Compression and crypto engines (11): taking a job, what it computes, its end, faults and squash. The algorithms of the
standards that the chapter names are functions of Config (log entry 7). -/

namespace Sys2Proof.Machine

open Host

/-! ## Descriptor fields (R559, R560) -/

def eSrc (d : List Byte) : Nat := dF d 0 8
def eDst (d : List Byte) : Nat := dF d 8 8
def eSrcLen (d : List Byte) : Nat := dF d 0x10 4
def eDstLen (d : List Byte) : Nat := dF d 0x14 4
/-- SLOT, SLOT2, ALG, FLAGS and USAGE, by the layout of the opcode. -/
def eSlot (d : List Byte) : Nat := if usesCe (dOpc d) then dF d 0x1E 2 else dF d 0x18 2
def eSlot2 (d : List Byte) : Nat := dF d 0x1A 2
def eAlg (d : List Byte) : Nat := dF d 0x1C 1
def eFlags (d : List Byte) : Nat := if usesCe (dOpc d) then dF d 0x1A 1 else dF d 0x1D 1
def eUsage (d : List Byte) : Nat := dF d 0x1E 2
def eParam (d : List Byte) : Nat := dF d 0x20 8
def eCmp (d : List Byte) : Bool := bit (eFlags d) 2
def eWrapped (d : List Byte) : Bool := bit (eFlags d) 3

/-- The opcode fills SLOT2. -/
def fillsSlot2 (o : Nat) : Bool := decide (0x38 ≤ o) && decide (o ≤ 0x3B)
/-- The opcode names SLOT (R566). -/
def namesSlot (d : List Byte) : Bool :=
  let o := dOpc d
  decide (o ∈ [0x22, 0x23, 0x30, 0x31, 0x32, 0x33, 0x35, 0x36, 0x37, 0x38, 0x39, 0x3C]) || (decide (o = 0x3B) && eWrapped d)

/-- The slots that a job names, and those that it fills or clears (R569). -/
def eNames (d : List Byte) : List Nat := (if namesSlot d then [eSlot d] else []) ++ (if fillsSlot2 (dOpc d) then [eSlot2 d] else [])
def eChanges (d : List Byte) : List Nat := (if dOpc d = 0x3C then [eSlot d] else []) ++ (if fillsSlot2 (dOpc d) then [eSlot2 d] else [])

/-- The material of a key type in bytes; none for the HMAC key, which has 1 to 128 (R563). -/
def matLen (a : Nat) : Option Nat :=
  match a with
  | 0x01 => some 16 | 0x02 => some 32 | 0x03 => some 32 | 0x04 => some 64
  | 0x20 => some 32 | 0x21 => some 48 | 0x28 => some 65 | 0x29 => some 97
  | 0x30 => some 2400 | 0x31 => some 3168 | 0x38 => some 1184 | 0x39 => some 1568
  | 0x40 => some 4032 | 0x41 => some 4896 | 0x48 => some 1952 | 0x49 => some 2592
  | _ => none
def keyTypes : List Nat := [0x01, 0x02, 0x03, 0x04, 0x08, 0x20, 0x21, 0x28, 0x29, 0x30, 0x31, 0x38, 0x39, 0x40, 0x41, 0x48, 0x49]
def publicTypes : List Nat := [0x28, 0x29, 0x38, 0x39, 0x48, 0x49]

/-- The public key of a private type, in bytes; 0 for a secret key. -/
def pubLen (a : Nat) : Nat :=
  match a with
  | 0x20 => 65 | 0x21 => 97 | 0x30 => 1184 | 0x31 => 1568 | 0x40 => 1952 | 0x41 => 2592 | _ => 0

/-- The usages that a type allows, as USAGE bits (R563, R564). -/
def usagesOf (a : Nat) : Nat :=
  if a = 0x01 ∨ a = 0x02 then 1 + 2 + 32 else if a = 0x03 ∨ a = 0x04 then 1 + 2 else if a = 0x08 then 16
  else if a ∈ [0x20, 0x21, 0x40, 0x41] then 4 else if a ∈ [0x28, 0x29, 0x48, 0x49] then 8 else if a ∈ [0x30, 0x31, 0x38, 0x39] then 64 else 0

def digestLen (a : Nat) : Nat := match a with | 0x10 => 32 | 0x11 => 48 | 0x12 => 64 | 0x13 => 32 | _ => 64
def sigLen (a : Nat) : Nat := match a with | 0x20 => 64 | 0x28 => 64 | 0x21 => 96 | 0x29 => 96 | 0x40 => 3309 | 0x48 => 3309 | _ => 4627
def ctLen (a : Nat) : Nat := if a = 0x30 ∨ a = 0x38 then 1088 else 1568

/-- The algorithms that an opcode takes. -/
def algOk (o a : Nat) : Bool :=
  match o with
  | 0x30 | 0x31 => decide (a ∈ [0x01, 0x02])
  | 0x32 | 0x33 => decide (a ∈ [0x03, 0x04])
  | 0x34 | 0x35 => decide (0x10 ≤ a) && decide (a ≤ 0x14)
  | 0x36 => decide (a ∈ [0x20, 0x21, 0x40, 0x41])
  | 0x37 => decide (a ∈ [0x28, 0x29, 0x48, 0x49])
  | 0x38 => decide (a ∈ [0x38, 0x39])
  | 0x39 => decide (a ∈ [0x30, 0x31])
  | 0x3A => decide (a ∈ keyTypes) && !decide (a ∈ publicTypes)
  | 0x3B => decide (a ∈ keyTypes)
  | _ => true

/-- A parameter block is needed (R561). -/
def needsParam (d : List Byte) : Bool :=
  let o := dOpc d
  decide (o ∈ [0x22, 0x23, 0x30, 0x31, 0x32, 0x33, 0x37, 0x39]) || ((o = 0x34 || o = 0x35) && eCmp d) || (o = 0x36 && decide (eAlg d ∈ [0x40, 0x41]))

/-- The descriptor keeps R559 or R560 and the lengths of R566 that it shows itself. -/
def engOk (d : List Byte) : Bool :=
  let o := dOpc d
  let p := eParam d
  zeroAt d (16 + 0x28) 8 && (if needsParam d then decide (p % 64 = 0) else decide (p = 0)) &&
  (if usesCe o then
    let comp := o = 0x20 || o = 0x22
    decide (1 ≤ eSrcLen d) && decide (1 ≤ eDstLen d) && decide (dF d 0x18 1 ≤ 3) && decide (eFlags d < 8)
    && (if comp then decide (1 ≤ dF d 0x19 1) && decide (dF d 0x19 1 ≤ 12) && decide (14 ≤ dF d 0x1B 1) && decide (dF d 0x1B 1 ≤ 17) && decide (dF d 0x1C 2 = 0)
        else decide (dF d 0x19 1 = 0) && decide (dF d 0x1B 1 = 0))
    && (usesKe o || decide (eSlot d = 0))
  else
    decide (eFlags d < 16) && algOk o (eAlg d) && decide (eUsage d < 128) && (fillsSlot2 o || (decide (eSlot2 d = 0) && decide (eUsage d = 0)))
    && (namesSlot d || decide (eSlot d = 0))
    && (match o with
      | 0x30 | 0x31 => decide (eDstLen d = eSrcLen d)
      | 0x38 | 0x39 | 0x3A | 0x3C => decide (eSrcLen d = 0)
      | 0x3B =>
        (match matLen (eAlg d) with
        | some n => if eWrapped d then decide (n % 8 = 0) && decide (eSrcLen d = n + 8) else decide (eSrcLen d = n)
        | none => if eWrapped d then decide (eSrcLen d % 8 = 0) && decide (16 ≤ eSrcLen d) && decide (eSrcLen d ≤ 136) else decide (1 ≤ eSrcLen d) && decide (eSrcLen d ≤ 128))
      | _ => true))

/-! ## Key slots (R563 to R570) -/

/-- The instance that holds a key slot. -/
def State.slotOwner (s : State) (k : Nat) : Nat :=
  match s.inst.insts.find? (fun e => e.2.plan.ksFirst ≤ k && decide (k < e.2.plan.ksFirst + e.2.plan.nks)) with
  | some e => e.1
  | none => 0

/-- The usage that an opcode needs of the key in SLOT, and the types it takes. -/
def needUsage (o : Nat) : Nat :=
  match o with
  | 0x22 | 0x30 | 0x32 => 0 | 0x23 | 0x31 | 0x33 => 1 | 0x36 => 2 | 0x37 => 3 | 0x35 => 4 | 0x3B => 5 | _ => 6
def keyTypeOk (d : List Byte) (t : Nat) : Bool :=
  match dOpc d with
  | 0x22 | 0x23 | 0x3B => decide (t ∈ [0x01, 0x02])
  | 0x35 => decide (t = 0x08)
  | 0x3C => true
  | _ => decide (t = eAlg d)

/-- The key checks of a job of instance i: the status of the first that fails, or none (R564, R570). -/
def State.keyCheck (s : State) (i : Nat) (d : List Byte) : Option Nat :=
  let o := dOpc d
  let k := s.key (eSlot d)
  if (eNames d).any (fun x => decide (32768 ≤ x) || decide (s.slotOwner x ≠ i)) then some scKeyOwner
  else if namesSlot d && k.isNone then some scKeyEmpty
  else if namesSlot d && decide (o ≠ 0x3C) && (match k with | some y => !keyTypeOk d y.typ || !bit y.usage (needUsage o) | none => true) then some scKeyUsage
  else if fillsSlot2 o && ((s.key (eSlot2 d)).isSome || decide (eUsage d &&& usagesOf (if o = 0x38 ∨ o = 0x39 then 0x02 else eAlg d) ≠ eUsage d)) then some scKeyUsage
  else none

/-! ## The parameter block (R561) and the ranges of a job (R562) -/

def paramOf (b : List Byte) : Param :=
  { iv := b.take 16, aad := leAt b 0x10 8, aadLen := leAt b 0x18 4, tagLen := leAt b 0x1C 1, dusLog := leAt b 0x1D 1, aux := leAt b 0x20 8, auxLen := leAt b 0x28 4 }

def isGcm (o : Nat) : Bool := decide (o ∈ [0x22, 0x23, 0x30, 0x31])
def isXts (o : Nat) : Bool := decide (o = 0x32) || decide (o = 0x33)
def isDsa (d : List Byte) : Bool := (dOpc d = 0x36 || dOpc d = 0x37) && decide (eAlg d ∈ [0x40, 0x41, 0x48, 0x49])

/-- The block keeps R561, and its lengths R566. -/
def paramOk (d b : List Byte) : Bool :=
  let o := dOpc d
  let p := paramOf b
  zeroAt b 0x1E 2 && zeroAt b 0x2C 20
  && (if isGcm o then zeroAt b 0x0C 4 && decide (12 ≤ p.tagLen) && decide (p.tagLen ≤ 16) && decide (p.auxLen = p.tagLen) else decide (p.tagLen = 0))
  && (if isXts o then decide (9 ≤ p.dusLog) && decide (p.dusLog ≤ 16) && decide (eSrcLen d % 2 ^ p.dusLog = 0) else decide (p.dusLog = 0))
  && (!isDsa d || decide (p.aadLen ≤ 255))
  && (if o = 0x34 ∨ o = 0x35 then decide (p.auxLen = digestLen (eAlg d)) else if o = 0x37 then decide (p.auxLen = sigLen (eAlg d))
      else if o = 0x39 then decide (p.auxLen = ctLen (eAlg d)) else true)

/-- AUX is an output: the tag of an encryption. -/
def auxOut (o : Nat) : Bool := o = 0x22 || o = 0x30
def auxIn (d : List Byte) : Bool := decide (dOpc d ∈ [0x23, 0x31, 0x37, 0x39]) || ((dOpc d = 0x34 || dOpc d = 0x35) && eCmp d)
def hasAad (d : List Byte) : Bool := isGcm (dOpc d) || isDsa d
/-- DST is written. -/
def hasDst (d : List Byte) : Bool := !decide (dOpc d ∈ [0x37, 0x39, 0x3B, 0x3C]) && !((dOpc d = 0x34 || dOpc d = 0x35) && eCmp d)

/-- What a job reads before its data: a parameter block and its ranges, or a status. -/
inductive EngPrep where
  | ok (p : Param) (src dst : Ranges)
  | ended (status : Nat)
deriving DecidableEq, Repr

def State.prep (s : State) (i : Nat) (d : List Byte) : EngPrep :=
  let blk : AgRead := if needsParam d then s.agentRead i (eParam d) 64 else .ok (List.replicate 64 0) []
  match blk with
  | .fault _ => .ended scJobFault
  | .poison _ => .ended scMemPoison
  | .ok b _ =>
    if needsParam d && !paramOk d b then .ended scJobField
    else
      match s.ranges i (bit (eFlags d) 0) (eSrc d) (eSrcLen d), s.ranges i (bit (eFlags d) 1) (eDst d) (eDstLen d) with
      | .ok rs, .ok ws =>
        let p := paramOf b
        let ins := rs ++ (if hasAad d then [(p.aad, p.aadLen)] else []) ++ (if auxIn d then [(p.aux, p.auxLen)] else [])
        let outs := (if hasDst d then ws else []) ++ (if auxOut (dOpc d) then [(p.aux, p.auxLen)] else [])
        if ins.any (fun a => outs.any (overlaps a)) then .ended scJobField else .ok p rs ws
      | .bad, _ => .ended scJobField
      | _, .bad => .ended scJobField
      | .poison _, _ => .ended scMemPoison
      | _, .poison _ => .ended scMemPoison
      | _, _ => .ended scJobFault

/-! ## Starting jobs -/

def engCpl (j : EngJob) (status inlen outlen check eflags ceng keng : Nat) : HeldCpl :=
  { bytes := cplBytes j.tag j.qp status j.sqhead j.opc (leBytes 4 inlen ++ leBytes 4 outlen ++ leBytes 4 check ++ leBytes 1 eflags ++ leBytes 1 ceng ++ leBytes 1 keng ++ [0]), flags := j.cflags, lidx := none }

/-- Engine e, or crypto engine k, runs no job (R544). -/
def State.ceFree (s : State) (e : Nat) : Bool := !s.eng.jobs.any (fun x => x.2.live && x.2.started && decide (x.2.ce = e))
def State.keFree (s : State) (k : Nat) : Bool := !s.eng.jobs.any (fun x => x.2.live && x.2.started && decide (x.2.ke = k))

/-- Job n may start: its engines are free and no earlier job holds it back over a key slot (R544, R569). -/
def State.canStart (s : State) (n : Nat) : Bool :=
  let j := s.job n
  j.live && !j.started && (decide (j.ce = 255) || s.ceFree j.ce) && (decide (j.ke = 255) || s.keFree j.ke)
  && !s.eng.jobs.any (fun x => decide (x.1 < n) && x.2.live &&
      ((eChanges j.desc).any (eNames x.2.desc).contains || (eNames j.desc).any (eChanges x.2.desc).contains))

/-- The random bits of KENCAP and KKEYGEN come from the entropy source (R567). -/
def needsRnd (o : Nat) : Bool := o = 0x38 || o = 0x3A

/-- The unit that a job's accesses name (14 R688). -/
def EngJob.unit (j : EngJob) : Nat × Nat := if j.ce ≠ 255 then (5, j.ce) else (6, j.ke)

/-- Start job n: the key checks, then those of its parameter block and ranges (R562), of which the first that fails completes it at once, with no engine having
run it; else it binds its key and what it has read (R569, R570). In a duplex pair the random bits that it needs are agreed (R567). -/
def State.startJob (s : State) (n : Nat) : State :=
  let j := s.job n
  let refuse := fun (t : State) (st : Nat) => (t.setJob n {}).complete j.ins j.gen j.qp j.cq (engCpl j st 0 0 0 0 255 255)
  match s.keyCheck j.ins j.desc with
  | some st => refuse s st
  | none =>
    let u := j.unit
    let t := if needsParam j.desc then (s.agentGet u.1 u.2 j.ins (eParam j.desc) 64).1 else s
    let v := (t.rangesSee u.1 u.2 j.ins (bit (eFlags j.desc) 0) (eSrc j.desc)).rangesSee u.1 u.2 j.ins (bit (eFlags j.desc) 1) (eDst j.desc)
    match s.prep j.ins j.desc with
    | .ended st => refuse v st
    | .ok p src dst =>
      let s1 := v.setJob n
        { j with started := true, key := if namesSlot j.desc then s.key (eSlot j.desc) else none, par := p, src := src, dst := dst }
      if needsRnd j.opc && decide (s.dpx.st = .paired) then
        let (w, s2) := s1.draw
        { s2 with dpx := { s2.dpx with inputs := s2.dpx.inputs ++ [(s2.time.ticks, .entropy n w)] } }
      else s1

/-- Start every job that may start, in the order taken. -/
def State.startJobs (s : State) : State := s.eng.jobs.foldl (fun t e => if t.canStart e.1 then t.startJob e.1 else t) s

/-- The engines of an instance's share (12 R586): every engine for instance 0. -/
def State.inShare (s : State) (i ce ke : Nat) : Bool :=
  let p := (s.ins i).plan
  (ce = 255 || i = 0 || bit p.ceMask ce) && (ke = 255 || i = 0 || bit p.keMask ke)

/-- Take the descriptor of opcode opc at the head of qp for engines ce and ke. -/
def State.takeJob (s : State) (qp opc ce ke : Nat) : State :=
  let s := s.skipRefused qp
  match s.headIs qp opc with
  | none => s
  | some d =>
    let i := s.qpOwner qp
    if !s.inShare i ce ke || (engCharges d).any (fun c => !(s.bk i c.1).admits) then s
    else
      match s.spend i (engCharges d) with
      | none => s
      | some s1 =>
        let s2 := s1.headOn qp
        if !engOk d then s2.completeDesc qp d scJobField (refusedExtra d) false
        else
          let n := s2.eng.nextJob
          let s3 : State := { s2 with eng := { s2.eng with nextJob := n + 1 } }
          (s3.setJob n { live := true, qp := qp, sqhead := (s3.qp qp).head, cq := dCq d, cflags := dFlags d, tag := dTag d, opc := opc, ins := i, gen := (s3.ins i).gen, desc := d, ce := ce, ke := ke }).startJobs

def execCcomp (qp e : Nat) (s : State) : Out := .next (s.takeJob qp 0x20 e 255)
def execCdecomp (qp e : Nat) (s : State) : Out := .next (s.takeJob qp 0x21 e 255)
def execCzenc (qp e k : Nat) (s : State) : Out := .next (s.takeJob qp 0x22 e k)
def execCzdec (qp e k : Nat) (s : State) : Out := .next (s.takeJob qp 0x23 e k)
def execKgcmenc (qp e : Nat) (s : State) : Out := .next (s.takeJob qp 0x30 255 e)
def execKgcmdec (qp e : Nat) (s : State) : Out := .next (s.takeJob qp 0x31 255 e)
def execKxtsenc (qp e : Nat) (s : State) : Out := .next (s.takeJob qp 0x32 255 e)
def execKxtsdec (qp e : Nat) (s : State) : Out := .next (s.takeJob qp 0x33 255 e)
def execKhash (qp e : Nat) (s : State) : Out := .next (s.takeJob qp 0x34 255 e)
def execKhmac (qp e : Nat) (s : State) : Out := .next (s.takeJob qp 0x35 255 e)
def execKsign (qp e : Nat) (s : State) : Out := .next (s.takeJob qp 0x36 255 e)
def execKverify (qp e : Nat) (s : State) : Out := .next (s.takeJob qp 0x37 255 e)
def execKencap (qp e : Nat) (s : State) : Out := .next (s.takeJob qp 0x38 255 e)
def execKdecap (qp e : Nat) (s : State) : Out := .next (s.takeJob qp 0x39 255 e)
def execKkeygen (qp e : Nat) (s : State) : Out := .next (s.takeJob qp 0x3A 255 e)
def execKkeyload (qp e : Nat) (s : State) : Out := .next (s.takeJob qp 0x3B 255 e)
def execKkeyclr (qp e : Nat) (s : State) : Out := .next (s.takeJob qp 0x3C 255 e)

/-! ## What a job computes (R550 to R558, R566 to R573) -/

/-- The result of a job: its status, the bytes for DST and AUX, INLEN, CHECK, RAWSTORED, and the key for SLOT2. -/
structure EngRes where
  status : Nat
  out : List Byte := []
  aux : List Byte := []
  inlen : Nat := 0
  check : Nat := 0
  raw : Bool := false
  fill : Option Key := none
deriving DecidableEq, Repr

/-- The output bound of R554. -/
def compBound (fmt blk n : Nat) : Nat :=
  let blocks := (n + 2 ^ blk - 1) / 2 ^ blk
  let full := n / 2 ^ blk
  let rest := n % 2 ^ blk
  let stored := full * ((2 ^ blk + 65534) / 65535) + (rest + 65534) / 65535
  match fmt with
  | 0 => n + 5 * stored
  | 1 => n + 5 * stored + 6
  | 2 => n + 5 * stored + 18
  | _ => n + 3 * blocks + 18

/-- The stream of a compression job that has read src (R550 to R553), what is stored raw in it, and the bytes that stood at the end of each block. -/
def streamOf (d src : List Byte) : List Byte × Bool × List Nat :=
  compressed (dF d 0x18 1) (dF d 0x19 1) (dF d 0x1B 1) (eSrcLen d) (bit (eFlags d) 2) (decide (src.length = eSrcLen d)) src

/-- Compression (R552 to R555). -/
def compressRes (d src : List Byte) : EngRes :=
  let fmt := dF d 0x18 1
  let r := streamOf d src
  let o := r.1.take (compBound fmt (dF d 0x1B 1) src.length)
  { status := if eDstLen d < o.length then scDstFull else scOk, out := o.take (eDstLen d), inlen := src.length, check := (checkOf fmt src).toNat, raw := r.2.1 }

/-- The output limit L of R556. -/
def outLimit (d : List Byte) : Nat := Nat.min (eDstLen d) ((if dF d 0x1C 2 = 0 then 1024 else dF d 0x1C 2) * eSrcLen d)

/-- Decompression (R551, R556 to R558). -/
def decompressRes (d src : List Byte) : EngRes :=
  let fmt := dF d 0x18 1
  let r := decoded fmt src
  let l := outLimit d
  if l < r.out.length then { status := scOutputLimit, out := r.out.take l, inlen := Nat.min src.length (Config.consumedAt fmt l src), check := (checkOf fmt (r.out.take l)).toNat }
  else { status := match r.code with | 0 => scOk | 1 => scDataError | 2 => scCheckError | _ => scFmtUnsupported
         out := r.out, inlen := Nat.min src.length r.used, check := (checkOf fmt r.out).toNat }

/-- A digest, a MAC: SHA-256 as FIPS 180-4 has it, the others of R563 by Config. -/
def hashOf (alg : Nat) (bs : List Byte) : List Byte :=
  match alg with
  | 0x10 => sha256 bs
  | 0x11 => fit 48 (Config.sha384 bs)
  | _ => fit (digestLen alg) (Config.hash alg bs)
def macOf (alg : Nat) (key bs : List Byte) : List Byte := if alg = 0x10 then hmacSha256 key bs else fit (digestLen alg) (Config.hmac alg key bs)

/-- AES-XTS over the data units: unit i under tweak IV + i (R566). -/
def xtsOver (f : List Byte → Nat → List Byte → List Byte) (p : Param) (key src : List Byte) : List Byte :=
  (piecesOfLen (2 ^ p.dusLog) src).zipIdx.flatMap (fun u => fit u.1.length (f key ((ofLe p.iv + u.2) % 2 ^ 128) u.1))

/-- ECDSA signs the digest by the curve: SHA-256 for P-256, SHA-384 for P-384 (R566). -/
def curveHash (alg : Nat) (msg : List Byte) : List Byte := hashOf (if alg = 0x20 ∨ alg = 0x28 then 0x10 else 0x11) msg
def isEcdsa (alg : Nat) : Bool := decide (alg ∈ [0x20, 0x21, 0x28, 0x29])
def signOf (alg : Nat) (key ctx msg : List Byte) : List Byte :=
  fit (sigLen alg) (if isEcdsa alg then Config.ecdsaSign alg key (curveHash alg msg) else Config.mldsaSign alg key ctx msg)
def verifyOf (alg : Nat) (key ctx msg sig : List Byte) : Bool :=
  if isEcdsa alg then Config.ecdsaVerify alg key (curveHash alg msg) sig else Config.mldsaVerify alg key ctx msg sig

/-- A KE output of its own length (R575). -/
def keOut (d src out : List Byte) (fill : Option Key) : EngRes :=
  if eDstLen d < out.length then { status := scDstFull, inlen := src.length } else { status := scOk, out := out, inlen := src.length, fill := fill }

/-- A comparison with AUX. -/
def keCmp (src : List Byte) (same : Bool) : EngRes := { status := if same then scOk else scMismatch, inlen := src.length }

/-- Decryption with the tag check (R573). -/
def gcmOpen (p : Param) (key : List Byte) (aad aux src : List Byte) : List Byte × Bool :=
  let r := Config.gcmDec key (p.iv.take 12) aad src
  (fit src.length r.1, decide (r.2.take p.tagLen = aux))

/-- The result on inputs that could be read whole; rnd: the entropy source (R567). -/
def engRes (d : List Byte) (p : Param) (key : List Byte) (src aad aux : List Byte) (rnd : Word) : EngRes :=
  let a := eAlg d
  match dOpc d with
  | 0x20 => compressRes d src
  | 0x21 => decompressRes d src
  | 0x22 =>
    let c := compressRes d src
    let e := Config.gcmEnc key (p.iv.take 12) aad c.out
    { c with out := fit c.out.length e.1, aux := if c.status = scOk then fit p.tagLen e.2 else [] }
  | 0x23 =>
    let g := gcmOpen p key aad aux src
    let r := decompressRes d g.1
    if g.2 then r else { r with status := scAuthFail, inlen := src.length }
  | 0x30 => let e := Config.gcmEnc key (p.iv.take 12) aad src; { status := scOk, out := fit src.length e.1, aux := fit p.tagLen e.2, inlen := src.length }
  | 0x31 => let g := gcmOpen p key aad aux src; { status := if g.2 then scOk else scAuthFail, out := g.1, inlen := src.length }
  | 0x32 => keOut d src (xtsOver Config.xtsEnc p key src) none
  | 0x33 => keOut d src (xtsOver Config.xtsDec p key src) none
  | 0x34 => if eCmp d then keCmp src (decide (hashOf a src = aux)) else keOut d src (hashOf a src) none
  | 0x35 => if eCmp d then keCmp src (decide (macOf a key src = aux)) else keOut d src (macOf a key src) none
  | 0x36 => keOut d src (signOf a key aad src) none
  | 0x37 => keCmp src (verifyOf a key aad src aux)
  | 0x38 => let r := Config.encap a key rnd; keOut d src (fit (ctLen a) r.1) (some { typ := 0x02, usage := eUsage d, mat := fit 32 r.2 })
  | 0x39 => { status := scOk, fill := some { typ := 0x02, usage := eUsage d, mat := fit 32 (Config.decap a key aux) } }
  | 0x3A =>
    let r := Config.keygen a rnd
    let mat := match matLen a with | some n => fit n r.1 | none => fit (1 + (r.1.length + 127) % 128) r.1
    keOut d src (fit (pubLen a) r.2) (some { typ := a, usage := eUsage d, mat := mat })
  | 0x3B =>
    if eWrapped d then
      match Config.unwrap key src with
      | some m => { status := scOk, inlen := src.length, fill := some { typ := a, usage := eUsage d, mat := fit (src.length - 8) m } }
      | none => { status := [scMismatch, scDataError, scCheckError, scAuthFail, scJobField, scKeyUsage].getD (rnd.toNat % 6) scAuthFail, inlen := src.length }
    else { status := scOk, inlen := src.length, fill := some { typ := a, usage := eUsage d, mat := src } }
  | _ => { status := scOk }

/-! ## The end of a job -/

/-- The opcode's output is overwritten with 0 unless it ends with OK (R573), and it writes output as it goes (R577). -/
def zeroes (o : Nat) : Bool := o = 0x31 || o = 0x23
def streams (o : Nat) : Bool := decide (o ∈ [0x20, 0x21, 0x22, 0x23, 0x30, 0x31, 0x32, 0x33])

/-- The inputs of a job, read whole; else the status, with how the read ended. -/
def State.engInputs (s : State) (j : EngJob) : State × (Option (List Byte × List Byte × List Byte)) × Nat :=
  let d := j.desc
  let u := j.unit
  let p := j.par
  match s.readRanges u.1 u.2 j.ins j.src with
  | (s1, .fault _) => (s1, none, scJobFault)
  | (s1, .poison _) => (s1, none, scMemPoison)
  | (s1, .ok bs _) =>
    match s1.readRanges u.1 u.2 j.ins (if hasAad d then [(p.aad, p.aadLen)] else []) with
    | (s2, .fault _) => (s2, none, scJobFault)
    | (s2, .poison _) => (s2, none, scMemPoison)
    | (s2, .ok aad _) =>
      match s2.readRanges u.1 u.2 j.ins (if auxIn d then [(p.aux, p.auxLen)] else []) with
      | (s3, .fault _) => (s3, none, scJobFault)
      | (s3, .poison _) => (s3, none, scMemPoison)
      | (s3, .ok aux _) => (s3, some (bs, aad, aux), scOk)

/-- The bytes that an agent of instance i can read from IPA a on, n at most, up to the first that it cannot; the first number bounds them. -/
def State.readUpTo (s : State) (i : Nat) : Nat → Nat → Nat → List Byte
  | 0, _, _ => []
  | f + 1, a, n =>
    let k := Nat.min n (128 - a % 128)
    match s.agentRead i a k with
    | .ok bs _ => if n ≤ k then bs else bs ++ State.readUpTo s i f (a + k) (n - k)
    | _ => []
def State.readAhead (s : State) (i : Nat) : Ranges → List Byte
  | [] => []
  | (a, n) :: rs => let bs := s.readUpTo i (n / 128 + 2) a n; if bs.length < n then bs else bs ++ State.readAhead s i rs

/-- The ends of the units of 64 KiB within n bytes (R577). -/
def unitEnds (n : Nat) : List Nat := (List.range (n / 65536)).map (fun k => 65536 * (k + 1))

/-- What a job that writes as it goes makes of the input src that it could read, from its first byte on, and where its boundaries lie in it (R546, R577). -/
def soFar (j : EngJob) (aad src : List Byte) : List Byte × List Nat :=
  let d := j.desc
  let key := (j.key.map (·.mat)).getD []
  let iv := j.par.iv.take 12
  let opened := fun x : List Byte => let r := decoded (dF d 0x18 1) x; (r.out.take (outLimit d), r.ends)
  match j.opc with
  | 0x20 => let c := streamOf d src; (c.1, c.2.2)
  | 0x21 => opened src
  | 0x22 => let c := streamOf d src; (fit c.1.length (Config.gcmEnc key iv aad c.1).1, c.2.2)
  | 0x23 => opened (fit src.length (Config.gcmDec key iv aad src).1)
  | 0x30 => (fit src.length (Config.gcmEnc key iv aad src).1, unitEnds src.length)
  | 0x31 => (fit src.length (Config.gcmDec key iv aad src).1, unitEnds src.length)
  | 0x32 => (xtsOver Config.xtsEnc j.par key src, unitEnds src.length)
  | 0x33 => (xtsOver Config.xtsDec j.par key src, unitEnds src.length)
  | _ => ([], [])

/-- What a job has done when it ends early: the state, the bytes of its output that stand, CHECK and RAWSTORED. -/
structure EngPart where
  st : State
  n : Nat := 0
  check : Nat := 0
  raw : Bool := false

/-- Output that a job had written when it ended early: its output up to a boundary, or up to the byte at which DST fails; which boundary is free, and R573 leaves
zeros (log entry 50). A job of an old generation writes nothing: that write is discarded and counted (R578). What stands is how many bytes, with the check of the
uncompressed data so far, of which a compression has read got bytes, and whether a block among them is stored raw (R553, R574). -/
def State.engPartial (s : State) (j : EngJob) (got : Nat) : EngPart :=
  let src0 := s.readAhead j.ins j.src
  let fmt := dF j.desc 0x18 1
  let packs := j.opc = 0x20 || j.opc = 0x22
  let sum := fun bs : List Byte => (checkOf fmt bs).toNat
  if !streams j.opc then ⟨s, 0, 0, false⟩
  else
    let u := j.unit
    let aad := s.readAhead j.ins (if hasAad j.desc then [(j.par.aad, j.par.aadLen)] else [])
    let r := soFar j aad src0
    let top := (s.room j.ins j.dst (eDstLen j.desc)).1
    let cuts := 0 :: (r.2 ++ (if top < r.1.length then [top] else [])).filter (fun c => decide (c ≤ top) && decide (c ≤ r.1.length))
    let (k, s1) := s.drawBelow cuts.length
    let n := cuts.getD k 0
    let check := if packs then sum (src0.take got) else if j.opc = 0x21 || j.opc = 0x23 then sum (r.1.take n) else 0
    let blk := dF j.desc 0x1B 1
    let raw := packs && (codeBlocks fmt (dF j.desc 0x19 1) blk false (src0.take ((r.2.filter (fun c => decide (c ≤ n))).length * 2 ^ blk))).raw
    if n = 0 then ⟨s1, 0, check, false⟩
    else if s1.oldGen j.ins j.gen then ⟨s1.countDrop j.ins, n, check, raw⟩
    else if zeroes j.opc then ⟨s1.writeRanges u.1 u.2 j.ins j.dst (List.replicate n 0), 0, check, raw⟩
    else ⟨s1.writeRanges u.1 u.2 j.ins j.dst (r.1.take n), n, check, raw⟩

/-- The completion of job n, which ends (R574). -/
def State.engEnd (s : State) (n : Nat) (j : EngJob) (status inlen outlen check : Nat) (raw : Bool) : State :=
  ((s.setJob n {}).complete j.ins j.gen j.qp j.cq (engCpl j status inlen outlen check (b2n raw + 2 * b2n j.restarted) j.ce j.ke)).startJobs

/-- A job ends early with a status: INLEN is free within SRCLEN (log entry 50). -/
def State.engEarly (s : State) (n : Nat) (j : EngJob) (status : Nat) : State :=
  let (k, s1) := s.drawBelow (eSrcLen j.desc + 1)
  let p := s1.engPartial j k
  p.st.engEnd n j status k p.n p.check p.raw

/-- The data writes of a result: DST and the tag (R578). -/
def EngRes.writes (r : EngRes) : Nat := (if r.out.isEmpty then 0 else 1) + (if r.aux.isEmpty then 0 else 1)

/-- Deliver a result: output, tag, key and completion (R548, R565, R573). CZDEC has written all that it decompressed before the tag decides; of KGCMDEC a free number of
bytes (log entry 50). -/
def State.engDeliver (s : State) (n : Nat) (j : EngJob) (r : EngRes) : State :=
  let u := j.unit
  let tag := [(j.par.aux, r.aux.length)]
  let ok := r.status = scOk
  let fill := fun t : State => if ok && decide ((t.ins j.ins).gen = j.gen) then
      (match r.fill with
      | some k => t.setKey (eSlot2 j.desc) (some k)
      | none => if j.opc = 0x3C then t.setKey (eSlot j.desc) none else t) else t
  if s.oldGen j.ins j.gen then
    (Nat.fold r.writes (fun _ _ t => t.countDrop j.ins) s).engEnd n j r.status r.inlen (if zeroes j.opc && !ok then 0 else r.out.length) r.check r.raw
  else if zeroes j.opc && !ok then
    let (k, s1) := s.drawBelow (r.out.length + 1)
    (s1.writeRanges u.1 u.2 j.ins j.dst (List.replicate (if j.opc = 0x23 then r.out.length else k) 0)).engEnd n j r.status r.inlen 0 r.check false
  else
    match (s.room j.ins j.dst r.out.length).2, (s.room j.ins tag r.aux.length).2 with
    | .ok, .ok => (fill ((s.writeRanges u.1 u.2 j.ins j.dst r.out).writeRanges u.1 u.2 j.ins tag r.aux)).engEnd n j r.status r.inlen r.out.length r.check r.raw
    | .poison _, _ => (s.roomSees u.1 u.2 j.ins (j.dst ++ tag)).engEarly n j scMemPoison
    | _, .poison _ => (s.roomSees u.1 u.2 j.ins (j.dst ++ tag)).engEarly n j scMemPoison
    | _, _ => (s.roomSees u.1 u.2 j.ins (j.dst ++ tag)).engEarly n j scJobFault

/-- Job n of a drained instance stops at a boundary: squashed, without a completion (R579, R580). -/
def State.squashJob (s : State) (n : Nat) : State :=
  let j := s.job n
  let t := (s.engPartial j 0).st
  (t.setJob n {}).setIns j.ins { t.ins j.ins with cnt := { (t.ins j.ins).cnt with sqeng := (t.ins j.ins).cnt.sqeng + 1 } }

/-- Engine job j ends (R562, R566, R574, R575); one of a drained instance whose next boundary is not its end is squashed there (R579). In a pair it waits for the random
bits that both sides agree on (R567). -/
def execEngineJobEnd (j : Nat) (s : State) : Out :=
  let x := s.job j
  .next (
    if !x.live || !x.started || s.moduleStopped || (needsRnd x.opc && decide (s.dpx.st = .paired) && x.rnd.isNone) then s
    else if x.window && !x.lastUnit then (s.squashJob j).startJobs
    else
      match s.engInputs x with
      | (s1, none, st) => s1.engEarly j x st
      | (s1, some (bs, aad, aux), _) =>
        let (w, s2) := s1.draw
        s2.engDeliver j x (engRes x.desc x.par ((x.key.map (·.mat)).getD []) bs aad aux (x.rnd.getD w)))

/-- The codes of an engine detect a fault of job j: the first time it runs again on engine e of the share, numbered 0 to 15 for
CE and 16 to 23 for KE; the second ends it (R576). -/
def execEngineFaultDetected (j e : Nat) (s : State) : Out :=
  let x := s.job j
  let isCe := decide (e < 16)
  let cur := if isCe then x.ce else x.ke
  let k := if isCe then e else e - 16
  let others := (List.range (if isCe then 16 else 8)).filter (fun y => decide (y ≠ cur) && s.inShare x.ins (if isCe then y else 255) (if isCe then 255 else y))
  .next (
    if !x.live || !x.started || s.moduleStopped || decide (cur = 255) || decide (24 ≤ e) then s
    else if !x.restarted && !others.isEmpty && !(others.contains k && (if isCe then s.ceFree k else s.keFree k)) then s
    else
      let s1 := s.report ((if isCe then 1064 else 1080) + cur) { pay clUE with unit := if isCe then 5 else 6, msub := BitVec.ofNat 8 cur, ins := BitVec.ofNat 13 x.ins }
      if s1.moduleStopped || !(s1.job j).live then s1
      else if x.restarted || others.isEmpty then s1.engEarly j (s1.job j) scEngineFault
      else s1.setJob j (if isCe then { s1.job j with ce := k, restarted := true } else { s1.job j with ke := k, restarted := true }))

/-- The epoch that the running jobs of instance i had has ended: this tick begins an epoch after the reset. -/
def State.windowOver (s : State) (i : Nat) : Bool :=
  s.time.atEpoch && s.eng.jobs.any (fun e => e.2.live && e.2.window && decide (e.2.ins = i) && decide (e.2.windowAt < s.time.ticks))

/-- They are squashed, without a completion (R579, R580). -/
def State.windowEnd (s : State) (i : Nat) : State :=
  ((s.eng.jobs.filter (fun e => e.2.live && e.2.window && decide (e.2.ins = i))).foldl (fun t e => t.squashJob e.1) s).startJobs

/-- The epoch that an instance's running jobs had is over (R579). -/
def execEngineSquashWindowEnd (i : Nat) (s : State) : Out :=
  .next (if s.moduleStopped || !s.windowOver i then s else s.windowEnd i)

end Sys2Proof.Machine
end

