-- ==== Sys2Proof/Machine/Rind.lean ====
section
/-! DEFINITION. The Rind collector's events: alarms and payloads, wire faults and acknowledgement (14 R666 to R670, R692),
and the commands RIND_SET and RIND_LOG (R678, R695). Taking a report is State.report. -/

namespace Sys2Proof.Machine

/-- Sources that never report: the reserved ones, and those of what this part lacks (R686, 00 R4, R5). -/
def State.srcAbsent (s : State) (n : Nat) : Bool :=
  decide (2048 ≤ n) || (decide (1048 ≤ n) && decide (n < 1056)) || (decide (1059 ≤ n) && decide (n < 1064)) || (decide (1089 ≤ n) && decide (n < 1096))
  || (decide (1132 ≤ n) && decide (n < 1152)) || (decide (1284 ≤ n) && decide (n < 1536)) || decide (1792 ≤ n)
  || (!s.fuse.big && (
    (decide (n < 544) && decide (12 ≤ n / 8 % 17) && decide (n / 8 % 17 < 16))
    || (decide (544 ≤ n) && decide (n < 612) && decide (12 ≤ (n - 544) % 17) && decide ((n - 544) % 17 < 16))
    || (decide (816 ≤ n) && decide (n < 880)) || (decide (892 ≤ n) && decide (n < 896)) || n = 899 || n = 903
    || (decide (1152 ≤ n) && decide (n < 1280) && decide (12 ≤ slotOf (n - 1152)))))

def State.suspect (s : State) (n : Nat) : State := s.setSrc n { s.src n with susp := true }
/-- The alarms of a source that wait for their payloads (R670). -/
def State.setAlarm (s : State) (n k : Nat) : State := s.setSrc n { s.src n with alarm := k }

/-- An alarm pulse, a payload, or both within 1 µs reach the collector, and each alarm without its payload is latched (R667, R668, R670). A pulse is one
that the collector has sampled, so that its pair is valid then, also within 1 µs of a wire fault (R669). -/
def State.alarmIn (s : State) (n : Nat) (pulse : Bool) (p : Option Payload) : State :=
  let a := (s.src n).alarm
  match p with
  | none => if pulse then s.setAlarm n (a + 1) else s
  | some q => if pulse then s.report n q else if a = 0 then (s.suspect n).report n q else (s.setAlarm n (a - 1)).report n q

/-- The source as the operand of RIND_ALARM numbers it: 2048 + n is source n, its report taken in the cycle of the acknowledgement that comes next
in this tick (R692; log entry 185). -/
def execRindAlarm (src : Nat) (pulse : Bool) (p : Option Payload) (s : State) : Out :=
  let n := src % 2048
  .next (
    if s.srcAbsent n || decide (4096 ≤ src) then s
    else
      let t := s.alarmIn n pulse p
      if src < 2048 || p.isNone then t else t.setSrc n { t.src n with race := some s.time.ticks })

/-- A payload of a class and an access type alone. -/
def payType (cls : BitVec 3) (atype : BitVec 8) : Payload := { pay cls with atype := atype }

/-- 1 µs has passed since an alarm that has no payload (R668). -/
def execRindPayloadTimeout (src : Nat) (s : State) : Out :=
  .next (if (s.src src).alarm = 0 then s else ((s.setAlarm src ((s.src src).alarm - 1)).suspect src).report src (payType clUE 0x0F))

/-- A pair reads equal for 3 samples (R669). -/
def execRindWireFault (src : Nat) (s : State) : Out :=
  .next (if s.srcAbsent src || (s.src src).wire then s
    else ((s.setSrc src { s.src src with wire := true }).suspect src).report src (payType clDE 0x0E))

/-- The pair has been valid for 1 µs (R669). -/
def execRindPairValid (src : Nat) (s : State) : Out := .next (s.setSrc src { s.src src with wire := false })

def execRindAcknowledge (src : Nat) (s : State) : Out := .next (if (s.src src).pend then s.acknowledge src else s)

/-- The levels that R674 and R678 allow a field of RCFG. -/
def rindAllows (field value : Nat) : Bool :=
  if field = 10 then true else decide (value ≤ 5) && (field ≠ 6 || decide (3 ≤ value)) && (field ≠ 8 || decide (4 ≤ value))

/-- Set one field of RCFG (R677). -/
def State.rcfgSet (s : State) (n field value : Nat) : State :=
  let w := if field = 10 then putFld (BitVec.ofNat 64 (s.rcfg n)) 30 1 value else putFld (BitVec.ofNat 64 (s.rcfg n)) (3 * field) 3 value
  s.setSrc n { s.src n with rcfgX := w ^^^ rcfgGeneric }

def execRindSet (m : Nat) (s : State) : Out :=
  let n := s.mbP m 0 2
  let f := s.mbP m 2 1
  let v := s.mbP m 3 1
  .next (
    if !s.runs m 0x0601 then s
    else if !rindAllows f v then s.mbDone m scRindLevel []
    else (s.rcfgSet n f v).mbDone m scOk [])

/-- The log entries that RIND_LOG returns (R695). -/
def RindSt.logFrom (r : RindSt) (from_ count : Nat) : List (List Word) :=
  let n := r.log.length
  let back := (r.nextSeq + 2 ^ 32 - from_) % 2 ^ 32
  if back = 0 || n = 0 then []
  else (r.log.drop (if back ≤ n then n - back else 0)).take count

def execRindLog (m : Nat) (s : State) : Out :=
  let es := s.rind.logFrom (s.mbP m 0 4) (s.mbP m 4 1)
  .next (if !s.runs m 0x0602 then s
    else s.mbDone m scOk (leBytes 8 es.length ++ es.flatMap (fun e => e.flatMap (fun w => leBytes 8 w.toNat))))

end Sys2Proof.Machine
end

