-- ==== Sys2Proof/Machine/Firmware.lean ====
section
/-! DEFINITION. The Puppeteer's own life (15): restarts, the choice of an image at boot, watchdogs, the device and firmware commands,
and the management network. -/

namespace Sys2Proof.Machine

/-! ## Images (R701 to R705) -/

/-- The capacity of an image slot (R701). -/
def slotSize : Nat := 12 * 2 ^ 20

/-- Slot b, false for A; flash that is erased reads 0xFF. -/
def PupSub.img (p : PupSub) (b : Bool) : Image := if b then p.imgB else p.imgA
def PupSub.setImg (p : PupSub) (b : Bool) (x : Image) : PupSub := if b then { p with imgB := x } else { p with imgA := x }
/-- Slot b holds the image it was made with. -/
def PupSub.pre (p : PupSub) (b : Bool) : Bool := if b then p.preB else p.preA
def Image.at (x : Image) (o n : Nat) : List Byte := Tab.getMany 0xFF x.bytes o n
def Image.f (x : Image) (o n : Nat) : Nat := ofLe (x.at o n)

/-- VERSION, SVN and the minor FIL of slot b (R702). -/
def State.imgVersion (s : State) (b : Bool) : Nat := if s.pup.pre b then (if b then s.fuse.verB else s.fuse.verA) else (s.pup.img b).f 4 4
def State.imgSvn (s : State) (b : Bool) : Nat := if s.pup.pre b then s.fuse.svn else (s.pup.img b).f 8 2
def State.imgFil (s : State) (b : Bool) : Nat := if s.pup.pre b then s.fuse.filMinor else (s.pup.img b).f 10 1

/-- MAGIC, LENGTH, KEYIDX, the zero fields and the major FIL are as R702 gives. -/
def Image.formed (x : Image) : Bool :=
  decide (x.f 0 4 = 0x5A52484D) && decide (x.f 0x0C 4 ≤ slotSize - 8192) && decide (x.f 0x10 1 ≤ 3) && (x.at 0x11 15).all (· == 0)
  && (x.at 0x1263 3485).all (· == 0) && decide (x.f 0x0B 1 = 9)

/-- DIGEST matches the body and SIG verifies. -/
def Image.signed (x : Image) : Bool := decide (Config.sha384 (x.at 0x2000 (x.f 0x0C 4)) = x.at 0x20 48) && Config.imageSig (x.at 0 0x1263)

/-- The first breach of R703, as the status that FW_ACTIVATE gives it (R732). -/
def State.imgRefusal (s : State) (b : Bool) : Option Nat :=
  let x := s.pup.img b
  if s.pup.pre b then (if s.imgSvn b < s.fuse.svnFloor then some scFwRollback else none)
  else if !x.formed then some scFwImage
  else if !x.signed then some scFwSignature
  else if s.imgSvn b < s.fuse.svnFloor then some scFwRollback
  else none

def State.imgOk (s : State) (b : Bool) : Bool := (s.imgRefusal b).isNone

/-- A notice of the Puppeteer, number n (14 R686). -/
def State.notice (s : State) (n : Nat) (cls : BitVec 3) : State := s.report (1536 + n) { pay cls with unit := 0x0A }

/-- The image that the ROM boots, and the change of the boot record with its notice (R705). -/
def State.bootChoice (s : State) : Option Bool × State :=
  let p := s.pup
  let end_ : State := { s with pup := { p with bootTrial := false, tried := false, bootSeq := p.bootSeq + 1 } }
  if !p.bootTrial then
    if s.imgOk p.active then (some p.active, s)
    else if s.imgOk (!p.active) then (some (!p.active), s.notice 0 clDE)
    else (none, s)
  else
    let act := if s.imgOk p.active then some p.active else none
    if p.tried then (act, end_.notice 1 clCE)
    else if s.imgOk (!p.active) then (some (!p.active), { s with pup := { p with tried := true, bootSeq := p.bootSeq + 1 } })
    else (act, end_.notice 1 clCE)

/-- The image of slot b runs (R699, R720, 16 R766). -/
def State.runImage (s : State) (b : Bool) : State :=
  let p := s.pup
  let fil := s.imgFil b
  { s with pup := { p with slot := b, unserved := 0, trial := p.bootTrial && b != p.active, filmaj := 9, filmin := fil, effmaj := 9,
                           effmin := if s.dpx.st = .standalone then fil else if p.effmaj = 0 then Nat.min fil s.dpx.peerFil else Nat.min fil p.effmin } }

/-- The base levels of a source that differ from the generic ones, as field numbers of RIND_SET with values (14 R686). R662 gives the CE of every repaired
column base level L2, so the ledger cache, the frame buffer and the shared bit RAM are listed too, where the table has none (DEDUCED; log entry 177). -/
def shipped (n : Nat) : List (Nat × Nat) :=
  if n < 544 then (if 2 ≤ n % 4 then [(0, 2), (2, 2)] else [])
  else if 612 ≤ n ∧ n ≤ 615 then [(0, 2)]
  else if 624 ≤ n ∧ n ≤ 879 then [(0, 2)]
  else if n = 1057 ∨ n = 1058 ∨ n = 1106 then [(0, 2)]
  else if (976 ≤ n ∧ n ≤ 1039) ∨ n = 1104 ∨ (1536 ≤ n ∧ n ≤ 1791) then [(0, 1)]
  else if n = 1107 then [(4, 4)]
  else []

/-- The Puppeteer loads the shipped levels (14 R677). -/
def State.loadLevels (s : State) : State :=
  (List.range 2048).foldl (fun t n => (shipped n).foldl (fun u fv => u.rcfgSet n fv.1 fv.2) t) s

/-- The boot ROM chooses and starts an image, or enters RECOVERY (R700, R705, 18 R804). A warm reset that came before near memory was
trained makes a notice (18 R801). -/
def execBootImageSelect (s : State) : Out :=
  let s0 := if s.pwr.warm && !s.pwr.warmValid then s.loadLevels.notice 2 clDE else s.loadLevels
  let (b, s1) := s0.bootChoice
  .next (
    if s.pup.st ≠ .boot || !s.boardUp || s.pwr.faulted || s.moduleStopped then s
    else
      match b with
      | some b => (let t := s1.runImage b; { t with pup := { t.pup with st := .bringup } })
      | none => { s1 with pup := { s1.pup with st := .recovery } })

/-! ## Restarts (R697, R698) -/

/-- The Puppeteer restarts from its running image; a report tells why. -/
def State.pupRestart (s : State) (src : Nat) (atype : BitVec 8) : State :=
  if !s.pupUp then s
  else
    let t := s.report src { pay clUE with unit := 0x0A, atype := atype }
    { t with pup := { t.pup with st := .restart } }

def execPuppeteerLockstepError (s : State) : Out := .next (s.pupRestart 1108 0x0D)
def execPuppeteerSramUe (s : State) : Out := .next (s.pupRestart 1109 0x0D)
/-- Its watchdog expires after 16 epoch boundaries without service from the firmware (R697, 01 R52). What counts as service is not stated: the model takes the completion
of a command and the start of the firmware for it, so that the event may come from 16 epochs after these on, and need not (log entry 11). -/
def execPuppeteerWatchdogExpiry (s : State) : Out := .next (if s.time.atEpoch && decide (16 ≤ s.pup.unserved) then s.pupRestart 1111 0x10 else s)

/-- The Puppeteer serves mailboxes again: a live restart runs the image that R705 chooses, and completes its command; the commands of its journal do their
work before any completion is written (R698, R728). -/
def execPuppeteerRestartComplete (s : State) : Out :=
  let back := fun t : State => ({ t with pup := { t.pup with st := if t.moduleStopped then .stopped else if t.mem.trained then .serving else .bringup, unserved := 0,
                                                              journal := t.pup.taken } } : State)
  .next (
    if s.pup.st ≠ .restart then s
    else
      match s.pup.live with
      | none => (back s).mbFlush
      | some m =>
        let (b, s1) := s.bootChoice
        match b with
        | some b => (let t := back (s1.runImage b); ({ t with pup := { t.pup with live := none } } : State).mbDone m scOk [])
        | none => { s1 with pup := { s1.pup with st := .recovery } })

/-! ## Device commands (R706, R722, R731) -/

def ascii (t : String) : List Byte := t.toList.map (fun c => BitVec.ofNat 8 c.toNat)

/-- The part number (00 R1 to R3). -/
def FuseSt.part (f : FuseSt) : List Byte := padTo 16 (ascii (if f.big then "JW9416-" else "JW9412-") ++ ascii (if f.gradeA then "A" else "E"))

/-- The response of DEV_INFO. -/
def State.devInfo (s : State) : List Byte :=
  let p := s.pup
  s.fuse.part ++ s.fuse.stepping ++ leBytes 2 (256 * p.filmaj + p.filmin) ++ leBytes 2 (256 * p.effmaj + p.effmin) ++ leBytes 1 (b2n p.slot)
  ++ leBytes 1 (b2n p.trial) ++ leBytes 4 (s.imgVersion false) ++ leBytes 4 (s.imgVersion true) ++ leBytes 2 (s.imgSvn p.slot)
  ++ leBytes 2 s.fuse.svnFloor ++ s.fuse.serial

def execDevInfo (m : Nat) (s : State) : Out := .next (if !s.runs m 0x0101 then s else s.mbDone m scOk s.devInfo)

/-- WDOG_SET gives a logical core its interval; the count starts anew. -/
def execWdogSet (m : Nat) (s : State) : Out :=
  let l := s.mbP m 0 1
  .next (if !s.runs m 0x0104 then s else (s.setCore l { s.core l with wdN := s.mbP m 2 2, wdCnt := 0 }).mbDone m scOk [])

/-- N epoch boundaries have passed unkicked (R706). -/
def State.wdDue (s : State) (lc : Nat) : Bool := decide ((s.core lc).wdN ≠ 0) && decide ((s.core lc).wdN ≤ (s.core lc).wdCnt) && s.lcNumbered lc
def State.wdReport (s : State) (lc : Nat) : State :=
  let c := s.core lc
  (s.setCore lc { c with wdCnt := 0 }).report (1152 + lc) { pay clUE with unit := 1, msub := BitVec.ofNat 8 lc, atype := 0x10, ins := BitVec.ofNat 13 c.lctxCur.inst }
def execWatchdogExpiry (lc : Nat) (s : State) : Out := .next (if s.wdDue lc then s.wdReport lc else s)

/-- One field of the management network. -/
def PupSub.setNet (p : PupSub) (f : Nat) (v : List Byte) : PupSub :=
  let w := ofLe (v.take 4)
  match f with
  | 0 => { p with mnEn := bit w 0 }
  | 1 => { p with mnIp := w }
  | 2 => { p with mnMask := w }
  | 3 => { p with mnGw := w }
  | _ => { p with mnKey := v }

def execMgmtNet (m : Nat) (s : State) : Out :=
  .next (if !s.runs m 0x0105 then s else ({ s with pup := s.pup.setNet (s.mbP m 0 1) (s.mbPBytes m 4 32) } : State).mbDone m scOk [])

/-- A datagram holds a mailbox image and its tag; one whose tag fails is discarded and counted (R730, R731), and one that comes while a command of mailbox 0 is
queued or running has no effect (R712). -/
def execMgmtDatagram (data tag : List Byte) (s : State) : Out :=
  .next (
    if !s.boardUp || !s.pup.mnEn then s
    else if data.length ≠ 4096 || tag ≠ hmacSha256 s.pup.mnKey data then { s with pup := { s.pup with dropped := s.pup.dropped + 1 } }
    else if (s.mb 0).st = .queued || (s.mb 0).st = .running then s
    else (let t := s.boardWrite 0 data; let u : State := { t with pup := { t.pup with netReq := true } }; u.agree .board (u.ringMailbox 0)))

/-! ## Firmware commands (R727 to R729) -/

/-- The slot that is neither ACTIVE nor running, if there is one. -/
def PupSub.spareSlot (p : PupSub) : Option Bool := if p.st = .recovery || p.slot = p.active then some (!p.active) else none

def execFwStage (m : Nat) (s : State) : Out :=
  let off := s.mbP m 0 4
  let n := s.mbP m 4 4
  .next (
    if !s.runs m 0x0701 then s
    else
      match s.pup.spareSlot with
      | none => s.mbDone m scFwState []
      | some b =>
        if s.pup.trial || (off ≠ 0 && decide (s.pup.staged ≠ some off)) then s.mbDone m scFwState []
        else
          let old : Image := if off = 0 then {} else s.pup.img b
          let img : Image := { bytes := Tab.setMany 0xFF old.bytes off (s.mbPBytes m 8 n), len := off + n }
          let p := s.pup.setImg b img
          ({ s with pup := { p with staged := some (off + n), preA := p.preA && b, preB := p.preB && !b } } : State).mbDone m scOk [])

/-- FW_ACTIVATE: the slot that FW_STAGE has written is verified and put on trial; with MODE 1 it is started now (R728). -/
def execFwActivate (m : Nat) (s : State) : Out :=
  .next (
    if !s.runs m 0x0702 || s.pup.live.isSome then s
    else
      match s.pup.spareSlot with
      | none => s.mbDone m scFwState []
      | some b =>
        if s.pup.trial || s.pup.staged.isNone then s.mbDone m scFwState []
        else
          match s.imgRefusal b with
          | some st => s.mbDone m st []
          | none =>
            let s1 : State := { s with pup := { s.pup with bootTrial := true, tried := false, bootSeq := s.pup.bootSeq + 1 } }
            if s.mbP m 0 1 = 0 then s1.mbDone m scOk []
            else { s1 with pup := { s1.pup with live := some m, st := .restart } })

def execFwCommit (m : Nat) (s : State) : Out :=
  .next (
    if !s.runs m 0x0703 then s
    else if !s.pup.trial then s.mbDone m scFwState []
    else
      let s1 : State := { s with pup := { s.pup with active := s.pup.slot, bootTrial := false, tried := false, trial := false, bootSeq := s.pup.bootSeq + 1 } }
      let s2 : State := if s.mbP m 0 1 = 1 then { s1 with fuse := { s1.fuse with svnFloor := Nat.max s1.fuse.svnFloor (s.imgSvn s.pup.slot) } } else s1
      s2.mbDone m scOk [])

/-- Every soft-fuse entry of the repair log is burnt, in a maintenance window (R729, 13 R663). -/
def execFuseCommit (m : Nat) (s : State) : Out :=
  .next (
    if !s.runs m 0x0704 then s
    else if !s.pup.maint then s.mbDone m scMaintOnly []
    else ({ s with mem := { s.mem with committed := s.mem.committed ++ s.mem.softFuse, softFuse := [] } } : State).mbDone m scOk (leBytes 4 s.mem.softFuse.length))

end Sys2Proof.Machine
end

