-- ==== Sys2Proof/Machine/PortCmds.lean ====
section
/-! DEFINITION. The channel commands of the mailboxes (10 R493 to R498, R502, 13 R651, R652, 15 R725): PORT_CONFIG, PORT_STATUS, PATH_STATUS,
FAR_ONLINE and FAR_OFFLINE. -/

namespace Sys2Proof.Machine

open Host

/-- A path uses a port of the group, also of an endpoint that only old work of a removed instance still names (12 R623), or far memory behind it is online (10 R498). -/
def State.groupUsed (s : State) (g : Nat) : Bool :=
  s.chan.eps.any (fun e => e.2.paths.any (fun p => decide (p.lport / 8 = g))) || s.mem.slots.any (fun f => f.2.cxl && f.2.online && decide (f.2.port / 8 = g))

/-- The far slots after group g takes a mode: those of its ports return, and each CXL port gets the lowest free one (13 R651). -/
def State.reslot (s : State) (g mode n : Nat) : State :=
  let s1 := (List.range 8).foldl (fun t f => if (t.farSlot f).cxl && decide ((t.farSlot f).port / 8 = g) then t.setFarSlot f {} else t) s
  if mode ≠ 2 then s1
  else (List.range n).foldl (fun t k => match firstBelow 8 (fun f => !(t.farSlot f).cxl) with
    | some f => t.setFarSlot f { cxl := true, port := 8 * g + k }
    | none => t) s1

/-- The group takes its mode and its ports begin to train (10 R498); ports that it no longer has are down. -/
def execPortConfig (m : Nat) (s : State) : Out :=
  let g := s.mbP m 0 1
  let mode := s.mbP m 1 1
  let ps := s.cfgPorts m
  .next (
    if !s.runs m 0x0501 then s
    else if s.groupUsed g || (decide (mode ≠ 2) && s.peerGroup g) then s.mbDone m scPortBusy []
    else
      let s1 := (s.setGroup g { mode := mode, ports := ps }).reslot g mode ps.length
      let s2 := (List.range 8).foldl (fun t k => t.setPort (8 * g + k) { st := if k < ps.length then 1 else 0 }) s1
      s2.mbDone m scOk [])

def execPortStatus (m : Nat) (s : State) : Out :=
  let p := s.port (s.mbP m 0 1)
  .next (if !s.runs m 0x0502 then s else s.mbDone m scOk (leBytes 1 p.st ++ leBytes 1 p.lanes ++ leBytes 1 p.rate))

def PathSt.code : PathSt → Nat
  | .down => 0
  | .connecting => 1
  | .active => 2
  | .standby => 3
  | .failed => 4

def execPathStatus (m : Nat) (s : State) : Out :=
  let e := s.ep (s.mbP m 0 2)
  .next (if !s.runs m 0x0503 then s else s.mbDone m scOk ((List.range 8).flatMap (fun k => leBytes 1 (e.path k).st.code)))

/-- The size behind a slot is a free value of the form of R652, at most 2 TiB; the link must be up (log entry 56). -/
def execFarOnline (m : Nat) (s : State) : Out :=
  let f := s.mbP m 0 1
  let x := s.farSlot f
  .next (
    if !s.runs m 0x0504 then s
    else if !x.cxl || x.online then s.mbDone m scFarState []
    else if (s.port x.port).st ≠ 2 then s.mbDone m scPortBusy []
    else
      let (w, s1) := s.draw
      let size := farUsable w.toNat
      (s1.setFarSlot f { x with online := true, size := size }).mbDone m scOk (leBytes 8 size))

def execFarOffline (m : Nat) (s : State) : Out :=
  let f := s.mbP m 0 1
  let x := s.farSlot f
  .next (
    if !s.runs m 0x0505 then s
    else if !x.cxl || !x.online then s.mbDone m scFarState []
    else (s.setFarSlot f { x with online := false, size := 0 }).mbDone m scOk [])

end Sys2Proof.Machine
end

