-- ==== Sys2Proof/Machine/Duplex.lean ====
section
/-! DEFINITION. Duplex pairs (16): the receiving side of the twin link, time and skew, agreed inputs, batches, fencing and survival,
pairing and re-pairing, and the duplex commands. -/

namespace Sys2Proof.Machine

open Host

/-! ## The twin link, receiving (R738 to R743) -/

/-- A frame that carries only the last SEQ received in order: an acknowledgement, or a negative one (R738, R741). -/
def Bundle.answerOf (x : Bundle) (typ : BitVec 4) : Flit :=
  { typ := typ, vc := 0, seq := 0, ackseq := BitVec.ofNat 12 (x.rxNext + 4095), ackv := true, crvc := 0, crcnt := 0, payload := [] }

/-- Bundle b answers what it has received. -/
def DpxSub.answer (d : DpxSub) (b : Nat) (typ : BitVec 4) : DpxSub := d.setBnd b { d.bnd b with answer := some ((d.bnd b).answerOf typ) }

/-- The unacknowledged flits of bundle b are sent again (R741). -/
def DpxSub.again (d : DpxSub) (b : Nat) : DpxSub :=
  let x := d.bnd b
  if x.unacked.isEmpty then d
  else { d.setBnd b { x with replays := x.replays + 1 } with replay := satTo 65535 (d.replay + x.unacked.length) }

/-- A mirror of entry l has been acknowledged: its first makes MIRRORED 1 and lets the first attempt go; that of its end lets its
completion be delivered (10 R539). -/
def State.mirrorDone (s : State) (l : Nat) : State :=
  let e := s.led l
  let out := s.dpx.mirrors.any (fun m => decide (m.2.2 = l)) || s.dpx.txq.any (fun q => decide (q.2.2 = some l))
  let s1 := s.setLed l { e with mirrored := true }
  if e.st = .complete then (if out then s1 else s1.deliverLed l)
  else if e.attempt = 0 then s1.trySend l else s1

/-- What a flit acknowledges, and the credits that it returns. -/
def State.flitAcks (s : State) (b : Nat) (f : Flit) : State :=
  let (d, ls) := if f.ackv then s.dpx.acked b f.ackseq.toNat else (s.dpx, [])
  let v := f.crvc.toNat
  let d1 := d.setCredit v (Nat.min (vcBuffer v) (d.credit v + f.crcnt.toNat))
  ls.foldl State.mirrorDone { s with dpx := d1 }

/-- A data flit: the next SEQ is taken, and its room is owed back; one already taken is discarded; a gap is answered (R741). What VC1 brings the
follower enters its order log (R747), VC0 tells that the peer has finished a drain (12 R626), and the ledger entries that VC2 mirrors are kept (10 R539). -/
def DpxSub.dataFlit (d : DpxSub) (b : Nat) (f : Flit) : DpxSub :=
  let x := d.bnd b
  let ahead := (f.seq.toNat + 4096 - x.rxNext % 4096) % 4096
  if ahead = 0 then
    let v := f.vc.toNat
    let d1 := d.setBnd b { x with rxNext := (x.rxNext + 1) % 4096 }
    ({ d1 with rxCredits := Tab.set 0 d1.rxCredits v (Tab.get 0 d1.rxCredits v + 1),
               order := if v = 1 && d.follows then d1.order ++ grantsOf (f.payload.drop 8) else d1.order,
               peerLed := if v = 2 && decide (d.st = .paired) then Tab.set [] d1.peerLed (leAt f.payload 8 4) (f.payload.drop 12) else d1.peerLed,
               peerDone := if v = 0 && decide (d.st = .paired) then d1.peerDone ++ doneOf (f.payload.drop 8) else d1.peerDone } : DpxSub).answer b 2
  else if ahead < 2048 then d.answer b 3
  else d

/-- A flit arrives on bundle b. -/
def execTwinFlitReceived (b : Nat) (f : Flit) (crcGood : Bool) (s : State) : Out :=
  .next (
    if 2 ≤ b || decide ((s.dpx.bnd b).st ≠ 2) then s
    else if !crcGood || decide (6 ≤ f.typ.toNat) then { s with dpx := s.dpx.answer b 3 }
    else
      let s1 := s.flitAcks b f
      let d := s1.dpx
      let d1 := if f.typ = 1 then d.dataFlit b f else if f.typ = 3 then d.again b else d
      ({ s1 with dpx := d1 } : State).twinPump)

/-- The oldest unacknowledged flit of bundle b is 2 µs old (R741). -/
def execFlitReplayTimeout (b : Nat) (s : State) : Out :=
  .next (if 2 ≤ b || decide ((s.dpx.bnd b).st ≠ 2) then s else { s with dpx := s.dpx.again b })

/-- A report of the twin link. -/
def State.dpxReport (s : State) (src : Nat) (cls : BitVec 3) : State := s.report src (pay cls)

/-- Eight replays without progress: the bundle retrains (R742). -/
def execBundleRetrain (b : Nat) (s : State) : Out :=
  let x := s.dpx.bnd b
  .next (if 2 ≤ b || decide (x.st ≠ 2) || decide (x.replays < 8) then s
    else ({ s with dpx := s.dpx.setBnd b { x with st := 1, replays := 0 } } : State).dpxReport (1128 + b) clCE)

/-- A flit of bundle a is sent again on bundle b under b's next SEQ; its mirror follows it. -/
def DpxSub.moveFlit (a b : Nat) (d : DpxSub) (f : Flit) : DpxSub :=
  let y := d.bnd b
  let q := y.txNext
  { d.setBnd b { y with txNext := (q + 1) % 4096, unacked := y.unacked ++ [{ f with seq := BitVec.ofNat 12 q }] } with
    mirrors := d.mirrors.map (fun m => if m.1 = a ∧ m.2.1 = f.seq.toNat then (b, q, m.2.2) else m) }

/-- Bundle b is down and the other is up: its unacknowledged flits go there in order (R742). -/
def DpxSub.moveOver (d : DpxSub) (b : Nat) : DpxSub :=
  let x := d.bnd b
  if (d.bnd (1 - b)).st ≠ 2 then d
  else x.unacked.foldl (DpxSub.moveFlit b (1 - b)) (d.setBnd b { x with unacked := [], moved := true })

/-- The states in which the twin link works (R760). -/
def DpxSub.linked (d : DpxSub) : Bool := d.st = .pairing || d.st = .paired || d.st = .repair

/-- Bundle b has been down for 1 ms (R742). -/
def execBundleDownTimeout (b : Nat) (s : State) : Out :=
  .next (if 2 ≤ b || !s.dpx.linked then s
    else
      let s1 := ({ s with dpx := s.dpx.setBnd b { s.dpx.bnd b with st := 0 } } : State).dpxReport (1128 + b) clDE
      ({ s1 with dpx := s1.dpx.moveOver b } : State).twinPump)

/-- Bundle b is up: traffic returns to it, and a copy that the loss of the link paused goes on (R742, R764). -/
def execBundleTrained (b : Nat) (s : State) : Out :=
  let x := s.dpx.bnd b
  let d := s.dpx.setBnd b { x with st := 2, moved := false, replays := 0 }
  .next (if 2 ≤ b || !s.dpx.linked || x.st = 2 then s
    else ({ s with dpx := { d with linkLost := false, paused := false, hbin := true } } : State).twinPump)

/-! ## Time and skew (R744, R745) -/

/-- Half of a difference in ns; which way a half ns is rounded is a free value. -/
def halfOf (x : Int) (up : Bool) : Int := if up then -((-x) / 2) else x / 2

def satInt (lo hi x : Int) : Int := max lo (min hi x)

/-- A probe and its reply, all four times in ns. The peer keeps the same reference, so its LOCK is taken to be this side's. -/
def execSkewProbe (t1 t2 t3 t4 : Int) (s : State) : Out :=
  let (w, s1) := s.draw
  let off := halfOf ((t2 - t1) - (t4 - t3)) (w.getLsbD 0)
  let dly := halfOf ((t4 - t1) - (t3 - t2)) (w.getLsbD 1)
  let n := if s.time.lock && decide (100 < off.natAbs) then s.dpx.bigOff + 1 else 0
  let s2 : State := { s1 with dpx := { s1.dpx with offset := BitVec.ofInt 32 (satInt (-2147483648) 2147483647 off), delay := BitVec.ofInt 16 (satInt 0 65535 dly),
                                                   bigOff := n, steer := s.time.hold && !s.dpx.leadSt && decide (s.dpx.st = .paired) } }
  .next (if !s.dpx.linked then s else if n = 16 then s2.dpxReport 1131 clDE else s2)

/-! ## Replicated execution (R747 to R753) -/

/-- A tick boundary of the leader, at which it sends one mark (R748). -/
def execBatchMark (s : State) : Out := .next (if s.markDue then s.batchMark else s)

/-- An agreed input takes effect. -/
def State.applyInput (s : State) (i : AgreedIn) : State :=
  match i with
  | .accept l x => s.ledRead l (s.doTargetAccept l x)
  | .data l x off bs good => s.ledRead l (s.doDataUnit l x off bs good)
  | .response l x k st dw => s.ledRead l (s.doResponse l x k st dw)
  | .frame e bs good => s.doFrame e bs good
  | .inbound e w a bs good => s.doInbound e w a bs good
  | .abort l => s.doAbortAnswer l
  | .ana e k a => s.doAna e k a
  | .space e n blk => s.doSpace e n blk
  | .msi e v => s.doMsi e v
  | .dev l k ok v => s.devAnswer l k ok v
  | .sourceUp n => if n < 2048 then s.erRise n else s
  | .sourceDown n => if n < 2048 then s.erFall n else s
  | .board => s.ringMailbox 0
  | .entropy j v => s.setJob j { s.job j with rnd := some v }
  | .connect e k b => s.doConnect e k b
  | .login e k => s.doLogout e k
  | .ctlReset e k => s.doCtlReset e k

/-- Once DEV access k of core l is complete, the answers that wait for later ones name them one place lower. -/
def AgreedIn.after (done i : AgreedIn) : AgreedIn :=
  match done, i with
  | .dev l k _ _, .dev l2 k2 ok v => if l = l2 && decide (k < k2) then .dev l2 (k2 - 1) ok v else i
  | _, _ => i

/-- The input at place k is held by both sides and is delivered, at the second tick boundary after that of the tick in which it came or later (R749, 01 R52); one
left by a fenced peer is delivered alone. -/
def execAgreedInputDelivery (k : Nat) (s : State) : Out :=
  .next (
    match s.dpx.inputs[k]? with
    | none => s
    | some (t0, i) => if s.moduleStopped || decide (s.time.ticks < t0 + 2) then s
      else ({ s with dpx := { s.dpx with inputs := (s.dpx.inputs.eraseIdx k).map (fun x => (x.1, i.after x.2)) } } : State).applyInput i)

/-! ## Fencing and survival (R753 to R757, 10 R541) -/

/-- The entries that hold an operation. -/
def State.openLeds (s : State) : List Nat := (s.chan.led.filter (fun e => decide (e.2.st ≠ .free) && decide (e.2.st ≠ .retired))).map (·.1)

/-- The paths on ports of the other side. -/
def State.peerPaths (s : State) : List (Nat × Nat) :=
  s.chan.eps.flatMap (fun e => ((List.range e.2.paths.length).filter (fun k => s.peerPort (e.2.path k).lport)).map (fun k => (e.1, k)))

/-- What the end of mirroring does to entry l: a completion that waited for its mirror is delivered, a first attempt that waited is
sent, and a mirrored attempt is taken as one on a failed path, unless the failure of its path has begun another already; was: the attempts sent before. -/
def State.unmirror (held : List Nat) (was : Nat → Nat) (s : State) (l : Nat) : State :=
  let e := s.led l
  if e.st = .complete then (if held.contains l then s.deliverLed l else s)
  else if e.attempt = 0 then s.trySend l
  else if e.live && e.mirrored && decide (e.attempt = was l) then s.failAttempt l false else s

/-- The peer is fenced: this module transmits its own outputs that were not compared yet, and runs SIMPLEX as leader (R753, R757, 10 R541). -/
def State.survive (s0 : State) : State :=
  let s := s0.transmit s0.dpx.marks
  let held := s.dpx.mirrors.map (·.2.2) ++ s.dpx.txq.filterMap (·.2.2)
  let peer := s.peerPaths
  let s1 : State := { s with dpx := { (s.dpx.setLag 0) with st := .simplex, leadSt := true, frozen := false, linkLost := false, hbin := false, order := [], peerDone := [], bnds := [], credits := [],
                                                            rxCredits := [], txq := [], mirrors := [], steer := false, hbOut := false } }
  let s2 := peer.foldl (fun t p => t.failPathTo p.1 p.2 .failed true) s1
  s2.openLeds.foldl (State.unmirror held (fun l => (s.led l).attempt)) s2

/-- The hand-over of re-pairing has ended, or will not come: it withdraws its halt requests (R763, 06 R267). -/
def State.endHandover (s : State) : State := (s.cores.map (·.1)).foldl (fun t l => t.modCore l (fun c => c.withdraw 0)) s

/-- The joiner is lost for good: SIMPLEX again, with a clear bitmap (R764), and the cores that were to be halted go on. -/
def State.loseJoiner (s0 : State) : State :=
  let s := s0.endHandover
  { s with dpx := { s.dpx with st := .simplex, bitmap := [], cursor := 0, paused := false, bnds := [], credits := [], rxCredits := [], txq := [], linkLost := false,
                               hbin := false, hbOut := false } }

/-- A module that waits to be copied into. -/
def DpxSub.joiner (d : DpxSub) : Bool := d.st = .pairing && !d.leadSt

/-- The peer of a module that re-pairs is in reset, warm or cold: a free value tells which (R764); the joiner whose survivor is lost is
fenced. -/
def State.peerReset (s : State) : State :=
  if s.dpx.joiner then s.fenceModule
  else if s.dpx.st = .repair then
    let (w, s1) := s.draw
    if w.getLsbD 0 then { s1 with dpx := { s1.dpx with paused := true } } else s1.loseJoiner
  else s

/-- Both bundles have been down for 10 µs; peerBeat: the peer's heartbeat has toggled within 10 µs (R755, R764). -/
def execTwinLinkLoss (peerBeat : Bool) (s : State) : Out :=
  let down := fun b d => DpxSub.setBnd d b { d.bnd b with st := 0 }
  let s1 : State := { s with dpx := { (down 1 (down 0 s.dpx)) with linkLost := true, hbin := peerBeat } }
  .next (
    if !s.dpx.linked || s.moduleStopped then s
    else if s.dpx.st = .paired then (if !peerBeat then s1.survive else if !s.dpx.leadSt then s1.fenceModule else s1)
    else if peerBeat then { s1 with dpx := { s1.dpx with paused := decide (s.dpx.st = .repair) } }
    else s1.peerReset)

/-- The peer's heartbeat has been absent for 10 µs (R755). -/
def execHeartbeatLoss (s : State) : Out :=
  let s1 : State := { s with dpx := { s.dpx with hbin := false } }
  .next (
    if !s.dpx.linked || s.moduleStopped then s
    else if s.dpx.st = .paired then (if s.dpx.linkLost then s1.survive else s1)
    else if s.dpx.linkLost then s1.peerReset else s1)

/-- The follower's heartbeat still toggles 1 ms after the loss of the link (R755). -/
def execFollowerHeartbeatPersists (s : State) : Out :=
  .next (if s.dpx.st = .paired && s.dpx.leadSt && s.dpx.linkLost && s.dpx.hbin then s.stopModule else s)

/-- The two values of the oldest batch that is not compared yet are compared, which is as many marks old as the lag; own and peer: each side has taken a report of class UE or above in the batch (R752, R753). -/
def execBatchCompare (same : Bool) (ownUe peerUe : Bool) (s : State) : Out :=
  let chosen := if ownUe ≠ peerUe then ownUe else !s.dpx.leadSt
  .next (
    if s.dpx.st ≠ .paired then s
    else if same then (let t := s.transmit (s.dpx.marks - s.dpx.lag); { t with dpx := ({ t.dpx with sent := t.dpx.sent + 1 } : DpxSub).setLag (t.dpx.lag - 1) })
    else if chosen then s.dpxReport 1130 clFD
    else (s.dpxReport 1130 clDE).survive)

/-! ## Re-pairing (R761 to R764) -/

/-- One epoch of the copy: 3,072 lines, at its boundary (R761, R762). -/
def execRepairCopyStep (s : State) : Out := .next (if s.copyDue then s.repairCopy else s)

/-- Every dirty line is written back. -/
def State.cleanAll (s : State) : State :=
  let dirty := fun c : Cache => c.lines.filterMap (fun e => match e.2 with | some l => if l.dirty then some l.num else none | none => none)
  ((s.pairs.flatMap (fun e => dirty e.2.l1d ++ dirty e.2.l2)) ++ s.chips.flatMap (fun e => dirty e.2.l3)).foldl State.cleanLine s

/-- The logical cores that run, and those that a halt request has stopped. -/
def State.coresIn (s : State) (r : RunSt) : List Nat := (s.cores.filter (fun e => decide (e.2.run = r))).map (·.1)

/-- The jobs that run as a pair begins and have no random bits yet get them agreed (11 R567). -/
def State.askEntropy (s : State) : State :=
  (s.eng.jobs.filter (fun e => e.2.live && e.2.started && needsRnd e.2.opc && e.2.rnd.isNone)).foldl (fun t e =>
    let (w, t1) := t.draw
    { t1 with dpx := { t1.dpx with inputs := t1.dpx.inputs ++ [(t1.time.ticks, .entropy e.1 w)] } }) s

/-- The survivor stops every unit at an epoch boundary: it raises the halt request of every logical core that runs (06 R267). Once they have
halted it hands its state over, withdraws the requests, and goes on as leader of a pair; a joiner goes on as follower (R763). -/
def execRepairHandover (s : State) : Out :=
  let up := s.dpx.bnds.any (fun e => e.2.st = 2)
  .next (
    if !up || s.moduleStopped || s.dpx.paused || (!s.time.atEpoch && (s.coresIn .halted).isEmpty) then s
    else if s.dpx.st = .repair then
      if s.dpx.cursor < s.copyEnd || !s.dpx.bitmap.isEmpty then s
      else if !(s.coresIn .running).isEmpty then (s.coresIn .running).foldl (fun t l => t.modCore l (fun c => c.askHalt 0)) s
      else
        let s1 := s.endHandover.cleanAll
        let s2 := s1.openLeds.foldl (fun t l => t.setLed l { t.led l with mirrored := true }) s1
        (({ s2 with dpx := { s2.dpx with st := .paired, leadSt := true, bitmap := [], lag := 0, frozen := false, hbOut := true } } : State).askEntropy).dpxReport 1131 clCE
    else if s.dpx.joiner && s.dpx.starter.isNone then ({ s with dpx := { s.dpx with st := .paired, lag := 0, frozen := false, hbOut := true } } : State).askEntropy
    else s)

/-! ## Mixed firmware (R766 to R768) -/

/-- The sides run different firmware versions. -/
def State.mixed (s : State) : Bool := decide (s.imgVersion s.pup.slot ≠ s.dpx.peerVer)

/-- The firmware has differed for 144 hours. -/
def execMixedVersionWarning (s : State) : Out :=
  .next (if s.mixed && (s.dpx.st = .paired || s.dpx.st = .repair) then s.dpxReport 1131 clDE else s)

/-- The firmware has differed for 168 hours: the follower is fenced. -/
def execMixedVersionLimit (s : State) : Out :=
  .next (if !s.mixed || decide (s.dpx.st ≠ .paired) then s else if s.dpx.leadSt then s.survive else s.fenceModule)

/-! ## The duplex commands (R758 to R760, R765, R768) -/

/-- An instance other than 0 exists. -/
def State.hasInsts (s : State) : Bool := s.inst.insts.any (fun e => decide (e.1 ≠ 0) && decide (e.2.st ≠ .none))

/-- The CXL groups with their ports. -/
def State.cxlGroups (s : State) : List (Nat × List (Nat × Nat)) := (s.chan.groups.filter (fun g => g.2.mode = 2)).map (fun g => (g.1, g.2.ports))

/-- The conditions of R758 for a module that becomes side B or A; one that joins a survivor is copied into, and holds no instance either (R759). -/
def State.pairable (s : State) (sideB : Bool) : Bool :=
  decide (s.fuse.big = s.dpx.peerBig) && decide ((List.range 8).map (fun f => (s.farSlot f).size) = (List.range 8).map (fun f => s.dpx.peerFar.getD f 0))
  && decide (s.cxlGroups = s.dpx.peerCxl)
  && (if s.dpx.peerSimplex then !s.hasInsts
      else if sideB then !s.hasInsts && (!s.dpx.peerInsts || decide (2048 < s.dpx.peerTable))
      else !s.dpx.peerInsts && (!s.hasInsts || decide (2048 < s.inst.tableSize)))

/-- The twin link trains, and the effective FIL is the lower running one (R739, R766). -/
def State.startPairing (s : State) (m : Nat) (sideB lead : Bool) : State :=
  { s with
    dpx := { s.dpx with st := .pairing, sideB := sideB, leadSt := lead, bnds := [(0, { st := 1 }), (1, { st := 1 })],
                        credits := (List.range 4).map (fun v => (v, vcBuffer v)), rxCredits := [], txq := [], mirrors := [], starter := some m, hbOut := true, linkLost := false },
    pup := { s.pup with effmin := Nat.min s.pup.filmin s.dpx.peerFil } }

/-- The command that began the pairing completes once the twin link is up and, on the survivor, the copy has begun (R758, R761). -/
def State.pairingUp (s : State) (m : Nat) : State :=
  if !s.dpx.bnds.any (fun e => e.2.st = 2) then s
  else
    let d := s.dpx
    ({ s with dpx := { d with starter := none, st := if d.leadSt then .repair else d.st, cursor := if d.leadSt then 0 else d.cursor,
                              bitmap := if d.leadSt then [] else d.bitmap } } : State).mbDone m scOk []

/-- DPX_PAIR: side A is the survivor of the first copy; a module whose peer is a survivor joins it, whichever side it names (R758, R759). -/
def execDpxPair (m : Nat) (s : State) : Out :=
  let sideB := decide (s.mbP m 0 1 = 1)
  .next (
    if !s.runs m 0x0801 then s
    else if s.dpx.st = .pairing && decide (s.dpx.starter = some m) then s.pairingUp m
    else if s.time.unsync then s.mbDone m scDuplexUnsync []
    else if s.dpx.st ≠ .standalone || !s.pairable sideB then s.mbDone m scDuplexState []
    else s.startPairing m sideB (!sideB && !s.dpx.peerSimplex))

def execDpxRepair (m : Nat) (s : State) : Out :=
  .next (
    if !s.runs m 0x0803 then s
    else if s.dpx.st = .pairing && decide (s.dpx.starter = some m) then s.pairingUp m
    else if s.dpx.st ≠ .simplex then s.mbDone m scDuplexState []
    else s.startPairing m s.dpx.sideB true)

/-- The levels of side A and side B; that of an absent peer is a free value. -/
def execDpxStatus (m : Nat) (s : State) : Out :=
  let (w, s1) := s.draw
  let own := 256 * s.pup.filmaj + s.pup.filmin
  let peer := if s.dpx.st = .standalone then fld w.toNat 0 16 else 9 * 256 + s.dpx.peerFil
  let (a, b) := if s.dpx.sideB then (peer, own) else (own, peer)
  .next (if !s.runs m 0x0802 then s
    else s1.mbDone m scOk (leBytes 1 s.dpx.st.code ++ leBytes 1 (b2n s.dpx.sideB) ++ leBytes 2 a ++ leBytes 2 b ++ leBytes 2 0 ++ leBytes 8 s.dpx.cursor))

def execDpxUnpair (m : Nat) (s : State) : Out :=
  let alone := fun t : State => ({ t with
    dpx := { t.dpx with st := .standalone, sideB := false, leadSt := false, bitmap := [], cursor := 0, paused := false, bnds := [], credits := [], rxCredits := [], txq := [],
                        hbOut := false, hbin := false, steer := false },
    inst := { t.inst with keepFull := true }, pup := { t.pup with effmin := t.pup.filmin } } : State)
  .next (
    if !s.runs m 0x0804 then s
    else if !s.dpx.leadSt || !(s.dpx.st = .paired || s.dpx.st = .simplex || s.dpx.st = .repair) then s.mbDone m scDuplexState []
    else
      let s1 := if s.dpx.st = .paired then s.survive else s.endHandover
      ((alone s1).dpxReport 1131 clCE).mbDone m scOk [])

/-- RAISE_LEVEL raises the level of both sides of a pair (R768). -/
def execRaiseLevel (m : Nat) (s : State) : Out :=
  let fil := s.mbP m 0 2
  let p := s.pup
  .next (
    if !s.runs m 0x0805 then s
    else if s.dpx.st ≠ .paired then s.mbDone m scDuplexState []
    else if s.mixed || decide (256 * p.filmaj + p.filmin < fil) || decide (9 * 256 + s.dpx.peerFil < fil) || decide (fil < 256 * p.effmaj + p.effmin)
      then s.mbDone m scLevelMismatch []
    else ({ s with pup := { p with effmaj := fil / 256, effmin := fil % 256 } } : State).mbDone m scOk [])

end Sys2Proof.Machine
end

