-- ==== Sys2Proof/Machine/FloatOps.lean ====
section
/-! DEFINITION. The floating-point instructions (03 R165 to R169, 04 R190 to R213). -/

namespace Sys2Proof.Machine

/-- A specifier of an F register above 31 (02 R57). -/
def fBad (r : Reg) : Bool := decide (32 ≤ r.toNat)
/-- The bits of an operand: binary32 takes F[31:0] (R69). -/
def fArg (d : Bool) (w : Word) : Nat := fPat d w.toNat

/-- A freezing operation: latency, result, and whether an operand or the result is subnormal (04 R210). -/
def fpFreeze (c : Core) (ill : Bool) (d : Reg) (lat : Nat) (args : List (Bool × Nat)) (q : FRes) : Slot :=
  { op := .land [resF d q.val lat q.flags], fp := true, freezing := true, sub := q.sub || args.any (fun p => fSubnormal p.1 p.2), trap := decTrap c ill 0 true }

/-- Fd := g Fa Fb in format d (R165). -/
def fp2 (r : RF) (d : Bool) (lat : Nat) (g : Rm → Nat → Nat → FRes) (c : Core) : Slot :=
  let a := fArg d (c.rf r.a)
  let b := fArg d (c.rf r.b)
  fpFreeze c (fBad r.d || fBad r.a || fBad r.b) r.d lat [(d, a), (d, b)] (g (rmOf c.arch.fstat) a b)

/-- Fd := g Fa, b unused, never freezing and setting no flag (04 R201). -/
def fp1 (r : RF) (d : Bool) (g : Nat → Nat) (c : Core) : Slot :=
  { op := .land [resF r.d (g (fArg d (c.rf r.a))) 1 0], fp := true, trap := decTrap c (fBad r.d || fBad r.a || decide (r.b ≠ 0)) 0 true }

def fNegate (d : Bool) (x : Nat) : Nat := if fSign d x then x - 2 ^ (fmtBits d - 1) else x + 2 ^ (fmtBits d - 1)
def fAbsolute (d : Bool) (x : Nat) : Nat := x % 2 ^ (fmtBits d - 1)

def execFpadd (x : At) (r : RF) (fmt : Bool) (s : State) : Out := .next (s.coreOp x (fp2 r fmt 4 (fun rm a b => fAdd fmt rm false a b)))
def execFpsub (x : At) (r : RF) (fmt : Bool) (s : State) : Out := .next (s.coreOp x (fp2 r fmt 4 (fun rm a b => fAdd fmt rm true a b)))
def execFpmul (x : At) (r : RF) (fmt : Bool) (s : State) : Out := .next (s.coreOp x (fp2 r fmt 4 (fun rm a b => fMul fmt rm a b)))
def execFpmin (x : At) (r : RF) (fmt : Bool) (s : State) : Out := .next (s.coreOp x (fp2 r fmt 2 (fun _ a b => fMinMax fmt false a b)))
def execFpmax (x : At) (r : RF) (fmt : Bool) (s : State) : Out := .next (s.coreOp x (fp2 r fmt 2 (fun _ a b => fMinMax fmt true a b)))
def execFpmov (x : At) (r : RF) (fmt : Bool) (s : State) : Out := .next (s.coreOp x (fp1 r fmt id))
def execFpneg (x : At) (r : RF) (fmt : Bool) (s : State) : Out := .next (s.coreOp x (fp1 r fmt (fNegate fmt)))
def execFpabs (x : At) (r : RF) (fmt : Bool) (s : State) : Out := .next (s.coreOp x (fp1 r fmt (fAbsolute fmt)))
/-- FPFMA names Fc in minor[4:0] (R166). -/
def execFpfma (x : At) (r : RF) (fmt : Bool) (k : BitVec 5) (s : State) : Out :=
  .next (s.coreOp x (fun c =>
    let a := fArg fmt (c.rf r.a)
    let b := fArg fmt (c.rf r.b)
    let e := fArg fmt (c.arch.rf k.toNat)
    fpFreeze c (fBad r.d || fBad r.a || fBad r.b) r.d 4 [(fmt, a), (fmt, b), (fmt, e)] (fFma fmt (rmOf c.arch.fstat) a b e)))
/-- FPCMP: Bd is a bit register; minor[4:2] is unused (R166). -/
def execFpcmp (x : At) (r : RF) (fmt : Bool) (z : BitVec 3) (cc : BitVec 2) (s : State) : Out :=
  .next (s.coreOp x (fun c =>
    let a := fArg fmt (c.rf r.a)
    let b := fArg fmt (c.rf r.b)
    let q := fCmp fmt cc.toNat a b
    { op := .land [{ resB r.d q.1 2 with flags := q.2 }], fp := true, freezing := true, sub := fSubnormal fmt a || fSubnormal fmt b,
      trap := decTrap c (fBad r.a || fBad r.b || decide (z ≠ 0)) 0 true }))

/-- A conversion: b and minor[4:3] are unused; T rounds toward zero (R167). src: the format of a floating operand. -/
def cvt (r : RF) (t : Bool) (z : BitVec 2) (src : Option Bool) (g : Rm → Nat → FRes) (c : Core) : Slot :=
  let a := match src with | some d => fArg d (c.rf r.a) | none => (c.rf r.a).toNat
  fpFreeze c (fBad r.d || fBad r.a || decide (r.b ≠ 0) || decide (z ≠ 0)) r.d 3 (match src with | some d => [(d, a)] | none => [])
    (g (if t then .rtz else rmOf c.arch.fstat) a)
def execFpcvtSD (x : At) (r : RF) (t : Bool) (z : BitVec 2) (s : State) : Out := .next (s.coreOp x (cvt r t z (some true) (fCvtF true false)))
def execFpcvtDS (x : At) (r : RF) (t : Bool) (z : BitVec 2) (s : State) : Out := .next (s.coreOp x (cvt r t z (some false) (fCvtF false true)))
def execFpcvtLD (x : At) (r : RF) (t : Bool) (z : BitVec 2) (s : State) : Out := .next (s.coreOp x (cvt r t z (some true) (fCvtL true)))
def execFpcvtLS (x : At) (r : RF) (t : Bool) (z : BitVec 2) (s : State) : Out := .next (s.coreOp x (cvt r t z (some false) (fCvtL false)))
def execFpcvtDL (x : At) (r : RF) (t : Bool) (z : BitVec 2) (s : State) : Out := .next (s.coreOp x (cvt r t z none (fCvtI true)))
def execFpcvtSL (x : At) (r : RF) (t : Bool) (z : BitVec 2) (s : State) : Out := .next (s.coreOp x (cvt r t z none (fCvtI false)))

/-- MVGF and MVFG: latency 2, b unused (R165). -/
def execMvgf (x : At) (r : RF) (s : State) : Out :=
  .next (s.coreOp x (fun c => { op := .land [res (.f r.d.toNat) (c.rg r.a) 2], fp := true, trap := decTrap c (fBad r.d || decide (r.b ≠ 0)) 0 true }))
def execMvfg (x : At) (r : RF) (s : State) : Out :=
  .next (s.coreOp x (fun c => { op := .land [resG r.d (c.rf r.a) 2], fp := true, trap := decTrap c (fBad r.a || decide (r.b ≠ 0)) 0 true }))

/-- The specifier of a floating-point step state: a multiple of 4 below 32 (R169). -/
def stepReg (d : Reg) : Bool := decide (d.toNat % 4 = 0) && !fBad d

/-- A first step: FP and MD class, freezing on a subnormal operand (R168, 04 R193). -/
def fInit (r : RF) (ill : Bool) (args : List (Bool × Nat)) (t : Core → FStep) (c : Core) : Slot :=
  { op := .land (fstRes r.d.toNat (t c)), fp := true, md := true, freezing := true, sub := args.any (fun p => fSubnormal p.1 p.2), trap := decTrap c ill 0 true }
def fDivSlot (r : RF) (d : Bool) (c : Core) : Slot :=
  let a := fArg d (c.rf r.a)
  let b := fArg d (c.rf r.b)
  fInit r (!stepReg r.d || fBad r.a || fBad r.b) [(d, a), (d, b)] (fun c => fDivInit d c.ct a b) c
def fSqrtSlot (r : RF) (d : Bool) (c : Core) : Slot :=
  let a := fArg d (c.rf r.a)
  fInit r (!stepReg r.d || fBad r.a || decide (r.b ≠ 0)) [(d, a)] (fun c => fSqrtInit d c.ct a) c
/-- A step after the first (R168, 04 R194); under CT it counts as freezing (04 R212). -/
def fStepSlot (r : RF) (c : Core) : Slot :=
  { op := .fstep r.d.toNat, fp := true, md := true, freezing := true, trap := decTrap c (!stepReg r.d || decide (r.a ≠ 0) || decide (r.b ≠ 0)) 0 true }

def execFdstepIs (x : At) (r : RF) (s : State) : Out := .next (s.coreOp x (fDivSlot r false))
def execFdstepId (x : At) (r : RF) (s : State) : Out := .next (s.coreOp x (fDivSlot r true))
def execFdstep (x : At) (r : RF) (s : State) : Out := .next (s.coreOp x (fStepSlot r))
def execFsstepIs (x : At) (r : RF) (s : State) : Out := .next (s.coreOp x (fSqrtSlot r false))
def execFsstepId (x : At) (r : RF) (s : State) : Out := .next (s.coreOp x (fSqrtSlot r true))
def execFsstep (x : At) (r : RF) (s : State) : Out := .next (s.coreOp x (fStepSlot r))
/-- FDFIN: latency 3, Fd alone written, flags as it lands (R169, 04 R196). -/
def execFdfin (x : At) (r : RF) (s : State) : Out :=
  .next (s.coreOp x (fun c =>
    let q := fFin (rmOf c.arch.fstat) (c.arch.fst_ r.d.toNat)
    { op := .land [resF r.d q.val 3 q.flags], fp := true, md := true, freezing := true, sub := q.sub,
      trap := decTrap c (!stepReg r.d || decide (r.a ≠ 0) || decide (r.b ≠ 0)) 0 true }))

end Sys2Proof.Machine
end

