-- ==== Sys2Proof/Machine/Instances.lean ====
section
/-! DEFINITION. Instances (12 R583 to R626, 15 R723, R724, R726): the resource plan, the instance commands, the set-up of queue pairs, endpoints
and partition handles, and the end of resets. -/

namespace Sys2Proof.Machine

open Host

/-! ## The resource plan (R586 to R588, R726) -/

/-- The plan in the payload of mailbox m. -/
def State.planOf (s : State) (m : Nat) : Plan :=
  let f := fun o n => s.mbP m o n
  { qpFirst := f 0 4, nqp := f 4 4, nledger := f 8 4, nep := f 0x0C 4, epFirst := f 0x10 2, phFirst := f 0x12 2, nph := f 0x14 2, sqMask := f 0x16 2,
    ceMask := f 0x18 2, keMask := f 0x1A 1, arrWt := f 0x1B 1, ksFirst := f 0x1C 2, nks := f 0x1E 2, vvFirst := f 0x20 2, nvv := f 0x22 2,
    brFirst := f 0x24 4, nbr := f 0x28 4, hroot := f 0x30 8, vatMask := f 0x38 32,
    logs := (List.range 8).map (fun k => (f (0x58 + 16 * k) 8 / 4096, f (0x58 + 16 * k + 8) 4)) }

/-- The buckets of the plan for the five metered classes, full (R610). -/
def State.planBuckets (s : State) (m : Nat) : Tab Bucket :=
  (List.range 5).foldl (fun t k =>
    let o := 0xD8 + 12 * k
    Tab.set {} t k { bal := (s.mbP m (o + 4) 4 : Nat), rate := s.mbP m o 4, burst := s.mbP m (o + 4) 4, weight := s.mbP m (o + 8) 1 }) []

def planPages (p : Plan) : Nat := (p.logs.map (·.2)).foldl (· + ·) 0
/-- Units of 64 KiB of dirty-log backing that a plan needs (13 R647). -/
def planUnits (p : Plan) : Nat := (planPages p + 2 ^ 19 - 1) / 2 ^ 19
/-- The units of the carve-out's 704 MiB. -/
def logUnits : Nat := 11264

/-- A field out of range, or a resource that the part lacks (R586, R588). -/
def State.planBad (s : State) (m : Nat) : Bool :=
  let p := s.planOf m
  !(decide (1 ≤ p.nqp) && decide (p.nqp ≤ 16384) && decide (p.qpFirst + p.nqp ≤ 131072) && decide (p.nledger ≤ 65536) && decide (p.nep ≤ 65536)
    && decide (p.epFirst + p.nep ≤ 65536) && decide (p.nph ≤ 64) && decide (p.phFirst + p.nph ≤ 4096) && decide (p.sqMask < 2 ^ s.nSqs) && decide (1 ≤ p.arrWt)
    && decide (p.nks ≤ 4096) && decide (p.ksFirst + p.nks ≤ 32768) && decide (p.nvv ≤ 1024) && decide (p.vvFirst + p.nvv ≤ 65536)
    && decide (p.brFirst % 64 = 0) && decide (p.nbr % 64 = 0) && decide (p.nbr ≤ 1048576) && decide (p.brFirst + p.nbr ≤ 16777216)
    && decide (p.hroot % 4096 = 0) && decide (p.hroot < 2 ^ 52) && decide (p.vatMask < 2 ^ s.nVats)
    && (List.range 8).all (fun k => decide (s.mbP m (0x58 + 16 * k + 8) 4 = 0) || decide (s.mbP m (0x58 + 16 * k) 8 % 4096 = 0))
    && decide (planPages p ≤ 2 ^ 25) && (List.range 5).all (fun k => decide (1 ≤ s.mbP m (0xD8 + 12 * k + 8) 1)))

/-- The instances other than 0 that exist. -/
def State.liveInsts (s : State) : List (Nat × Inst) := s.inst.insts.filter (fun e => decide (e.1 ≠ 0) && decide (e.2.st ≠ .none))

/-- Two ranges of numbers meet. -/
def rangesMeet (a n b k : Nat) : Bool := overlaps (a, n) (b, k)

/-- A pool lacks a resource of the plan: another instance, or old work of a removed one (R623), holds it, or instance 0 has set it up (R583, R588, 13 R649). -/
def State.planTaken (s : State) (p : Plan) : Bool :=
  let is := s.liveInsts
  is.any (fun e => let q := e.2.plan
    rangesMeet p.ksFirst p.nks q.ksFirst q.nks || rangesMeet p.brFirst p.nbr q.brFirst q.nbr || rangesMeet p.vvFirst p.nvv q.vvFirst q.nvv
      || rangesMeet p.qpFirst p.nqp q.qpFirst q.nqp || rangesMeet p.phFirst p.nph q.phFirst q.nph || rangesMeet p.epFirst p.nep q.epFirst q.nep
      || decide (p.vatMask &&& q.vatMask ≠ 0) || decide (p.sqMask &&& q.sqMask ≠ 0))
  || p.qps.any (fun q => (s.qp q).owner.isSome) || p.epsL.any (fun e => (s.ep e).owner.isSome) || p.phs.any (fun h => (s.part h).owner.isSome)
  || s.arr.parts.any (fun h => decide (h.2.owner = some 0) && (bit p.sqMask h.2.sq || h.2.vats.any p.hasVat))
  || decide (262144 < (is.map (fun e => e.2.plan.nledger)).foldl (· + ·) p.nledger + (s.chan.led.filter (fun e => e.2.removed && decide (e.2.st ≠ .free) && decide (e.2.st ≠ .retired))).length)
  || decide (logUnits < (is.map (fun e => planUnits e.2.plan)).foldl (· + ·) (planUnits p))

/-- The ledger that a warm reset kept is cleared by the first INST_CREATE or EP_CREATE after it (18 R800). -/
def State.firstCreate (s : State) : State :=
  if s.inst.created then s
  else { s with inst := { s.inst with created := true }, chan := { s.chan with led := if s.pwr.warm then [] else s.chan.led } }

/-- Give instance i its plan: its resources are owned, its Vats are cleared first (R588, 08 R433). -/
def State.allot (s : State) (i : Nat) (p : Plan) : State :=
  let s1 := p.qps.foldl (fun t q => t.setQp q { owner := some i }) s
  let s2 := p.epsL.foldl (fun t e => t.setEp e { owner := some i }) s1
  let s3 := p.phs.foldl (fun t h => t.setPart h { owner := some i }) s2
  let s4 := p.vvs.foldl (fun t v => t.setVv v { ins := i }) s3
  p.vats.foldl (fun t v => t.setVat v (t.vat v).cleared) s4

/-- The dirty-page log of an instance, cleared as its backing is reserved (R616). -/
def State.clearLog (s : State) (i : Nat) : State :=
  { s with inst := { s.inst with dirty := s.inst.dirty.filter (fun e => !(decide (2 ^ 25 * i ≤ e.1) && decide (e.1 < 2 ^ 25 * (i + 1)))) } }

def execInstCreate (m : Nat) (s : State) : Out :=
  let i := s.mbInst m
  let p := s.planOf m
  .next (
    if !s.runs m 0x0202 then s
    else if i = 0 || decide ((s.ins i).st ≠ .none) then s.mbDone m scInstState []
    else if s.planBad m then s.mbDone m scPlanInvalid []
    else if s.planTaken p then s.mbDone m scPoolEmpty []
    else
      let s1 := (s.firstCreate.allot i p).clearLog i
      let s2 := s1.setIns i { st := .prepared, gen := (s.ins i).gen, plan := p, bks := s.planBuckets m, arrWt := p.arrWt }
      ({ s2 with pup := { s2.pup with maint := false } } : State).mbDone m scOk [])

def execInstTable (m : Nat) (s : State) : Out :=
  .next (
    if !s.runs m 0x0201 then s
    else if !s.liveInsts.isEmpty then s.mbDone m scInstState []
    else ({ s with inst := { s.inst with tableSize := s.mbP m 0 2, keepFull := false } } : State).mbDone m scOk [])

/-! ## Setting up resources (R592, R724, 10 R500, 09 R472) -/

/-- The instance takes set-up commands: PREPARED, or instance 0 (R583, R724). -/
def State.setupOpen (s : State) (i : Nat) : Bool := i = 0 || decide ((s.ins i).st = .prepared)

/-- Instance 0 may take a resource that no instance owns; another may take one that its plan holds (R583, R724). -/
def State.mayOwn (_ : State) (i : Nat) (owner : Option Nat) : Bool := if i = 0 then owner.isNone else decide (owner = some i)

/-- Who owns virtual vector v: the instance of its VVCFG, 0 when none holds it. -/
def State.vvOwned (s : State) (i v : Nat) : Bool := decide ((s.vv v).ins = i)

def execQpSetup (m : Nat) (s : State) : Out :=
  let i := s.mbInst m
  let f := fun o n => s.mbP m o n
  let q := f 0 4
  let x : Qp := { owner := some i, made := true, kind := f 4 1, sqlog := f 5 1, cqlog := f 6 1, sqbase := f 8 8, cqbase := f 16 8, tailptr := f 24 8, headptr := f 32 8,
                  vvec := f 40 4, ph := f 44 2, bell := (s.qp q).bell }
  .next (
    if !s.runs m 0x0203 then s
    else if !s.setupOpen i then s.mbDone m scInstState []
    else if (s.qp q).made || !s.mayOwn i (s.qp q).owner || decide (x.sqbase % 2 ^ (6 + x.sqlog) ≠ 0) || decide (x.cqbase % 2 ^ (5 + x.cqlog) ≠ 0)
      || decide (x.tailptr % 8 ≠ 0) || decide (x.headptr % 8 ≠ 0) || (decide (x.vvec ≠ vvNone) && !s.vvOwned i x.vvec)
      || (decide (x.kind = 1) && (decide ((s.part x.ph).owner ≠ some i) || s.inst.qps.any (fun e => e.2.made && decide (e.2.kind = 1) && decide (e.2.ph = x.ph)))) then s.mbDone m scPlanInvalid []
    else (s.setQp q x).mbDone m scOk [])

/-- The path descriptors of an endpoint record (10 R501). -/
def State.recPaths (s : State) (m : Nat) : List Path :=
  (List.range (s.mbP m 3 1)).map (fun k =>
    let b := 0x40 + 32 * k
    { lport := s.mbP m b 1, pflags := s.mbP m (b + 1) 1, paddr := s.mbP m (b + 2) 2, npid := s.mbP m (b + 4) 4, wwpn := s.mbP m (b + 8) 8, ip := s.mbPBytes m (b + 0x10) 16 })

/-- The mode of a port suits a type (10 R501): PCIe for 1 and 6, Ethernet for 2 and 5, Fibre Channel for 3 and 4. -/
def modeSuits (mode t : Nat) : Bool := if t = 1 || t = 6 then mode = 1 else if t = 2 || t = 5 then mode = 3 else mode = 4

/-- A Fibre Channel port would have more than 64 N_Port IDs (10 R499; log entry 84): those that the paths of its endpoints name, and those of paths ps of a
new endpoint of type t. -/
def State.tooManyIds (s : State) (t : Nat) (ps : List Path) : Bool :=
  let fc := fun t : Nat => decide (t = 3) || decide (t = 4)
  let held := s.chan.eps.flatMap (fun e => if fc e.2.typ then e.2.paths.map (fun p => (p.lport, p.npid)) else [])
  let all := (held ++ ps.map (fun p => (p.lport, p.npid))).dedup
  fc t && ps.any (fun p => decide (64 < (all.filter (fun x => decide (x.1 = p.lport))).length))

/-- 0 selects the default of a timeout (10 R500). -/
def orDefault (v d : Nat) : Nat := if v = 0 then d else v

def execEpCreate (m : Nat) (s : State) : Out :=
  let i := s.mbInst m
  let f := fun o n => s.mbP m o n
  let e := f 0 2
  let ps := s.recPaths m
  let up := fun p : Path => { p with st := if s.lostPort p.lport then PathSt.failed else if (s.port p.lport).st = 2 then PathSt.connecting else PathSt.down, failAt := s.time.start }
  let x : Endp := { owner := some i, made := true, typ := f 2 1, policy := f 6 1, devtmo := orDefault (f 8 2) 64, retest := orDefault (f 0x0A 2) 1024,
                    optmo := orDefault (f 0x0C 4) 31457280, abtmo := orDefault (f 0x10 4) 2097152, kato := orDefault (f 0x14 4) 10485760,
                    paths := ps.map up, nqn := s.mbPBytes m 320 224 }
  let s1 : State := { s with chan := { s.chan with formats := s.chan.formats.filter (fun x => decide (x.1 / 2 ^ 32 ≠ e)) } }
  .next (
    if !s.runs m 0x0204 then s
    else if !s.setupOpen i then s.mbDone m scInstState []
    else if (s.ep e).made || !s.mayOwn i (s.ep e).owner
      || ps.any (fun p => !modeSuits (s.group (p.lport / 8)).mode x.typ || decide ((s.group (p.lport / 8)).ports.length ≤ p.lport % 8)) then s.mbDone m scPlanInvalid []
    else if s.tooManyIds x.typ ps then s.mbDone m scEpUnsupported []
    else ((List.range x.paths.length).foldl (fun t k => if (x.path k).st = .connecting then t.connect e k else t) (s1.firstCreate.setEp e x)).mbDone m scOk [])

def execPartSetup (m : Nat) (s : State) : Out :=
  let i := s.mbInst m
  let h := s.mbP m 0 2
  let q := s.mbP m 2 1
  let save := s.mbP m 8 8
  let mask := s.mbP m 16 32
  let vats := (List.range 256).filter (fun v => bit mask v)
  let p := (s.ins i).plan
  let free := fun v : Nat => !s.liveInsts.any (fun e => e.2.plan.hasVat v)
  .next (
    if !s.runs m 0x0205 then s
    else if !s.setupOpen i then s.mbDone m scInstState []
    else if (s.part h).planned || !s.mayOwn i (s.part h).owner || decide (save % 4096 ≠ 0) || !isNear save || isCarve save || decide (s.nSqs ≤ q)
      || !(vats.all (fun v => decide (v < s.nVats) && (if i = 0 then free v else p.hasVat v)))
      || !(if i = 0 then !s.liveInsts.any (fun e => bit e.2.plan.sqMask q) else bit p.sqMask q) then s.mbDone m scPlanInvalid []
    else (s.setPart h { owner := some i, planned := true, sq := q, vats := vats, save := save, bell := (s.part h).bell }).mbDone m scOk [])

/-- Every queue pair, endpoint and partition handle of the plan has been set up (R724). -/
def State.planSetUp (s : State) (i : Nat) : Bool :=
  let p := (s.ins i).plan
  p.qps.all (fun q => (s.qp q).made) && p.epsL.all (fun e => (s.ep e).made) && p.phs.all (fun h => (s.part h).planned)

def execInstStart (m : Nat) (s : State) : Out :=
  let i := s.mbInst m
  .next (
    if !s.runs m 0x0206 then s
    else if i = 0 || decide ((s.ins i).st ≠ .prepared) || !s.planSetUp i then s.mbDone m scInstState []
    else (s.setIns i { s.ins i with st := .running }).mbDone m scOk [])

/-! ## Reset and removal (R620 to R626, 15 R723) -/

/-- The response of INST_RESET and INST_REMOVE (R625). -/
def State.resetResp (s : State) (i : Nat) : List Byte :=
  let c := (s.ins i).cnt
  leBytes 4 c.sqdesc ++ leBytes 4 c.sqeng ++ leBytes 4 c.sqarr ++ leBytes 4 c.sqchan ++ leBytes 4 c.unfenced ++ leBytes 4 (if s.fullConf then 0 else s.oldWork i)

/-- A reset or removal that needs no drain completes at once (R621, R623): its response is taken before the plan returns. -/
def State.resetCommand (s : State) (m : Nat) (removing : Bool) : State :=
  let i := s.mbInst m
  let x := s.ins i
  if i = 0 || x.st = .none then s.mbDone m scInstState []
  else if x.st = .draining || x.epochWait then s.mbDone m scInstBusy []
  else
    let s1 := s.beginReset i (some m) removing false
    if s1.fullConf || (s1.ins i).deferred || (s1.ins i).epochWait then s1
    else s1.mbDone m scOk (s1.resetResp i)

def execInstReset (m : Nat) (s : State) : Out := .next (if !s.runs m 0x0207 then s else s.resetCommand m false)
def execInstRemove (m : Nat) (s : State) : Out := .next (if !s.runs m 0x0208 then s else s.resetCommand m true)

/-- At an epoch boundary the drains begin that both sides of a pair have agreed on (R626); in the compact configuration the reset is complete with
it (R621). -/
def State.epochDrain (s : State) (i : Nat) : State :=
  let s1 := s.startDrain i
  match (s.ins i).drainMb with
  | some m => if s1.fullConf || (s1.ins i).deferred then s1 else s1.mbDone m scOk (s1.resetResp i)
  | none => s1

/-- A drain in the full configuration ends: the reset finishes, and the command that asked for it completes (R624). In a duplex pair this side first
tells the peer, and completes once the peer has finished too (R626; log entry 138). -/
def State.drainEnd (s : State) (i : Nat) : State :=
  let x := s.ins i
  if x.st ≠ .draining || x.deferred || x.epochWait || !s.fullConf || !s.drained i || !s.pupUp then s
  else
    let pair := decide (s.dpx.st = .paired)
    let s0 := if pair && !x.sideDone then (s.setIns i { x with sideDone := true }).twinSend 0 (doneBytes i) none else s
    if pair && !s.dpx.peerDone.contains i then s0
    else
      let s2 := s0.dropHeld i
      let resp := s2.resetResp i
      let s1 := ({ s2 with dpx := { s2.dpx with peerDone := s2.dpx.peerDone.filter (· ≠ i) } } : State).finishReset i
      match x.drainMb with
      | some m => s1.mbDone m scOk resp
      | none => s1
def execDrainComplete (i : Nat) (s : State) : Out := .next (s.live (s.drainEnd i))

/-- The bound of R624 has come: 64 epoch boundaries have passed since the acceptance, the last at tick drainAt, and after it the largest ABTMO among the
instance's endpoints in ticks (01 R40, R52). -/
def State.drainBoundDue (s : State) (i : Nat) : Bool :=
  let x := s.ins i
  let top := (x.plan.epsL.map (fun e => (s.ep e).abtmo)).foldl Nat.max 0
  decide (x.st = .draining) && !x.deferred && !x.epochWait && s.fullConf && decide (64 ≤ x.drainEp) && x.drainAt + top ≤ s.time.ticks

/-- What steps 1 to 4 of R624 have left by then is over: the Vats are clear. -/
def State.drainBound (s : State) (i : Nat) : State :=
  ((s.ins i).plan.vats.foldl (fun t v => if (t.vat v).clearing then t.setVat v (t.vat v).cleared else t) s).drainEnd i

/-- A delayed reset in the compact configuration is accepted (R622). -/
def execResetDeferredAccept (i : Nat) (s : State) : Out :=
  let x := s.ins i
  .next (
    if !x.deferred || decide (0 < s.work i (fun g => g = (x.gen + 1) % 256)) || !s.pupUp then s
    else
      let s1 := s.acceptReset i
      match x.drainMb with
      | some m => if (s1.ins i).st = .draining then s1 else s1.mbDone m scOk (s1.resetResp i)
      | none => s1)

/-- Old work of a removed instance has ended: the endpoints that it held return, whether or not its number has been created again (R623). -/
def execOldWorkEnd (i : Nat) (s : State) : Out :=
  let busy := fun e : Nat => s.chan.led.any (fun l => decide (l.2.ep = e) && decide (l.2.st ≠ .free) && decide (l.2.st ≠ .retired))
  .next (
    s.chan.eps.foldl (fun t e =>
      let planned := decide ((s.ins i).st ≠ .none) && (s.ins i).plan.epsL.contains e.1
      if decide (e.2.owner = some i) && !e.2.made && !planned && !busy e.1 then t.setEp e.1 {} else t) s)

def execInstStatus (m : Nat) (s : State) : Out :=
  let i := s.mbInst m
  let x := s.ins i
  let code := match x.st with | .none => 0 | .prepared => 1 | .running => 2 | .draining => 3 | .isolated => 4
  .next (
    if !s.runs m 0x0209 then s
    else if i = 0 then s.mbDone m scInstState []
    else s.mbDone m scOk (leBytes 1 code ++ leBytes 1 x.gen ++ [0, 0] ++ leBytes 4 (s.heldLeds i) ++ leBytes 4 (s.oldWork i)))

/-- A change of a RATE, a BURST or a WEIGHT, in effect at the next epoch boundary (R614). -/
def execInstSet (m : Nat) (s : State) : Out :=
  let i := s.mbInst m
  let x := s.ins i
  .next (
    if !s.runs m 0x020A then s
    else if x.st = .none then s.mbDone m scInstState []
    else (s.setIns i { x with pend := x.pend ++ [(s.mbP m 0 1, s.mbP m 1 1, s.mbP m 4 4)] }).mbDone m scOk [])

end Sys2Proof.Machine
end

