-- ==== Sys2Proof/Machine/Pairs.lean ====
section
/-! DEFINITION. The core-pair commands (06 R284 to R298, 15 R725, R729): status, split and join with the context block, recovery of a kept
checkpoint, RX7-compatible mode, and the clearing of the spare log. -/

namespace Sys2Proof.Machine

open Host

/-! ## What a slot is doing -/

/-- The core is in retry or sparing (R297). -/
def Core.handing (c : Core) : Bool := c.persistent || c.inRetry || c.freezes.contains .restore || c.freezes.contains .sparing

/-- The logical cores of a slot. -/
def State.slotCores (s : State) (n : Nat) : List Nat := if (s.pair n).mode = .split then [2 * n, 2 * n + 1] else [2 * n]

def State.slotBusy (s : State) (n : Nat) : Bool := (s.slotCores n).any (fun l => (s.core l).handing)

/-- An earlier command for the slot has not completed (R297). -/
def State.slotTaken (s : State) (m n : Nat) : Bool := (s.pup.taken.takeWhile (· ≠ m)).any (fun k => decide (s.mbObj k = some (.pair n)))

def State.slotOffline (s : State) (n : Nat) : Bool := (s.slotCores n).any (fun l => decide ((s.core l).run = .offline))

/-- The refusal of a core-pair command that needs the given test of the slot's mode (R297). -/
def State.pairRefusal (s : State) (m n : Nat) (mode : PairMode → Bool) : Option Nat :=
  if s.slotTaken m n || s.slotBusy n then some scPairBusy
  else if s.slotOffline n then some scPairOffline
  else if !mode (s.pair n).mode then some scPairMode
  else none

/-- PAIR_STATUS waits for the commands of the slot taken before it and then ends with OK (DESIGN CHOICE: R297 gives a second command PAIR_BUSY, R725 gives
PAIR_STATUS no status but OK; log entry 175). -/
def execPairStatus (m : Nat) (s : State) : Out :=
  let n := s.mbP m 0 1
  let p := s.pair n
  let mode := if (s.core (2 * n)).run = .offline then 3 else match p.mode with | .checked => 0 | .split => 1 | .rx7 => 2
  let ch := s.chip (n / 16)
  .next (if !s.runs m 0x0301 then s
    else s.mbDone m scOk (leBytes 1 mode ++ leBytes 1 (b2n p.suspect + 2 * b2n (s.slotBusy n)) ++ leBytes 1 (s.physPair n false) ++ leBytes 1 (s.physPair n true)
      ++ leBytes 1 (b2n ch.spareE + 2 * b2n ch.spareO)))

/-! ## The context block (R295, R296) -/

def ctxSize : Nat := 16640

/-- Raise or withdraw the halt request of procedure k for the logical cores of a slot (R267). -/
def State.haltSlot (s : State) (n k : Nat) (on : Bool) : State :=
  (s.slotCores n).foldl (fun t l => t.modCore l (fun c => if on then c.askHalt k else c.withdraw k)) s

/-- Every logical core of the slot stands halted at a sealed boundary, with no retry or sparing under way, or does not run at all. -/
def State.slotHeld (s : State) (n : Nat) : Bool :=
  (s.slotCores n).all (fun l => decide ((s.core l).run ≠ .running) && (decide ((s.core l).run ≠ .halted) || !(s.core l).handing))

/-- A hand-over of slot n by mailbox m (R267, R290, R293): refused, or it raises the halt request and waits until both halves have stopped at a
sealed boundary, then it does go and withdraws the request. -/
def State.handOver (s : State) (m n : Nat) (mode : PairMode → Bool) (pre : Option Nat) (go : State → State) : State :=
  let begun := (s.slotCores n).any (fun l => (s.core l).haltReq.contains (m + 1))
  let no := fun st : Nat => (if begun && !s.slotTaken m n then s.haltSlot n (m + 1) false else s).mbDone m st []
  match (if begun && !s.slotTaken m n then (if s.slotOffline n then some scPairOffline else none) else s.pairRefusal m n mode), pre with
  | some st, _ => no st
  | none, some st => no st
  | none, none => if s.slotHeld n then go s else if begun then s else s.haltSlot n (m + 1) true

/-- The header and slot 0 of the context block at an address, which is what PAIR_SPLIT reads (R296); none when they cannot be read
(R297). -/
def State.readCtx (s : State) (a : Nat) : Option (List Byte) :=
  if a % 256 ≠ 0 || isCarve a || isCarve (a + 0x8FF) then none
  else if !isMem a then none
  else match s.cohRead a 0x900 with | .ok bs => some bs | _ => none

/-- Every field of the header and of slot 0 is in range (R295, R296). The spec lists no ranges: those asked are VALID banks 1, an aligned PC, the reserved
words 0, PRIV below 3, IPL and RM at most 4; the reserved bytes 0x240 to 0x27F of the frame and a delay target with DLY 0 are not looked at
(DESIGN CHOICE; log entry 173). -/
def ctxOk (bs : List Byte) : Bool :=
  decide (leAt bs 0 8 = 1) && decide (leAt bs 8 8 % 4 = 0) && decide (leAt bs 0x40 8 < 2) && zeroAt bs 0x48 0xB8
  && decide (fld (leAt bs 0x308 8) 30 2 < 3) && decide (fld (leAt bs 0x308 8) 24 3 ≤ 4) && decide (fld (leAt bs 0x338 8) 10 3 ≤ 4) && zeroAt bs 0x5A8 0x358

/-- The state that O takes at a split (R291): a is E's at the checkpoint. -/
def archOfCtx (a : Arch) (bs : List Byte) : Arch :=
  let slot := bs.drop 0x100
  let w := fun o => frameW bs o
  let b := bankOfFrame { ccause := 0 } 2 slot
  { a with banks := Tab.set {} [] 0 { b with dtarget := w 0x10, cframe := maskLow 4 (frameW slot 0x4A0) ||| BitVec.ofNat 64 (leAt slot 0x4A0 8 % 4), prec := [] }, bank := 0,
           f := (List.range 32).foldl (fun m k => Tab.set 0 m k (frameW slot (0x280 + 8 * k))) [], fstat := fstatWrite 0 (frameW slot 0x238),
           fpu := bit (leAt bs 0x40 8) 0, cvbar := maskLow 13 (w 0x18), hvbar := maskLow 13 (w 0x20), ssp := maskLow 4 (w 0x28), hsp := maskLow 4 (w 0x30),
           vmask := w 0x38, vpend := 0, pc := w 8, infl := [], repLeft := none, tas := false, repStep := none, rest := [] }

/-- The address at which bank k resumes: the pc of the bank in use, else the CEPC of the bank that was entered from it, found along
the return banks from bank j (05 R215); 0 for a free bank. -/
def Arch.resumeFrom (a : Arch) (k : Nat) : Nat → Nat → Word
  | 0, _ => 0
  | n + 1, j =>
    if j = 0 then 0
    else
      let r := fld (a.bkOf j).ccause.toNat 56 3
      if r = k then (a.bkOf j).cepc else Arch.resumeFrom a k n r
def Arch.resumeOf (a : Arch) (k : Nat) : Word := if k = a.bank then maskLow 2 a.pc else a.resumeFrom k 8 a.bank

/-- Slot k of the context block of a core with its results in flight parked (R295). -/
def State.ctxSlot (s : State) (c : Core) (k : Nat) : List Byte :=
  let a := c.arch
  if a.bank < k then List.replicate 0x800 0
  else
    let b := a.bkOf k
    let dt := s.delayTarget c b (a.resumeOf k)
    let fr := padTo 0x380 (bankFrame b dt (if k = 0 then some (a.f, a.fstat) else none))
    let es := (List.range 18).map (fun j => Tab.get {} b.prec j)
    padTo 0x800 (fr ++ es.flatMap (fun e => leBytes 8 e.desc.toNat) ++ es.flatMap (fun e => leBytes 8 e.val.toNat) ++ leBytes 8 b.cframe.toNat)

/-- The context block of a kept checkpoint (R288, R296). -/
def State.ctxBlock (s : State) (c0 : Core) : List Byte :=
  let c := { c0 with arch := c0.arch.park }
  let a := c.arch
  padTo 0x100 (leBytes 8 (a.bank + 1) ++ leBytes 8 (maskLow 2 a.pc).toNat ++ leBytes 8 (s.delayTarget c a.bk a.pc).toNat ++ leBytes 8 a.cvbar.toNat ++ leBytes 8 a.hvbar.toNat ++ leBytes 8 a.ssp.toNat
    ++ leBytes 8 a.hsp.toNat ++ leBytes 8 a.vmask.toNat ++ leBytes 8 (b2n a.fpu))
  ++ (List.range 8).flatMap (fun k => s.ctxSlot c k)

/-! ## Split, join, recovery, RX7 mode -/

/-- O of slot n starts from architectural state a, with its own LCTX and watchdog (R290, R291), and with a copy of the core-private bits as E's unit holds
them: writes of E that wait in its store buffer, sealed or not, are not in it and reach E's bits alone (DESIGN CHOICE: 02 R76 and R273, R291 do not
say; log entry 167). -/
def State.startO (s : State) (n : Nat) (a : Arch) : State :=
  let o := s.core (2 * n + 1)
  s.setCore (2 * n + 1) { arch := a, run := .running, sealed := { arch := a, lctxCur := o.lctx }, bitram := (s.core (2 * n)).bitram, lctx := o.lctx, lctxCur := o.lctx, fipa := o.fipa, wdN := o.wdN }

def execPairSplit (m : Nat) (s : State) : Out :=
  let n := s.mbP m 0 1
  let ctx := (s.readCtx (s.mbP m 8 8)).filter ctxOk
  .next (
    if !s.runs m 0x0302 then s
    else s.handOver m n (fun x => decide (x = .checked)) (if ctx.isNone then some scCtxFault else none) (fun t =>
      let e := (t.core (2 * n)).withdraw (m + 1)
      let s1 := ((t.setCore (2 * n) e).startO n (archOfCtx e.arch (ctx.getD []))).setPair n { t.pair n with mode := .split }
      s1.erRecheckAll.mbDone m scOk []))

/-- Every store of the half has left the store buffer (R293). -/
def Core.storesOut (c : Core) : Bool := c.sb.isEmpty

def execPairJoin (m : Nat) (s : State) : Out :=
  let n := s.mbP m 0 1
  .next (
    if !s.runs m 0x0303 then s
    else s.handOver m n (fun x => decide (x = .split)) none (fun t =>
      let e := t.core (2 * n)
      let o := t.core (2 * n + 1)
      if !(e.storesOut && o.storesOut) then t
      else
        let s1 := (t.setCore (2 * n) (e.withdraw (m + 1))).setCore (2 * n + 1) { lctx := o.lctx, lctxCur := o.lctxCur, fipa := o.fipa, wdN := o.wdN }
        (s1.setPair n { t.pair n with mode := .checked }).mbDone m scOk (leBytes 8 o.arch.vpend.toNat)))

/-- Write the checkpoint that the Press keeps of an offline core (R288, R296); the address must be one that software may write. Of a split slot with both
halves offline E's is written (DESIGN CHOICE: the command names the slot alone; log entry 174). -/
def execPairRecover (m : Nat) (s : State) : Out :=
  let n := s.mbP m 0 1
  let a := s.mbP m 8 8
  .next (
    if !s.runs m 0x0304 then s
    else if s.slotTaken m n || s.slotBusy n then s.mbDone m scPairBusy []
    else
      match (s.slotCores n).find? (fun l => decide ((s.core l).run = .offline)) with
      | none => s.mbDone m scPairMode []
      | some l =>
        if a % 256 ≠ 0 || !isMem a || isCarve a || isCarve (a + ctxSize - 1) || !s.backed a || !s.backed (a + ctxSize - 1) then s.mbDone m scCtxFault []
        else (s.agentWrite a (s.ctxBlock (s.core l))).mbDone m scOk [])

/-- RX7-compatible mode is entered only from checked mode, and left only to it (R298). -/
def execPairSetRx7 (m : Nat) (s : State) : Out :=
  let n := s.mbP m 0 1
  let on := decide (s.mbP m 1 1 = 1)
  .next (
    if !s.runs m 0x0305 then s
    else s.handOver m n (fun x => if on then decide (x = .checked) else decide (x = .rx7)) none (fun t =>
      ((t.haltSlot n (m + 1) false).setPair n { t.pair n with mode := if on then .rx7 else .checked, lead := 0 }).mbDone m scOk []))

/-! ## The spare log (R284, R287, 15 R729) -/

/-- An excluded half of chiplet c that passes BIST takes its place again, and its spare is free. -/
def State.freeHalf (s : State) (c h : Nat) : State :=
  let ch := s.chip c
  let n := 16 * c + h / 2
  let o := decide (h % 2 = 1)
  if !ch.excluded.contains h then s
  else
    (s.setPair n (if o then { s.pair n with repO := false } else { s.pair n with repE := false })).setChip c
      { (if o then { ch with spareO := true } else { ch with spareE := true }) with excluded := ch.excluded.filter (· ≠ h) }

/-- In a maintenance window every excluded half of the chiplet is tested; pass lists those that pass. -/
def execSpareClear (m : Nat) (pass : List Nat) (s : State) : Out :=
  let c := s.mbP m 0 1
  let hs := (s.chip c).excluded.filter pass.contains
  .next (
    if !s.runs m 0x0306 then s
    else if !s.pup.maint then s.mbDone m scMaintOnly []
    else
      let s1 := hs.foldl (fun t h => t.freeHalf c h) s
      let s2 := (rangeFrom (16 * c) 16).foldl (fun t n => t.setPair n { t.pair n with suspect := false }) s1
      s2.mbDone m scOk (leBytes 1 hs.length))

end Sys2Proof.Machine
end

