-- ==== Sys2Proof/Machine/Perf.lean ====
section
/-! DEFINITION. Counter snapshots (17 R782 to R786). -/

namespace Sys2Proof.Machine

/-- n counters, each with the count of the events before the boundary (R773, R783); all 0 for a resource that is absent. -/
def State.latch (key : Nat → Nat) : Nat → State → List Byte × State
  | 0, s => ([], s)
  | n + 1, s =>
    let (bs, t) := State.latch key n s
    let u := t.pmAdvance (key n)
    (bs ++ leBytes 8 (Tab.get 0 u.perf.vals (key n)).toNat, u)

/-- The counters of a unit, absent or not. -/
def State.latchIf (ok : Bool) (key : Nat → Nat) (n : Nat) (s : State) : List Byte × State :=
  if ok then s.latch key n else (List.replicate (8 * n) 0, s)

/-- The counters of pair n; 174 and 175 read 0 (R774). -/
def State.pairCounters (n : Nat) (s : State) : List Byte × State :=
  let (bs, t) := s.latchIf (s.slotExists n) (perfKey n) 174
  (bs ++ List.replicate 16 0, t)

/-- Units one after another. -/
def State.latchAll (f : Nat → State → List Byte × State) : Nat → State → List Byte × State
  | 0, s => ([], s)
  | n + 1, s =>
    let (bs, t) := State.latchAll f n s
    let (cs, u) := f n t
    (bs ++ cs, u)

/-- The slot after SEQ: DTIME, QUAL and every counter (R784). -/
def State.snapBody (s : State) : List Byte × State :=
  let (a, s1) := State.latchAll State.pairCounters 64 s
  let (b, s2) := State.latchAll (fun a t => t.latchIf (t.fuse.big || decide (a < 3)) (fun i => 0xA10000 + 0x1000 * a + 8 * i) 96) 4 s1
  let (c, s3) := s2.latch (fun i => 0xA00000 + 8 * i) 512
  let (d, s4) := State.latchAll (fun n t => t.latch (fun i => 0xA20000 + 0x200 * n + 8 * i) 24) 16 s3
  let (e, s5) := State.latchAll (fun n t => t.latch (fun i => 0xA22000 + 0x200 * n + 8 * i) 24) 8 s4
  (leBytes 8 s.time.dtime.toNat ++ leBytes 8 s.time.qual ++ List.replicate 40 0 ++ a ++ b ++ c ++ d ++ e ++ List.replicate 0x71C0 0, s5)

/-- A slot at address a: every other byte first, and the SEQ word last (R784). -/
def State.snapWrite (s : State) (a q : Nat) : State :=
  let (bs, t) := s.snapBody
  (t.agentWrite (a + 8) bs).agentWrite a (leBytes 8 q)

/-- A snapshot is due at this boundary: it goes to its slot, or is skipped with FAULT (R782, R783). -/
def State.snapDue (s : State) : Bool :=
  s.perf.snapEn && s.time.atEpoch && !s.perf.snapped && decide (s.time.dtime.toNat / 1024 % s.perf.interval = 0) && !s.moduleStopped
def State.snapshot (s : State) : State :=
  let p := { s.perf with snapped := true }
  let q := p.seq + 1
  let a := p.base.toNat + 2 ^ 17 * ((q - 1) % p.nslot)
  if carveLo < a + 2 ^ 17 then { s with perf := { p with fault := true } }
  else ({ s with perf := { p with seq := q } } : State).snapWrite a q
def execCounterSnapshot (s : State) : Out := .next (if s.snapDue then s.snapshot else s)

end Sys2Proof.Machine
end

