-- ==== Sys2Proof/Machine/Upkeep.lean ====
section
/-! DEFINITION. The upkeep of the memories (13): the patrol scrub of near memory, and the sweep of the on-chip
memories with its soft-fuse repairs. -/

namespace Sys2Proof.Machine

/-! ## The patrol scrub (R643 to R646) -/

/-- A report of the scrubber about a stripe. -/
def payScrub (cls : BitVec 3) (cc st : Nat) : Payload := payAgent cls 7 cc 0 (640 * st) 0 0x0C

/-- What the physics of the parts brings, as SCRUB_STEP carries it (log entry 118). (x, p) with p up to 12: the symbol at position p of codeword x mod 32 is in error,
in the scrubbed stripe st when x div 32 is 0, else in stripe x div 32 - 1; p = 13: the data link CRC of device x has failed on 4 retries of a transfer
(R635); p = 14, and above: the next fetch, and every fetch, of the far block at 256 × x fails its check or comes as a poisoned response (R653). -/
def State.bring (s : State) (cc st : Nat) (e : Nat × Nat) : State :=
  if e.2 ≤ 12 then
    let t := if e.1 / 32 = 0 then st else e.1 / 32 - 1
    if t < 2 ^ 27 && !(s.errsOf t).contains (e.1 % 32, e.2) then { s with mem := { s.mem with errs := Tab.set [] s.mem.errs t (s.errsOf t ++ [(e.1 % 32, e.2)]) } } else s
  else if e.2 = 13 then (if e.1 < 24 then s.markDev e.1 2 { pay clDE with unit := 7, msub := BitVec.ofNat 8 cc } else s)
  else if isFar (256 * e.1) then { s with mem := { s.mem with farFail := Tab.set 0 s.mem.farFail e.1 (e.2 - 13) } }
  else s

/-- A scrub reads and decodes a stripe and writes it back, corrected or poisoned (R643, R644). -/
def State.scrubStripe (s : State) (cc st : Nat) : State := (s.settleStripe st).decodeRep st (s.errsOf st) (fun c => payScrub c cc st)

/-- Code channel cc has still to scrub a stripe at this boundary, one in every 5 epochs (R643, 01 R53). -/
def State.scrubDue (s : State) (cc : Nat) : Bool :=
  s.mem.scrubOn && !s.moduleStopped && s.time.atEpoch && decide (s.mem.scrubPh = 0) && !s.mem.scrubbed.contains cc
/-- A code channel scrubs its next stripe, with the errors that have come (R643, R644); a pass is counted as that of code channel 0 ends. -/
def State.scrubStep (s : State) (cc : Nat) (errs : List (Nat × Nat)) : State :=
  let k := Tab.get 0 s.mem.cursor cc
  let s1 := (errs.foldl (fun t e => t.bring cc (8 * k + cc) e) s).scrubStripe cc (8 * k + cc)
  let k1 := (k + 1) % 2 ^ 24
  { s1 with mem := { s1.mem with cursor := Tab.set 0 s1.mem.cursor cc k1, passes := if k1 = 0 && cc = 0 then s1.mem.passes + 1 else s1.mem.passes,
                                 scrubbed := s1.mem.scrubbed ++ [cc] } }
def execScrubStep (cc : Nat) (errs : List (Nat × Nat)) (s : State) : Out := .next (if s.scrubDue cc then s.scrubStep cc errs else s)

/-! ## On-chip memories (R656 to R663) -/

/-- The memories of the sweep: L3, plane memory, frame buffer, shared bit RAM, core-private bit RAM, ledger cache. -/
inductive SweepMem where
  | l3 | plane | frame | shared | priv | ledger
deriving DecidableEq, Repr

/-- Sweep unit u as a memory and a number within it: 0 to 3 L3, 4 to 259 Vats, 260 frame buffer, 261 shared bit RAM, 262 to 397 the
physical cores, 398 ledger cache (log entry 53). -/
def sweepUnit (u : Nat) : SweepMem × Nat :=
  if u < 4 then (.l3, u) else if u < 260 then (.plane, u - 4) else if u = 260 then (.frame, 0) else if u = 261 then (.shared, 0)
  else if u < 398 then (.priv, u - 262) else (.ledger, 0)

/-- Regions of a unit, regions of one macro, and spare columns of a macro (R658). -/
def SweepMem.regions : SweepMem → Nat
  | .l3 => 32768 | .plane => 128 | .frame => 16384 | .shared => 512 | .priv => 2 | .ledger => 2048
def SweepMem.perMacro : SweepMem → Nat
  | .l3 => 64 | .plane => 2 | .frame => 64 | .shared => 16 | .priv => 2 | .ledger => 64
def SweepMem.spares : SweepMem → Nat
  | .l3 => 4 | .plane => 2 | .frame => 4 | .shared => 2 | .priv => 2 | .ledger => 4

/-- The Rind source of a unit (14 R686); a core-private bit RAM's is that of the checkpoint store, banks and sparing, whose CE is shipped at L2 (R662;
DEDUCED; log entry 177). -/
def sweepSrc (m : SweepMem) (k : Nat) : Nat :=
  match m with
  | .l3 => 612 + k | .plane => 624 + k | .frame => 1058 | .shared => 1106 | .priv => 4 * k + 3 | .ledger => 1057

/-- The part has what unit u sweeps (00 R4, R5). -/
def State.sweepExists (s : State) (u : Nat) : Bool :=
  match sweepUnit u with
  | (.plane, k) => decide (k < s.nVats)
  | (.priv, k) => s.fuse.big || decide (k % 34 / 2 < 12) || decide (k % 34 / 2 = 16)
  | _ => decide (u < 399)

/-- The way of an L3 that holds a failing column (R658, log entry 54). -/
def badWay (col : Nat) : Nat := col % 32

/-- Disable a way of the L3 of chiplet c: its dirty lines go to memory (07 R347). -/
def State.disableWay (s : State) (c w : Nat) : State :=
  let ls := (s.chip c).l3.lines.filter (fun e => decide (e.1 % 32 = w))
  let s1 := ls.foldl (fun t e => match e.2 with | some l => if l.dirty then t.writeLine l.num (lineBytes l.data) else t | none => t) s
  let ch := s1.chip c
  s1.setChip c { ch with l3 := { ch.l3 with lines := ch.l3.lines.filter (fun e => decide (e.1 % 32 ≠ w)) }, l3off := if ch.l3off.contains w then ch.l3off else ch.l3off ++ [w] }

/-- What is done when no spare column is left (R658). Entries of a disabled macro of the ledger cache are served from near memory: what a read of the
ledger gives is the same. -/
def State.noSpare (s : State) (m : SweepMem) (k col mac : Nat) : State :=
  let off := fun l : List Nat => if l.contains mac then l else l ++ [mac]
  match m with
  | .l3 => s.disableWay k (badWay col)
  | .frame => { s with chan := { s.chan with macroOff := off s.chan.macroOff } }
  | .ledger => { s with mem := { s.mem with ledOff := off s.mem.ledOff } }
  | _ => s

/-- The macro of a region of unit u, as the repair log names it. -/
def macroOf (u r : Nat) : Nat := 2 ^ 16 * u + r / (sweepUnit u).1.perMacro

/-- A sweep unit tests its next region, one in an epoch and at its boundary (R657 to R662, 01 R52, R53). -/
def State.sweepDue (s : State) (u : Nat) : Bool :=
  !s.moduleStopped && s.sweepExists u && s.time.atEpoch && !(Tab.get {} s.mem.sweep u : SweepUnit).stepped
def State.sweepStep (s : State) (u : Nat) (r : SweepResult) : State :=
  let x : SweepUnit := Tab.get {} s.mem.sweep u
  let (m, k) := sweepUnit u
  let nxt := (x.region + 1) % m.regions
  let pay7 := fun cls : BitVec 3 => { pay cls with atype := 0x0C, unit := 7, msub := BitVec.ofNat 8 k }
  let s1 : State := { s with mem := { s.mem with sweep := Tab.set {} s.mem.sweep u { region := nxt, passes := if nxt = 0 then x.passes + 1 else x.passes, stepped := true } } }
  match r with
  | .clean => s1
  | .abandoned => s1.report (sweepSrc m k) (pay7 clDE)
  | .badColumn col =>
    let mac := macroOf u x.region
    let used := ((s.mem.softFuse ++ s.mem.committed).filter (fun e => decide (e.1 = mac))).length
    if used < m.spares then ({ s1 with mem := { s1.mem with softFuse := s1.mem.softFuse ++ [(mac, col)] } } : State).report (sweepSrc m k) (pay7 clCE)
    else (s1.noSpare m k col mac).report (sweepSrc m k) (pay7 clDE)
def execSweepStep (u : Nat) (r : SweepResult) (s : State) : Out := .next (if s.sweepDue u then s.sweepStep u r else s)

end Sys2Proof.Machine
end

