-- ==== Sys2Proof/Machine/Power.lean ====
section
/-! DEFINITION. Power, the two resets, bring-up and the thermal pins (18). -/

namespace Sys2Proof.Machine

/-! ## Rails, sleep and wake (R787 to R796) -/

/-- Every rail is good. -/
def PwrSt.allGood (p : PwrSt) : Bool := p.badRails.isEmpty
/-- Neither reset is asserted. -/
def PwrSt.released (p : PwrSt) : Bool := !p.coldLow && !p.warmLow

/-- Rail j has stayed in range for 100 µs; with every rail good the wake latch clears, and the outputs are no longer held (R790, R794). -/
def execRailGood (j : Nat) (s : State) : Out :=
  let bad := s.pwr.badRails.filter (· ≠ j)
  let p := { s.pwr with badRails := bad }
  .next (if !bad.isEmpty then { s with pwr := p }
    else { s with pwr := { p with wake := false, pwrReq := false, safe := !p.released || p.faulted || s.moduleStopped } })

/-- Rail j leaves its range for 2 µs (R791). A rail that is removed while COLD_RST_N is low makes no report. -/
def execRailFault (j : Nat) (s : State) : Out :=
  let s1 : State := { s with pwr := { s.pwr with badRails := if s.pwr.badRails.contains j then s.pwr.badRails else j :: s.pwr.badRails, safe := true } }
  let s2 : State := { s1 with pwr := { s1.pwr with faulted := true } }
  .next (
    if 9 ≤ j || s.pwr.badRails.contains j then s
    else if s.pwr.coldLow || s.pwr.faulted then s1
    else if j = 3 || j = 8 then s2.stopModule
    else s2.report (1112 + j) (pay clFD))

/-- VSTBY is lost (R792, R794). -/
def execVstbyLoss (s : State) : Out :=
  let s1 : State := { s with pwr := { s.pwr with badRails := 9 :: s.pwr.badRails, wake := false, pwrReq := false } }
  .next (if s.pwr.badRails.contains 9 then s else if s.pwr.allGood then s1.report 1121 (pay clDE) else s1)

/-- WAKE_N has been low for 10 µs (R794). -/
def execWake (s : State) : Out :=
  .next (if s.pwr.allGood || s.pwr.badRails.contains 9 then s else { s with pwr := { s.pwr with wake := true, pwrReq := true } })

/-! ## The resets (R797 to R803) -/

/-- The part of the Puppeteer that its flash and the straps keep (15 R701, R704). -/
def PupSub.keepFlash (p : PupSub) : PupSub :=
  { active := p.active, bootTrial := p.bootTrial, tried := p.tried, bootSeq := p.bootSeq, imgA := p.imgA, imgB := p.imgB, preA := p.preA, preB := p.preB,
    smbAddr := p.smbAddr }

/-- The spare log: which half the spare carries, and the suspect mark (06 R287). -/
def Pair.keepLog (p : Pair) : Pair := { suspect := p.suspect, repE := p.repE, repO := p.repO }
def Chip.keepLog (c : Chip) : Chip := { spareE := c.spareE, spareO := c.spareO, excluded := c.excluded, l3off := c.l3off }
/-- The memory log (13 R638). -/
def NmDev.keepLog (d : NmDev) : NmDev := { marked := d.marked, reason := d.reason }

/-- Memory after a reset: far memory stays as its devices hold it; near memory stays when it is kept; the repair log is applied. -/
def MemSt.afterReset (m : MemSt) (keepNear : Bool) : MemSt :=
  { near := if keepNear then m.near else [], poison := if keepNear then m.poison else [], errs := if keepNear then m.errs else [], far := m.far, farPoison := m.farPoison, farFail := m.farFail,
    devs := m.devs.foldl (fun t e => Tab.set {} t e.1 e.2.keepLog) [], softFuse := m.softFuse, ledOff := m.ledOff, committed := m.committed }

/-- What the module knows of its peer. -/
def DpxSub.keepPeer (d : DpxSub) : DpxSub :=
  { peerFil := d.peerFil, peerCxl := d.peerCxl, peerBig := d.peerBig, peerFar := d.peerFar, peerInsts := d.peerInsts, peerTable := d.peerTable, peerSimplex := d.peerSimplex,
    peerVer := d.peerVer }

/-- The module in reset: everything at its reset value but what R800 keeps. -/
def State.inReset (s : State) (keepNear : Bool) : State :=
  { State.reset with
    pairs := s.pairs.foldl (fun t e => Tab.set {} t e.1 e.2.keepLog) [],
    chips := s.chips.foldl (fun t e => Tab.set {} t e.1 e.2.keepLog) [],
    mem := s.mem.afterReset keepNear, pup := s.pup.keepFlash, fuse := s.fuse, dpx := s.dpx.keepPeer, chan := { macroOff := s.chan.macroOff }, pwr := s.pwr,
    freeCtr := s.freeCtr, pending := s.pending }

/-- COLD_RST_N falls (R798). -/
def execColdReset (s : State) : Out :=
  let t := s.inReset false
  .next { t with pwr := { s.pwr with coldLow := true, safe := true, therm := false, selfRefresh := false, warm := false, warmValid := false, vddCore := 800 },
                 pup := { t.pup with cold := true } }

/-- A ledger entry that a warm reset keeps: nothing more is sent or completed for it (R800). -/
def Led.frozen (e : Led) : Led := { e with drain := true, aborts := [], closing := [], waiting := false, pendStatus := none }

/-- The twin link after a warm reset: a joiner keeps its cursor and is copied on; else the module is not paired (R764, R800). -/
def DpxSub.afterWarm (d : DpxSub) (valid : Bool) : DpxSub :=
  let k := { d.keepPeer with cursor := if valid then d.cursor else 0, bitmap := if valid then d.bitmap else [] }
  if d.joiner && valid then { k with st := .pairing, sideB := d.sideB, bnds := [(0, { st := 1 }), (1, { st := 1 })], credits := (List.range 4).map (fun v => (v, vcBuffer v)) } else k

/-- WARM_RST_N falls (R799 to R803). Before near memory has been trained, near memory, the Rind log and the cursor are not kept. -/
def execWarmReset (s : State) : Out :=
  let valid := s.mem.trained
  let t := s.inReset valid
  .next (
    if !s.pwr.allGood || s.pwr.coldLow then s
    else
      { t with
        rind := if valid then { log := s.rind.log, nextSeq := s.rind.nextSeq } else {},
        chan := { t.chan with led := if !valid then [] else s.chan.led.map (fun e => (e.1, if e.2.st = .free || e.2.st = .retired then e.2 else e.2.frozen)) },
        dpx := s.dpx.afterWarm valid, perf := { seq := s.perf.seq },
        pup := { t.pup with cold := false },
        pwr := { s.pwr with warmLow := true, safe := true, therm := false, selfRefresh := true, warm := true, warmValid := valid } })

/-! ## Bring-up (R804 to R806) -/

/-- A reset is released; hotTrip: some sensor is at or above TjMAX, so that THERMTRIP_N stays latched (R809). -/
def execBringup (hotTrip : Bool) (s : State) : Out :=
  let p := s.pwr
  let p1 := if p.coldLow then { p with coldLow := false, warmLow := false, faulted := false, tripped := p.tripped && hotTrip } else { p with warmLow := false }
  .next (if p.released then s else { s with time := {}, pwr := { p1 with safe := !p.allGood || p1.faulted } })

/-- The first MiB of near memory: the host loader, then zeros; its stripes read without poison (R804, 13 R641). -/
def MemSt.loadHost (m : MemSt) (loader : List Byte) : MemSt :=
  let top := 2 ^ 20
  { m with
    errs := m.errs.filter (fun e => decide (1638 < e.1)),
    near := Tab.setMany 0 [] 0 (loader.take top) ++ m.near.filter (fun e => decide (top ≤ e.1)),
    poison := m.poison.filterMap (fun e =>
      if e.1 < 1638 then none
      else if e.1 = 1638 then (match e.2 with | some k => if (k ||| 3) % 32 = 31 then none else some (e.1, some (k ||| 3)) | none => none)
      else some e) }

/-- Every logical core starts (R805). -/
def State.startCores (s : State) : State :=
  (List.range 64).foldl (fun t n => if t.slotExists n then t.setCore (2 * n) { run := .running } else t) s

/-- Near memory has been trained; badDevs: the devices that failed training (13 R635). The loader is written and the cores start. -/
def execNearMemoryTrained (badDevs : List Nat) (loader : List Byte) (s : State) : Out :=
  let s1 := (badDevs.filter (· < 24)).foldl (fun t d => t.markDev d 1 { pay clDE with unit := 0x0A }) s
  let (w, s2) := s1.draw
  let m := s2.mem.loadHost loader
  .next (
    if s.pup.st ≠ .bringup || s.mem.trained || !s.pwr.released || s.moduleStopped then s
    else if s1.moduleStopped then s1
    else
      ({ s2 with
        mem := { m with trained := true, scrubOn := true, scrubPh := 0, scrubbed := List.range 8, cursor := [], passes := 0 },
        pup := { s2.pup with st := .serving, maint := s2.pup.cold },
        pwr := { s2.pwr with selfRefresh := false, warmValid := true, vddCore := 600 + w.toNat % 301 } } : State).startCores)

/-! ## Temperature (R809) -/

/-- A thermal report: the chiplet and the temperature in SYND. -/
def State.thermal (s : State) (src : Nat) (cls : BitVec 3) (chip deg : Nat) : State :=
  s.report src { pay cls with synd := BitVec.ofNat 128 (chip % 256 + deg % 65536 * 256) }

def execThermalWarning (chip deg : Nat) (s : State) : Out :=
  .next (if s.pwr.therm then s else ({ s with pwr := { s.pwr with therm := true } } : State).thermal 1122 clDE chip deg)

def execThermalWarningRelease (s : State) : Out := .next { s with pwr := { s.pwr with therm := false } }

def execThermalTrip (chip deg : Nat) (s : State) : Out :=
  .next (if s.pwr.tripped then s else ({ s with pwr := { s.pwr with tripped := true } } : State).thermal 1123 clFD chip deg)

end Sys2Proof.Machine
end

