-- ==== Sys2Proof/Machine/Tick.lean ====
section
/-! DEFINITION. One tick of device time (01 R33, R52): what happens on an empty queue (log entry 2). -/

namespace Sys2Proof.Machine

/-- The watchdog of a core at an epoch boundary (15 R706). The epochs of a sparing pause and of a halt are not counted (06 R267, R286). -/
def Core.wdEpoch (c : Core) : Core :=
  if c.wdN = 0 then c
  else if c.kick then { c with kick := false, wdCnt := 0 }
  else if c.freezes.contains .sparing || c.run = .halted then c
  else { c with wdCnt := c.wdCnt + 1 }

/-- A sequencer at an epoch boundary: its job's epoch count (09 R482), and how long its partition has run (12 R613). -/
def Sequencer.epoch (q : Sequencer) : Sequencer :=
  { q with ran := if q.used then q.ran + 1 else q.ran,
           epochs := if q.job.isSome && (q.st = .progload || q.st = .run || q.st = .wait) then q.epochs + 1 else q.epochs }

/-- One change of INST_SET takes effect (12 R614): class, parameter, value. -/
def Inst.applySet (x : Inst) (p : Nat × Nat × Nat) : Inst :=
  if p.1 = 5 then { x with arrWt := p.2.2 }
  else
    let b : Bucket := Tab.get {} x.bks p.1
    { x with bks := Tab.set {} x.bks p.1 (match p.2.1 with
      | 0 => { b with rate := p.2.2 }
      | 1 => { b with burst := p.2.2 }
      | _ => { b with weight := p.2.2 }) }

/-- An instance at an epoch boundary: the changes of INST_SET that wait for it, and the epochs of a drain (12 R624); now: the tick. -/
def Inst.epoch (x : Inst) (now : Nat) : Inst :=
  let y : Inst := { x.pend.foldl Inst.applySet x with pend := [] }
  if y.st = .draining ∧ y.drainEp < 64 then { y with drainEp := y.drainEp + 1, drainAt := now } else y

/-- The Puppeteer's watchdog counts an epoch without service (15 R697). -/
def PupSub.epoch (p : PupSub) (up : Bool) : PupSub := if up then { p with unserved := p.unserved + 1 } else p

/-- The upkeep of the memories at an epoch boundary: its steps can be made, those of the scrub at every fifth (13 R643, R657). -/
def MemSt.epoch (m : MemSt) : MemSt :=
  { m with sweep := m.sweep.map (fun e => (e.1, { e.2 with stepped := false })), scrubPh := (m.scrubPh + 1) % 5, scrubbed := [] }

/-- An epoch boundary. -/
def State.epoch (s : State) : State :=
  let s1 := s.cores.foldl (fun t e => t.setCore e.1 e.2.wdEpoch) s
  let s2 := s1.arr.seqs.foldl (fun t e => t.setSq e.1 e.2.epoch) s1
  let s3 := s2.inst.insts.foldl (fun t e => if e.2.pend.isEmpty && decide (e.2.st ≠ .draining) then t else t.setIns e.1 (e.2.epoch s.time.ticks)) s2
  let s4 : State := { s3 with mem := s3.mem.epoch, dpx := { s3.dpx with copied := false } }
  let s5 : State := { s4 with pup := s4.pup.epoch s4.pupUp }
  s5.inst.insts.foldl (fun t e => if e.2.epochWait then t.epochDrain e.1 else t) s5

/-- An epoch boundary at which nothing has been done yet. -/
def State.beginEpoch (s : State) : State :=
  ({ s with inst := { s.inst with refilled := false }, perf := { s.perf with snapped := false } } : State).epoch

/-- Within a tick O of a slot in RX7-compatible mode closes the gap to E and consumes the log (06 R298, R299; log entry 131). -/
def State.rxClose (s : State) : State :=
  let ns := (s.pairs.filter (fun e => decide (e.2.mode = .rx7))).map (·.1)
  ns.foldl (fun t n => (t.setPair n { t.pair n with lead := 0 }).modCore (2 * n) (fun c => { c with rlog := [] })) s

/-! ## What a tick must not omit (01 R53) -/

/-- The DEV accesses of core l whose timeout has come end as errors (07 R341); n bounds them. -/
def State.devDue (l : Nat) : Nat → State → State
  | 0, s => s
  | n + 1, s =>
    let ds := (s.core l).devOut
    match ds.zipIdx.find? (fun p => decide (p.1.sent + 1 + p.1.tmo ≤ s.time.ticks) && !(ds.take p.2).any (fun e => decide (e.ep = p.1.ep))) with
    | some p => State.devDue l n (s.devDone l p.2 none)
    | none => s

/-- For each of ks, in order, the action when it is due. -/
def State.eachDue (ks : List Nat) (due : State → Nat → Bool) (act : State → Nat → State) (s : State) : State :=
  ks.foldl (fun t k => if due t k then act t k else t) s

/-- The timeouts of the channel subsystem (10 R528): operations, waits for a path, aborts and path retests; then what waits for a path is sent on one that
carries, of several that became able to in one tick the lowest-numbered (10 R518). -/
def State.chanDue (s : State) : State :=
  let leds := s.chan.led.map (·.1)
  let eps := s.chan.eps.map (·.1)
  let s1 := (s.eachDue leds State.opDue State.opTimeout).eachDue leds State.waitDue State.waitExpiry
  let s2 := s1.eachDue leds State.abortDue State.abortTimeout
  let s3 := eps.foldl (fun t e => (List.range (t.ep e).paths.length).foldl (fun u k => if u.retestDue e k then u.retest e k else u) t) s2
  s3.eachDue eps (fun t e => !(t.ep e).carriers.isEmpty) State.wakeEp

/-- What acts at an epoch boundary, or counts epochs: watchdogs, limits of array jobs, turns of partitions, scrub and sweep steps, the copy of
re-pairing, the windows of engine jobs, and the bound of a drain (01 R52, 13 R643, 16 R761). Two events of R52 are not forced, since what they wait for is told by no other command of the table: AGREED_INPUT_DELIVERY and
PUPPETEER_WATCHDOG_EXPIRY (log entry 11). -/
def State.epochDue (s : State) : State :=
  let qs := s.arr.seqs.map (·.1)
  let is := s.inst.insts.map (·.1)
  let s1 := s.eachDue (s.cores.map (·.1)) State.wdDue State.wdReport
  let s2 := s1.eachDue qs State.limitDue State.limitEnd
  let s3 := s2.eachDue qs State.switchDue (fun t q => match t.nextPart q with | some ph => t.beginSwitch q ph | none => t)
  let s4 := (s3.eachDue (List.range 8) State.scrubDue (fun t k => t.scrubStep k [])).eachDue (List.range 399) State.sweepDue (fun t u => t.sweepStep u .clean)
  let s5 := if s4.copyDue then s4.repairCopy else s4
  (s5.eachDue is (fun t i => !t.moduleStopped && t.windowOver i) State.windowEnd).eachDue is State.drainBoundDue State.drainBound

/-- The heads of full rings are read (12 R601): held completions are written, and refused descriptors that a full ring has held back complete (12 R598). -/
def State.ringsDue (s : State) : State :=
  (s.inst.qps.map (·.1)).foldl (fun t q =>
    let t1 := if (t.qp q).waitC.isEmpty then t else t.poll q
    if t1.canTake q then t1.skipRefused q else t1) s

/-- What was scheduled for the present tick and has not been done is done before the next one comes. -/
def State.doDue (s : State) : State :=
  let s1 := if s.refillDue then ({ s with inst := { s.inst with refilled := true } } : State).refill else s
  let s2 := if s1.snapDue then s1.snapshot else s1
  let s3 := (s2.inst.vvs.map (·.1)).foldl (fun t v => if (t.vv v).deferred && (t.vv v).next ≤ t.time.ticks then (t.setVv v { t.vv v with deferred := false }).vvGive v (t.vv v).dest else t) s2
  let s4 := s3.cores.foldl (fun t e => State.devDue e.1 e.2.devOut.length t) s3
  let s5 := if s4.moduleStopped then s4 else (s4.atEdge State.chanDue).epochDue
  let s6 := if s5.moduleStopped then s5.flushFound else s5.flushFound.ringsDue
  if s6.markDue then s6.batchMark else s6

/-- What remains of a source's last offset once the loop has removed k ns. -/
def SrcMeas.less (m : SrcMeas) (k : Int) : SrcMeas := if m.offs.isEmpty then m else { m with left := m.left - k }

/-- The loop removes the offset that remains over one tick (01 R35, R38). Device time runs at exactly 0.9999 or 1.0001 of the reference's rate while it slews,
until 1 ms remains: a tick then lasts 2^-20 s / 0.9999 or / 1.0001 and removes 1/10,000 of that, 1,953,125 in the unit of removed. Otherwise it removes at most what
20 ppm do, as much as the free value w says. In holdover, and with no source, nothing is removed (R49). -/
def TimeSt.correct (t : TimeSt) (w : Word) : TimeSt :=
  let o := t.dtofs.toInt
  if t.hold || decide (t.phsrc = 0) || decide (o = 0) then t
  else
    let unit := 2048 * (if o < 0 then 9999 else 10001)
    let top := 1953125 * (if o < 0 then 9999 else 10001) / (if o < 0 then 49999 else 50001)
    let acc := t.removed + (if t.slew then 1953125 else w.toNat % (top + 1))
    let n := Nat.min (acc / unit) (o.natAbs - (if t.slew then 1000000 else 0))
    let k : Int := if o < 0 then -(n : Int) else n
    { t with removed := acc % unit, dtofs := BitVec.ofInt 64 (o - k), pps := t.pps.less k, ptp := t.ptp.less k }

/-- DTIME advances by one tick (01 R31, R39), once all that the present tick had scheduled has taken place (R53). -/
def State.tick (s : State) : State :=
  let s0 := s.doDue.rxClose
  let (w, s1) := if s0.time.dtofs = 0 then ((0 : Word), s0) else s0.draw
  let t := s1.time.correct w
  let s2 : State := { s1 with time := { t with dtime := t.dtime + 1, ticks := t.ticks + 1 }, dpx := { s1.dpx with marked := false } }
  if s2.time.atEpoch then s2.beginEpoch else s2

end Sys2Proof.Machine
end

