-- ==== Sys2Proof/Machine/Time.lean ====
section
/-! DEFINITION. Device time (01): phase measurements, qualification, lock, the rebase, switch-over, loss and holdover, and the
commands SET_TIME and SET_TIME_REF. One tick is State.tick. -/

namespace Sys2Proof.Machine

/-- PREF names phase source k: 1 PPS_IN, 2 PTP (R43). -/
def TimeSt.named (t : TimeSt) (k : BitVec 2) : Bool := decide (k ≠ 0) && (decide (t.pref1 = k) || decide (t.pref2 = k))
def TimeSt.meas (t : TimeSt) (k : BitVec 2) : SrcMeas := if k = 1 then t.pps else t.ptp
def TimeSt.setMeas (t : TimeSt) (k : BitVec 2) (m : SrcMeas) : TimeSt := if k = 1 then { t with pps := m } else { t with ptp := m }

/-- The three differences of four offsets agree with one another within 1 µs (R36). -/
def steady (os : List Int) : Bool :=
  match os with
  | [d, c, b, a] =>
    let x := b - a
    let y := c - b
    let z := d - c
    decide ((x - y).natAbs ≤ 1000) && decide ((y - z).natAbs ≤ 1000) && decide ((x - z).natAbs ≤ 1000)
  | _ => false

/-- The most preferred qualified source, 0 for none (R43). -/
def TimeSt.best (t : TimeSt) : BitVec 2 :=
  let ok := fun k : BitVec 2 => t.named k && (t.meas k).qualified
  if ok t.pref1 then t.pref1 else if ok t.pref2 then t.pref2 else 0

/-- The frequency source as DSTAT.FRSRC codes it (R34; TREF before PTP: log entry 25). -/
def TimeSt.freqSrc (t : TimeSt) : BitVec 2 := if t.flock then t.trefhz else if t.phsrc = 2 then 3 else 0

/-- OFFSET saturates at ±2,047 (R34). -/
def satOffset (o : Int) : BitVec 12 := BitVec.ofInt 12 (max (-2047) (min 2047 o))

/-- The offset that remains to be removed, and whether it is slewed (R35, R38). -/
def TimeSt.remain (t : TimeSt) (o : Int) : TimeSt := { t with dtofs := BitVec.ofInt 64 o, removed := 0, slew := decide (1000000 < o.natAbs) }

/-- A measurement of offset o of the active source steers the loop, of which r remains to be removed: 0 when it has rebased device time
(R37, R38, R40). -/
def TimeSt.steer (t : TimeSt) (o r : Int) : TimeSt :=
  { t.remain r with lock := if 1000 < o.natAbs then false else t.lock || decide (16 ≤ (t.meas t.phsrc).small) }

/-- Make k the active phase source; what remains of its last offset is to be removed (R45). LOCK clears, and sets at once when 16 consecutive offsets of k have
been small (R37). -/
def TimeSt.switchTo (t : TimeSt) (k : BitVec 2) : TimeSt :=
  let m := t.meas k
  let t1 := { t.remain m.left with phsrc := k, lock := decide (16 ≤ m.small) }
  { t1 with frsrc := t1.freqSrc }

/-- The mean of the frequency parts of the last 64 s (R47). -/
def meanOf (h : List (Nat × Int)) : Int := if h.isEmpty then 0 else (h.map (·.2)).foldl (· + ·) 0 / (h.length : Int)

/-- Holdover begins (R47, R49): DTOFS stays as it stood. -/
def TimeSt.holdover (t : TimeSt) : TimeSt :=
  let t1 := { t with hold := true, lock := false, slew := false, phsrc := 0, freqHeld := meanOf t.freqHist }
  { t1 with frsrc := t1.freqSrc }

/-- The report source of device time (14 R686). -/
def srcTime : Nat := 1104
def State.timeReport (s : State) (cls : BitVec 3) : State := s.report srcTime (pay cls)

/-- Use the best qualified source; a change from one source to another is recorded (R43, R45, R47). An active source that SET_TIME_REF no
longer names is left like one that a more preferred source replaces: no LOSS is set; with no other source qualified the device enters
holdover (DESIGN CHOICE: R43 and R45 do not say; log entry 135). The return from holdover to a source is no change from one to another and has no
record (DESIGN CHOICE: R45 does not say; log entry 150). -/
def State.chooseRef (s : State) : State :=
  let t := s.time
  let k := t.best
  if t.unsync || decide (k = t.phsrc) then s
  else if k = 0 then { s with time := t.holdover }
  else
    let s1 : State := { s with time := t.switchTo k }
    if t.phsrc ≠ 0 then s1.timeReport clCE else s1

/-- Move device time once to now (R40). What the present tick had scheduled is done first (R53), and deadlines in ticks keep what remains of them. Where the time
it lands on ends an epoch, the tick is an epoch boundary (R33), unless it was one already. -/
def State.rebase (s0 : State) (now : Word) : State :=
  let s := s0.doDue
  let d := now - s.time.dtime
  let s1 : State := { s with
    time := { s.time with dtime := now, unsync := false, rebases := s.time.rebases ++ [(now.toNat : Int) - (s.time.dtime.toNat : Int)] },
    chan := { s.chan with led := s.chan.led.map (fun e => (e.1, if e.2.st = .free || e.2.st = .retired || decide (e.2.tdead = 0) then e.2 else { e.2 with tdead := e.2.tdead + d })) } }
  if s1.time.atEpoch && !s.time.atEpoch then s1.beginEpoch else s1

/-- End a pending SET_TIME with a status (R29). -/
def State.endSetTime (s : State) (status : Nat) : State :=
  match s.time.setTime with
  | some (m, _) => ({ s with time := { s.time with setTime := none } } : State).mbDone m status []
  | none => s

/-- Two qualified sources that differ by more than 10 µs for 4 consecutive measurements (R46): every measurement of either source counts, against
what remains of the other's last offset since the rebase, so that what the loop has removed between the two is no disagreement (DESIGN CHOICE: R46 does not say
which measurements; log entry 136). -/
def State.checkDisagree (s : State) : State :=
  let t := s.time
  if t.pps.qualified && t.ptp.qualified && !t.pps.offs.isEmpty && !t.ptp.offs.isEmpty then
    let n := if 10000 < (t.pps.left - t.ptp.left).natAbs then t.disagree + 1 else 0
    let s1 : State := { s with time := { t with disagree := n } }
    if n = 4 then s1.timeReport clDE else s1
  else { s with time := { t with disagree := 0 } }

/-- The ticks that the board's delay takes (R30). -/
def delayTicks (ns : Nat) : Nat := ns * 2 ^ 20 / 1000000000

/-- A measurement of offset o (reference less device time, ns) of source k; due: it came at the next expected instant;
now: the time that a PTP reference gives (R29, R36 to R38, R40). A rebase leaves no offset that the other source measured before it. -/
def State.measured (s : State) (k : BitVec 2) (o : Int) (due : Bool) (now : Word) : State :=
  let t := s.time
  if !t.named k then s
  else
    let m := t.meas k
    let offs := if due then o :: m.offs.take 3 else [o]
    let q := !m.qualified && steady offs
    let t1 := { t.setMeas k { offs := offs, qualified := m.qualified || q, small := if o.natAbs < 100 then (if due then m.small else 0) + 1 else 0, left := o } with offset := satOffset o }
    let s1 : State := { s with time := if q then { t1 with hold := false, hold24 := false } else t1 }
    let fresh := fun (u : State) (w : Word) => (let v := u.rebase w; { v with time := (v.time.setMeas k { v.time.meas k with offs := [0], left := 0 }).setMeas (3 - k) { v.time.meas (3 - k) with offs := [], left := 0 } } : State)
    let (s2, o2) : State × Int :=
      if !t.unsync then (s1, o)
      else if k = 2 && q then ((fresh s1 now).endSetTime scTimeSynced, 0)
      else match t.setTime with
        | some (_, sec) =>
          if k = 1 && (m.qualified || q) then ((fresh s1 (BitVec.ofNat 64 (sec % 2 ^ 44 * 2 ^ 20 + delayTicks t.ppsdly.toNat))).endSetTime scOk, 0) else (s1, o)
        | none => (s1, o)
    let s3 := s2.checkDisagree.chooseRef
    if s3.time.phsrc = k then
      let (w, s4) := s3.draw
      { s4 with time := { s4.time.steer o o2 with freqHist := (s4.time.ticks, w.toInt) :: s4.time.freqHist.filter (fun e => decide (s4.time.ticks < e.1 + 64 * 2 ^ 20)) } }
    else s3

/-- A phase source is lost (R44, R45, R47); one that has not qualified only starts its count again. -/
def State.phaseLost (s : State) (k : BitVec 2) : State :=
  let t := s.time
  let m := t.meas k
  let t1 := t.setMeas k {}
  if !m.qualified then { s with time := t1 }
  else
    let s1 := ({ s with time := { t1 with loss := true } } : State).timeReport clCE
    if t.unsync then { s1 with time := s1.time.holdover } else s1.chooseRef

/-- PPS_IN rises at a time that DTIME puts off ns from its nearest second; the board's delay is subtracted (R30). -/
def execPpsInEdge (off : Int) (due : Bool) (s : State) : Out := .next (s.measured 1 (-(off - (s.time.ppsdly.toNat : Int))) due 0)

/-- A Sync message of grandmaster gm, by which the device is off ns ahead and the time is now; another identity is a
loss first (R44). -/
def execPtpSync (off : Int) (due : Bool) (gm : BitVec 64) (now : BitVec 64) (s : State) : Out :=
  let moved := decide (s.time.gmid ≠ gm) && !s.time.ptp.offs.isEmpty
  let s1 := if moved then s.phaseLost 2 else s
  .next (if s.time.named 2 then ({ s1 with time := { s1.time with gmid := gm } } : State).measured 2 (-off) (due && !moved) now else s)

def execSetTimeNoref (s : State) : Out := .next (if s.pupUp then s.endSetTime scTimeNoref else s)
def execPpsInLoss (s : State) : Out := .next (s.phaseLost 1)
def execPtpLoss (s : State) : Out := .next (s.phaseLost 2)

/-- TREF is lost: recorded when it was in frequency lock (R44, R45). -/
def execTrefLoss (s : State) : Out :=
  let t1 := { s.time with flock := false, loss := true }
  .next (if s.time.flock then ({ s with time := { t1 with frsrc := t1.freqSrc } } : State).timeReport clCE else s)

/-- 24 hours in holdover (R48). -/
def execHoldover24h (s : State) : Out :=
  let s1 : State := { s with time := { s.time with hold24 := true } }
  .next (if !s.time.hold || s.time.hold24 then s else if s.time.unsync then s1 else s1.timeReport clDE)

/-- TREF is within tolerance of the frequency that TREFHZ names (R43, R45); a change from PTP is recorded. -/
def execTrefFrequencyLock (s : State) : Out :=
  let t1 := { s.time with flock := true }
  let s1 : State := { s with time := { t1 with frsrc := t1.freqSrc } }
  .next (if s.time.trefhz = 0 || s.time.flock then s else if s.time.frsrc = 3 then s1.timeReport clCE else s1)

/-- 1 ms of the slewed correction remains (R38). -/
def execSlewComplete (s : State) : Out :=
  .next (if s.time.slew && decide (s.time.dtofs.toInt.natAbs ≤ 1000000) then { s with time := { s.time with slew := false } } else s)

/-- SET_TIME waits for the edge that applies it (R29, R41). -/
def execSetTime (m : Nat) (s : State) : Out :=
  .next (
    if !s.runs m 0x0102 then s
    else if !s.time.unsync then s.mbDone m scTimeSynced []
    else if s.time.setTime.isSome then s
    else { s with time := { s.time with setTime := some (m, s.mbP m 0 8) } })

/-- The time reference after a field is set; a source no longer named is forgotten (R43). A change of PTPPORT, PTPDOMAIN or PPSDLY leaves a source its
qualification and its earlier offsets (DESIGN CHOICE: R43 does not say that it qualifies anew; log entry 137). A change of TREFHZ ends the frequency lock with no LOSS and no record
(DESIGN CHOICE: R44 and R45 speak of a reference that stops or moves away; log entry 151). -/
def TimeSt.setRef (t : TimeSt) (f v : Nat) : TimeSt :=
  match f with
  | 0 =>
    let t1 := { t with pref1 := BitVec.ofNat 2 v, pref2 := BitVec.ofNat 2 (v / 4) }
    let t2 := if t1.named 1 then t1 else t1.setMeas 1 {}
    if t2.named 2 then t2 else t2.setMeas 2 {}
  | 1 =>
    let t1 := { t with trefhz := BitVec.ofNat 2 v, flock := t.flock && decide (t.trefhz = BitVec.ofNat 2 v) }
    { t1 with frsrc := t1.freqSrc }
  | 2 => { t with ppsdly := BitVec.ofNat 16 v }
  | 3 => { t with ptpport := BitVec.ofNat 6 v }
  | _ => { t with ptpdomain := BitVec.ofNat 8 v }

def execSetTimeRef (m : Nat) (s : State) : Out :=
  .next (if !s.runs m 0x0103 then s else (({ s with time := s.time.setRef (s.mbP m 0 1) (s.mbP m 4 4) } : State).chooseRef).mbDone m scOk [])

end Sys2Proof.Machine
end

