-- ==== Sys2Proof/Machine/Dispatch.lean ====
section
/-! DEFINITION. The meaning of every command: one arm per constructor of Instr, each one direct call. -/

namespace Sys2Proof.Machine

open Host

def exec (i : Instr) (s : State) : Host.Outcome State Fault Refusal :=
  match i with
  | .ppsInEdge off due => Sys2Proof.Machine.execPpsInEdge off due s
  | .ptpSync off due gm now => Sys2Proof.Machine.execPtpSync off due gm now s
  | .setTimeNoref => Sys2Proof.Machine.execSetTimeNoref s
  | .ppsInLoss => Sys2Proof.Machine.execPpsInLoss s
  | .ptpLoss => Sys2Proof.Machine.execPtpLoss s
  | .trefLoss => Sys2Proof.Machine.execTrefLoss s
  | .holdover24h => Sys2Proof.Machine.execHoldover24h s
  | .add x r => Sys2Proof.Machine.execAdd x r s
  | .sub x r => Sys2Proof.Machine.execSub x r s
  | .andR x r => Sys2Proof.Machine.execAndR x r s
  | .orR x r => Sys2Proof.Machine.execOrR x r s
  | .xorR x r => Sys2Proof.Machine.execXorR x r s
  | .andn x r => Sys2Proof.Machine.execAndn x r s
  | .shl x r => Sys2Proof.Machine.execShl x r s
  | .shr x r => Sys2Proof.Machine.execShr x r s
  | .sar x r => Sys2Proof.Machine.execSar x r s
  | .minS x r => Sys2Proof.Machine.execMinS x r s
  | .maxS x r => Sys2Proof.Machine.execMaxS x r s
  | .minu x r => Sys2Proof.Machine.execMinu x r s
  | .maxu x r => Sys2Proof.Machine.execMaxu x r s
  | .clz x r => Sys2Proof.Machine.execClz x r s
  | .popc x r => Sys2Proof.Machine.execPopc x r s
  | .addi x f => Sys2Proof.Machine.execAddi x f s
  | .andi x f => Sys2Proof.Machine.execAndi x f s
  | .ori x f => Sys2Proof.Machine.execOri x f s
  | .xori x f => Sys2Proof.Machine.execXori x f s
  | .shli x f => Sys2Proof.Machine.execShli x f s
  | .shri x f => Sys2Proof.Machine.execShri x f s
  | .sari x f => Sys2Proof.Machine.execSari x f s
  | .lim x d imm => Sys2Proof.Machine.execLim x d imm s
  | .cmp x r cc => Sys2Proof.Machine.execCmp x r cc s
  | .cmpi x f cc => Sys2Proof.Machine.execCmpi x f cc s
  | .sel x r c => Sys2Proof.Machine.execSel x r c s
  | .nop x r => Sys2Proof.Machine.execNop x r s
  | .band x r => Sys2Proof.Machine.execBand x r s
  | .bor x r => Sys2Proof.Machine.execBor x r s
  | .bxor x r => Sys2Proof.Machine.execBxor x r s
  | .bandn x r => Sys2Proof.Machine.execBandn x r s
  | .bnot x r => Sys2Proof.Machine.execBnot x r s
  | .bextr x r => Sys2Proof.Machine.execBextr x r s
  | .btog x r => Sys2Proof.Machine.execBtog x r s
  | .bext x f => Sys2Proof.Machine.execBext x f s
  | .mul x r => Sys2Proof.Machine.execMul x r s
  | .mulh x r => Sys2Proof.Machine.execMulh x r s
  | .mulhu x r => Sys2Proof.Machine.execMulhu x r s
  | .dinitD x r => Sys2Proof.Machine.execDinitD x r s
  | .dinitDu x r => Sys2Proof.Machine.execDinitDu x r s
  | .dinitW x r => Sys2Proof.Machine.execDinitW x r s
  | .dinitWu x r => Sys2Proof.Machine.execDinitWu x r s
  | .dstep x r => Sys2Proof.Machine.execDstep x r s
  | .dstepF x r => Sys2Proof.Machine.execDstepF x r s
  | .dfin x r => Sys2Proof.Machine.execDfin x r s
  | .ldB x f => Sys2Proof.Machine.execLdB x f s
  | .ldH x f => Sys2Proof.Machine.execLdH x f s
  | .ldW x f => Sys2Proof.Machine.execLdW x f s
  | .ldD x f => Sys2Proof.Machine.execLdD x f s
  | .ldBu x f => Sys2Proof.Machine.execLdBu x f s
  | .ldHu x f => Sys2Proof.Machine.execLdHu x f s
  | .ldWu x f => Sys2Proof.Machine.execLdWu x f s
  | .stB x f => Sys2Proof.Machine.execStB x f s
  | .stH x f => Sys2Proof.Machine.execStH x f s
  | .stW x f => Sys2Proof.Machine.execStW x f s
  | .stD x f => Sys2Proof.Machine.execStD x f s
  | .ldfS x f => Sys2Proof.Machine.execLdfS x f s
  | .ldfD x f => Sys2Proof.Machine.execLdfD x f s
  | .stfS x f => Sys2Proof.Machine.execStfS x f s
  | .stfD x f => Sys2Proof.Machine.execStfD x f s
  | .cas x r sz => Sys2Proof.Machine.execCas x r sz s
  | .swap x r sz => Sys2Proof.Machine.execSwap x r sz s
  | .faddA x r sz => Sys2Proof.Machine.execFaddA x r sz s
  | .forA x r sz => Sys2Proof.Machine.execForA x r sz s
  | .fandA x r sz => Sys2Proof.Machine.execFandA x r sz s
  | .cas2 x r sz => Sys2Proof.Machine.execCas2 x r sz s
  | .bld x f => Sys2Proof.Machine.execBld x f s
  | .bst x f => Sys2Proof.Machine.execBst x f s
  | .bset x f => Sys2Proof.Machine.execBset x f s
  | .bclr x f => Sys2Proof.Machine.execBclr x f s
  | .bflip x f => Sys2Proof.Machine.execBflip x f s
  | .btas x r => Sys2Proof.Machine.execBtas x r s
  | .bxch x r => Sys2Proof.Machine.execBxch x r s
  | .smm x r => Sys2Proof.Machine.execSmm x r s
  | .lmm x r => Sys2Proof.Machine.execLmm x r s
  | .mvb x r => Sys2Proof.Machine.execMvb x r s
  | .mvl x r => Sys2Proof.Machine.execMvl x r s
  | .fill x r => Sys2Proof.Machine.execFill x r s
  | .filll x r => Sys2Proof.Machine.execFilll x r s
  | .prefL1 x a imm => Sys2Proof.Machine.execPrefL1 x a imm s
  | .prefL1w x a imm => Sys2Proof.Machine.execPrefL1w x a imm s
  | .prefL2 x a imm => Sys2Proof.Machine.execPrefL2 x a imm s
  | .prefL3 x a imm => Sys2Proof.Machine.execPrefL3 x a imm s
  | .clean x a imm => Sys2Proof.Machine.execClean x a imm s
  | .inval x a imm => Sys2Proof.Machine.execInval x a imm s
  | .clinv x a imm => Sys2Proof.Machine.execClinv x a imm s
  | .cleanSw x r => Sys2Proof.Machine.execCleanSw x r s
  | .invalSw x r => Sys2Proof.Machine.execInvalSw x r s
  | .clinvSw x r => Sys2Proof.Machine.execClinvSw x r s
  | .br x f => Sys2Proof.Machine.execBr x f s
  | .call x f n => Sys2Proof.Machine.execCall x f n s
  | .callr x r n => Sys2Proof.Machine.execCallr x r n s
  | .jmpr x r => Sys2Proof.Machine.execJmpr x r s
  | .jmprLk x r => Sys2Proof.Machine.execJmprLk x r s
  | .svc x f => Sys2Proof.Machine.execSvc x f s
  | .rfe x r => Sys2Proof.Machine.execRfe x r s
  | .rfeC x r => Sys2Proof.Machine.execRfeC x r s
  | .fence x r => Sys2Proof.Machine.execFence x r s
  | .fenceS x r => Sys2Proof.Machine.execFenceS x r s
  | .fenceD x r => Sys2Proof.Machine.execFenceD x r s
  | .savebank x r => Sys2Proof.Machine.execSavebank x r s
  | .wait x r => Sys2Proof.Machine.execWait x r s
  | .rdtime x r => Sys2Proof.Machine.execRdtime x r s
  | .mflk x r => Sys2Proof.Machine.execMflk x r s
  | .mtlk x r => Sys2Proof.Machine.execMtlk x r s
  | .tlbiV x r => Sys2Proof.Machine.execTlbiV x r s
  | .tlbiI x r => Sys2Proof.Machine.execTlbiI x r s
  | .tlbiA x r => Sys2Proof.Machine.execTlbiA x r s
  | .mfc x r n => Sys2Proof.Machine.execMfc x r n s
  | .mtc x r n => Sys2Proof.Machine.execMtc x r n s
  | .cctlClearL1den x r => Sys2Proof.Machine.execCctlClearL1den x r s
  | .cctlClearL1ien x r => Sys2Proof.Machine.execCctlClearL1ien x r s
  | .cctlClearL2en x r => Sys2Proof.Machine.execCctlClearL2en x r s
  | .cctlRaiseScrw x r => Sys2Proof.Machine.execCctlRaiseScrw x r s
  | .cctlLowerScrw x r => Sys2Proof.Machine.execCctlLowerScrw x r s
  | .rep x r upto => Sys2Proof.Machine.execRep x r upto s
  | .fpadd x r fmt => Sys2Proof.Machine.execFpadd x r fmt s
  | .fpsub x r fmt => Sys2Proof.Machine.execFpsub x r fmt s
  | .fpmul x r fmt => Sys2Proof.Machine.execFpmul x r fmt s
  | .fpmin x r fmt => Sys2Proof.Machine.execFpmin x r fmt s
  | .fpmax x r fmt => Sys2Proof.Machine.execFpmax x r fmt s
  | .fpmov x r fmt => Sys2Proof.Machine.execFpmov x r fmt s
  | .fpneg x r fmt => Sys2Proof.Machine.execFpneg x r fmt s
  | .fpabs x r fmt => Sys2Proof.Machine.execFpabs x r fmt s
  | .fpfma x r fmt c => Sys2Proof.Machine.execFpfma x r fmt c s
  | .fpcmp x r fmt z cc => Sys2Proof.Machine.execFpcmp x r fmt z cc s
  | .fpcvtSD x r t z => Sys2Proof.Machine.execFpcvtSD x r t z s
  | .fpcvtDS x r t z => Sys2Proof.Machine.execFpcvtDS x r t z s
  | .fpcvtLD x r t z => Sys2Proof.Machine.execFpcvtLD x r t z s
  | .fpcvtLS x r t z => Sys2Proof.Machine.execFpcvtLS x r t z s
  | .fpcvtDL x r t z => Sys2Proof.Machine.execFpcvtDL x r t z s
  | .fpcvtSL x r t z => Sys2Proof.Machine.execFpcvtSL x r t z s
  | .mvgf x r => Sys2Proof.Machine.execMvgf x r s
  | .mvfg x r => Sys2Proof.Machine.execMvfg x r s
  | .fdstepIs x r => Sys2Proof.Machine.execFdstepIs x r s
  | .fdstepId x r => Sys2Proof.Machine.execFdstepId x r s
  | .fdstep x r => Sys2Proof.Machine.execFdstep x r s
  | .fsstepIs x r => Sys2Proof.Machine.execFsstepIs x r s
  | .fsstepId x r => Sys2Proof.Machine.execFsstepId x r s
  | .fsstep x r => Sys2Proof.Machine.execFsstep x r s
  | .fdfin x r => Sys2Proof.Machine.execFdfin x r s
  | .interruptEntry lc => Sys2Proof.Machine.execInterruptEntry lc s
  | .machineCheck lc => Sys2Proof.Machine.execMachineCheck lc s
  | .missDataArrival lc => Sys2Proof.Machine.execMissDataArrival lc s
  | .fetchComplete lc => Sys2Proof.Machine.execFetchComplete lc s
  | .tlbWalkComplete lc va k => Sys2Proof.Machine.execTlbWalkComplete lc va k s
  | .subnormalFreezeEnd lc => Sys2Proof.Machine.execSubnormalFreezeEnd lc s
  | .storeRelease lc => Sys2Proof.Machine.execStoreRelease lc s
  | .fenceComplete lc => Sys2Proof.Machine.execFenceComplete lc s
  | .fenceSComplete lc => Sys2Proof.Machine.execFenceSComplete lc s
  | .fenceDComplete lc => Sys2Proof.Machine.execFenceDComplete lc s
  | .tlbiComplete lc => Sys2Proof.Machine.execTlbiComplete lc s
  | .cacheCleanComplete lc => Sys2Proof.Machine.execCacheCleanComplete lc s
  | .waitWakeup lc => Sys2Proof.Machine.execWaitWakeup lc s
  | .devAccessComplete lc k ok val => Sys2Proof.Machine.execDevAccessComplete lc k ok val s
  | .devCompletionTimeout lc k => Sys2Proof.Machine.execDevCompletionTimeout lc k s
  | .inputPresented lc n e o => Sys2Proof.Machine.execInputPresented lc n e o s
  | .inputAgreed lc k => Sys2Proof.Machine.execInputAgreed lc k s
  | .checkpointCapture lc => Sys2Proof.Machine.execCheckpointCapture lc s
  | .sealCompare lc same => Sys2Proof.Machine.execSealCompare lc same s
  | .pressMismatch lc => Sys2Proof.Machine.execPressMismatch lc s
  | .restoreComplete lc => Sys2Proof.Machine.execRestoreComplete lc s
  | .halfEccError lc o corrected => Sys2Proof.Machine.execHalfEccError lc o corrected s
  | .checkpointStoreUe lc => Sys2Proof.Machine.execCheckpointStoreUe lc s
  | .bistComplete lc ePass oPass => Sys2Proof.Machine.execBistComplete lc ePass oPass s
  | .sparingResume lc => Sys2Proof.Machine.execSparingResume lc s
  | .eventSourceAssert src => Sys2Proof.Machine.execEventSourceAssert src s
  | .routerModerationExpiry lc v => Sys2Proof.Machine.execRouterModerationExpiry lc v s
  | .erctlWrite src val => Sys2Proof.Machine.execErctlWrite src val s
  | .controlSpaceWrite lc addr size val => Sys2Proof.Machine.execControlSpaceWrite lc addr size val s
  | .cell q o => Sys2Proof.Machine.execCell q o s
  | .sadd q o => Sys2Proof.Machine.execSadd q o s
  | .ssub q o => Sys2Proof.Machine.execSsub q o s
  | .sand q o => Sys2Proof.Machine.execSand q o s
  | .sor q o => Sys2Proof.Machine.execSor q o s
  | .sxor q o => Sys2Proof.Machine.execSxor q o s
  | .sshl q o => Sys2Proof.Machine.execSshl q o s
  | .sshr q o => Sys2Proof.Machine.execSshr q o s
  | .saddi q o => Sys2Proof.Machine.execSaddi q o s
  | .sli q o => Sys2Proof.Machine.execSli q o s
  | .slih q o => Sys2Proof.Machine.execSlih q o s
  | .sqBr q o => Sys2Proof.Machine.execSqBr q o s
  | .bz q o => Sys2Proof.Machine.execBz q o s
  | .bnz q o => Sys2Proof.Machine.execBnz q o s
  | .sqBor q o => Sys2Proof.Machine.execSqBor q o s
  | .sqBnor q o => Sys2Proof.Machine.execSqBnor q o s
  | .loop q o => Sys2Proof.Machine.execLoop q o s
  | .xfer q o => Sys2Proof.Machine.execXfer q o s
  | .xwait q o => Sys2Proof.Machine.execXwait q o s
  | .lockw q o => Sys2Proof.Machine.execLockw q o s
  | .ulockw q o => Sys2Proof.Machine.execUlockw q o s
  | .glset q o => Sys2Proof.Machine.execGlset q o s
  | .orrd q o => Sys2Proof.Machine.execOrrd q o s
  | .sbset q o => Sys2Proof.Machine.execSbset q o s
  | .sbclr q o => Sys2Proof.Machine.execSbclr q o s
  | .sbld q o => Sys2Proof.Machine.execSbld q o s
  | .sbwait q o => Sys2Proof.Machine.execSbwait q o s
  | .sqNop q o => Sys2Proof.Machine.execSqNop q o s
  | .done q o => Sys2Proof.Machine.execDone q o s
  | .note q o => Sys2Proof.Machine.execNote q o s
  | .capture q o => Sys2Proof.Machine.execCapture q o s
  | .orResultReady q => Sys2Proof.Machine.execOrResultReady q s
  | .sbwaitSatisfied q => Sys2Proof.Machine.execSbwaitSatisfied q s
  | .sbldReturn q => Sys2Proof.Machine.execSbldReturn q s
  | .mouldTransferEnd q moved => Sys2Proof.Machine.execMouldTransferEnd q moved s
  | .arrayFault q k vat plane row => Sys2Proof.Machine.execArrayFault q k vat plane row s
  | .arrayJobRestart q => Sys2Proof.Machine.execArrayJobRestart q s
  | .arun qp => Sys2Proof.Machine.execArun qp s
  | .progloadComplete q => Sys2Proof.Machine.execProgloadComplete q s
  | .arrayJobLimit q => Sys2Proof.Machine.execArrayJobLimit q s
  | .captureEdge q => Sys2Proof.Machine.execCaptureEdge q s
  | .captureReadoutComplete vat same => Sys2Proof.Machine.execCaptureReadoutComplete vat same s
  | .vatClearComplete chip => Sys2Proof.Machine.execVatClearComplete chip s
  | .partitionSwitch q ph => Sys2Proof.Machine.execPartitionSwitch q ph s
  | .partitionRestore q => Sys2Proof.Machine.execPartitionRestore q s
  | .queueDoorbell qp => Sys2Proof.Machine.execQueueDoorbell qp s
  | .nvread qp lidx => Sys2Proof.Machine.execNvread qp lidx s
  | .nvwrite qp lidx => Sys2Proof.Machine.execNvwrite qp lidx s
  | .nvflush qp lidx => Sys2Proof.Machine.execNvflush qp lidx s
  | .nvzero qp lidx => Sys2Proof.Machine.execNvzero qp lidx s
  | .nvdsm qp lidx => Sys2Proof.Machine.execNvdsm qp lidx s
  | .nvcmd qp lidx => Sys2Proof.Machine.execNvcmd qp lidx s
  | .scmd qp lidx => Sys2Proof.Machine.execScmd qp lidx s
  | .nsend qp lidx => Sys2Proof.Machine.execNsend qp lidx s
  | .nrecv qp lidx => Sys2Proof.Machine.execNrecv qp lidx s
  | .lack qp => Sys2Proof.Machine.execLack qp s
  | .targetAccept lidx xid => Sys2Proof.Machine.execTargetAccept lidx xid s
  | .dataUnitReceived lidx xid off data good => Sys2Proof.Machine.execDataUnitReceived lidx xid off data good s
  | .targetResponse lidx xid k pstat pdw0 => Sys2Proof.Machine.execTargetResponse lidx xid k pstat pdw0 s
  | .frameReceived ep data good => Sys2Proof.Machine.execFrameReceived ep data good s
  | .portDown lp => Sys2Proof.Machine.execPortDown lp s
  | .pathConnected ep k standby => Sys2Proof.Machine.execPathConnected ep k standby s
  | .operationTimeout lidx => Sys2Proof.Machine.execOperationTimeout lidx s
  | .operationWaitExpiry lidx => Sys2Proof.Machine.execOperationWaitExpiry lidx s
  | .keepaliveTimeout ep k => Sys2Proof.Machine.execKeepaliveTimeout ep k s
  | .pathRetest ep k => Sys2Proof.Machine.execPathRetest ep k s
  | .abortAnswer lidx => Sys2Proof.Machine.execAbortAnswer lidx s
  | .abortTimeout lidx => Sys2Proof.Machine.execAbortTimeout lidx s
  | .controllerResetDone ep k => Sys2Proof.Machine.execControllerResetDone ep k s
  | .controllerResetTimeout ep k => Sys2Proof.Machine.execControllerResetTimeout ep k s
  | .quiesceElapsed lidx => Sys2Proof.Machine.execQuiesceElapsed lidx s
  | .namespaceChange ep nsid blk => Sys2Proof.Machine.execNamespaceChange ep nsid blk s
  | .pcieInboundRequest ep write ipa data => Sys2Proof.Machine.execPcieInboundRequest ep write ipa data s
  | .msiWrite ep v => Sys2Proof.Machine.execMsiWrite ep v s
  | .dpcContainment lp => Sys2Proof.Machine.execDpcContainment lp s
  | .linkTrained lp lanes rate => Sys2Proof.Machine.execLinkTrained lp lanes rate s
  | .ccomp qp e => Sys2Proof.Machine.execCcomp qp e s
  | .cdecomp qp e => Sys2Proof.Machine.execCdecomp qp e s
  | .czenc qp e k => Sys2Proof.Machine.execCzenc qp e k s
  | .czdec qp e k => Sys2Proof.Machine.execCzdec qp e k s
  | .kgcmenc qp e => Sys2Proof.Machine.execKgcmenc qp e s
  | .kgcmdec qp e => Sys2Proof.Machine.execKgcmdec qp e s
  | .kxtsenc qp e => Sys2Proof.Machine.execKxtsenc qp e s
  | .kxtsdec qp e => Sys2Proof.Machine.execKxtsdec qp e s
  | .khash qp e => Sys2Proof.Machine.execKhash qp e s
  | .khmac qp e => Sys2Proof.Machine.execKhmac qp e s
  | .ksign qp e => Sys2Proof.Machine.execKsign qp e s
  | .kverify qp e => Sys2Proof.Machine.execKverify qp e s
  | .kencap qp e => Sys2Proof.Machine.execKencap qp e s
  | .kdecap qp e => Sys2Proof.Machine.execKdecap qp e s
  | .kkeygen qp e => Sys2Proof.Machine.execKkeygen qp e s
  | .kkeyload qp e => Sys2Proof.Machine.execKkeyload qp e s
  | .kkeyclr qp e => Sys2Proof.Machine.execKkeyclr qp e s
  | .engineJobEnd j => Sys2Proof.Machine.execEngineJobEnd j s
  | .engineFaultDetected j e => Sys2Proof.Machine.execEngineFaultDetected j e s
  | .engineSquashWindowEnd n => Sys2Proof.Machine.execEngineSquashWindowEnd n s
  | .tokenRefill => Sys2Proof.Machine.execTokenRefill s
  | .completionRingPoll qp => Sys2Proof.Machine.execCompletionRingPoll qp s
  | .vvecModerationExpiry v => Sys2Proof.Machine.execVvecModerationExpiry v s
  | .virtualVectorClear v => Sys2Proof.Machine.execVirtualVectorClear v s
  | .drainComplete n => Sys2Proof.Machine.execDrainComplete n s
  | .resetDeferredAccept n => Sys2Proof.Machine.execResetDeferredAccept n s
  | .oldWorkEnd n => Sys2Proof.Machine.execOldWorkEnd n s
  | .scrubStep cc errs => Sys2Proof.Machine.execScrubStep cc errs s
  | .sweepStep u r => Sys2Proof.Machine.execSweepStep u r s
  | .rindAlarm src pulse p => Sys2Proof.Machine.execRindAlarm src pulse p s
  | .rindPayloadTimeout src => Sys2Proof.Machine.execRindPayloadTimeout src s
  | .rindWireFault src => Sys2Proof.Machine.execRindWireFault src s
  | .rindAcknowledge src => Sys2Proof.Machine.execRindAcknowledge src s
  | .puppeteerLockstepError => Sys2Proof.Machine.execPuppeteerLockstepError s
  | .puppeteerSramUe => Sys2Proof.Machine.execPuppeteerSramUe s
  | .puppeteerWatchdogExpiry => Sys2Proof.Machine.execPuppeteerWatchdogExpiry s
  | .puppeteerRestartComplete => Sys2Proof.Machine.execPuppeteerRestartComplete s
  | .bootImageSelect => Sys2Proof.Machine.execBootImageSelect s
  | .watchdogExpiry lc => Sys2Proof.Machine.execWatchdogExpiry lc s
  | .mailboxDoorbell m => Sys2Proof.Machine.execMailboxDoorbell m s
  | .mailboxCommandTake m => Sys2Proof.Machine.execMailboxCommandTake m s
  | .devInfo m => Sys2Proof.Machine.execDevInfo m s
  | .setTime m => Sys2Proof.Machine.execSetTime m s
  | .setTimeRef m => Sys2Proof.Machine.execSetTimeRef m s
  | .wdogSet m => Sys2Proof.Machine.execWdogSet m s
  | .mgmtNet m => Sys2Proof.Machine.execMgmtNet m s
  | .instTable m => Sys2Proof.Machine.execInstTable m s
  | .instCreate m => Sys2Proof.Machine.execInstCreate m s
  | .qpSetup m => Sys2Proof.Machine.execQpSetup m s
  | .epCreate m => Sys2Proof.Machine.execEpCreate m s
  | .partSetup m => Sys2Proof.Machine.execPartSetup m s
  | .instStart m => Sys2Proof.Machine.execInstStart m s
  | .instReset m => Sys2Proof.Machine.execInstReset m s
  | .instRemove m => Sys2Proof.Machine.execInstRemove m s
  | .instStatus m => Sys2Proof.Machine.execInstStatus m s
  | .instSet m => Sys2Proof.Machine.execInstSet m s
  | .pairStatus m => Sys2Proof.Machine.execPairStatus m s
  | .pairSplit m => Sys2Proof.Machine.execPairSplit m s
  | .pairJoin m => Sys2Proof.Machine.execPairJoin m s
  | .pairRecover m => Sys2Proof.Machine.execPairRecover m s
  | .pairSetRx7 m => Sys2Proof.Machine.execPairSetRx7 m s
  | .spareClear m pass => Sys2Proof.Machine.execSpareClear m pass s
  | .arrayConfig m faultAt => Sys2Proof.Machine.execArrayConfig m faultAt s
  | .arrayCapture m => Sys2Proof.Machine.execArrayCapture m s
  | .arrayRelease m => Sys2Proof.Machine.execArrayRelease m s
  | .portConfig m => Sys2Proof.Machine.execPortConfig m s
  | .portStatus m => Sys2Proof.Machine.execPortStatus m s
  | .pathStatus m => Sys2Proof.Machine.execPathStatus m s
  | .farOnline m => Sys2Proof.Machine.execFarOnline m s
  | .farOffline m => Sys2Proof.Machine.execFarOffline m s
  | .rindSet m => Sys2Proof.Machine.execRindSet m s
  | .rindLog m => Sys2Proof.Machine.execRindLog m s
  | .fwStage m => Sys2Proof.Machine.execFwStage m s
  | .fwActivate m => Sys2Proof.Machine.execFwActivate m s
  | .fwCommit m => Sys2Proof.Machine.execFwCommit m s
  | .fuseCommit m => Sys2Proof.Machine.execFuseCommit m s
  | .dpxPair m => Sys2Proof.Machine.execDpxPair m s
  | .dpxStatus m => Sys2Proof.Machine.execDpxStatus m s
  | .dpxRepair m => Sys2Proof.Machine.execDpxRepair m s
  | .dpxUnpair m => Sys2Proof.Machine.execDpxUnpair m s
  | .raiseLevel m => Sys2Proof.Machine.execRaiseLevel m s
  | .smbusWrite off data => Sys2Proof.Machine.execSmbusWrite off data s
  | .smbusRead off len => Sys2Proof.Machine.execSmbusRead off len s
  | .smbusDoorbell => Sys2Proof.Machine.execSmbusDoorbell s
  | .smbusStatusRead => Sys2Proof.Machine.execSmbusStatusRead s
  | .mgmtDatagram data tag => Sys2Proof.Machine.execMgmtDatagram data tag s
  | .twinFlitReceived b f crcGood => Sys2Proof.Machine.execTwinFlitReceived b f crcGood s
  | .flitReplayTimeout b => Sys2Proof.Machine.execFlitReplayTimeout b s
  | .bundleRetrain b => Sys2Proof.Machine.execBundleRetrain b s
  | .bundleDownTimeout b => Sys2Proof.Machine.execBundleDownTimeout b s
  | .twinLinkLoss peerBeat => Sys2Proof.Machine.execTwinLinkLoss peerBeat s
  | .heartbeatLoss => Sys2Proof.Machine.execHeartbeatLoss s
  | .followerHeartbeatPersists => Sys2Proof.Machine.execFollowerHeartbeatPersists s
  | .skewProbe t1 t2 t3 t4 => Sys2Proof.Machine.execSkewProbe t1 t2 t3 t4 s
  | .batchMark => Sys2Proof.Machine.execBatchMark s
  | .agreedInputDelivery k => Sys2Proof.Machine.execAgreedInputDelivery k s
  | .batchCompare same ownUe peerUe => Sys2Proof.Machine.execBatchCompare same ownUe peerUe s
  | .repairCopyStep => Sys2Proof.Machine.execRepairCopyStep s
  | .repairHandover => Sys2Proof.Machine.execRepairHandover s
  | .mixedVersionWarning => Sys2Proof.Machine.execMixedVersionWarning s
  | .mixedVersionLimit => Sys2Proof.Machine.execMixedVersionLimit s
  | .counterSnapshot => Sys2Proof.Machine.execCounterSnapshot s
  | .railGood j => Sys2Proof.Machine.execRailGood j s
  | .railFault j => Sys2Proof.Machine.execRailFault j s
  | .vstbyLoss => Sys2Proof.Machine.execVstbyLoss s
  | .wake => Sys2Proof.Machine.execWake s
  | .coldReset => Sys2Proof.Machine.execColdReset s
  | .warmReset => Sys2Proof.Machine.execWarmReset s
  | .bringup hotTrip => Sys2Proof.Machine.execBringup hotTrip s
  | .nearMemoryTrained badDevs loader => Sys2Proof.Machine.execNearMemoryTrained badDevs loader s
  | .thermalWarning chip deg => Sys2Proof.Machine.execThermalWarning chip deg s
  | .thermalTrip chip deg => Sys2Proof.Machine.execThermalTrip chip deg s
  | .undefinedOpcode x w => Sys2Proof.Machine.execUndefinedOpcode x w s
  | .trefFrequencyLock => Sys2Proof.Machine.execTrefFrequencyLock s
  | .slewComplete => Sys2Proof.Machine.execSlewComplete s
  | .anaStateChange ep k ana => Sys2Proof.Machine.execAnaStateChange ep k ana s
  | .loginLoss ep k => Sys2Proof.Machine.execLoginLoss ep k s
  | .eventSourceDeassert src => Sys2Proof.Machine.execEventSourceDeassert src s
  | .bundleTrained b => Sys2Proof.Machine.execBundleTrained b s
  | .rindPairValid src => Sys2Proof.Machine.execRindPairValid src s
  | .thermalWarningRelease => Sys2Proof.Machine.execThermalWarningRelease s

end Sys2Proof.Machine
end

