-- ==== Sys2Proof/WellFormed.lean ====
section
/-! DEFINITION. Which commands name things that the module numbers: a logical core 0 to 127 (06 R253), a sequencer 0 to 15,
a Vat 0 to 255 (08 R415), a queue pair, a ledger index, an endpoint, a mailbox, a port and a source within their ranges
(10 R493, R500, R511, 12 R586, 14 R666, 15 R707), an engine (11 R546), a delay group of 1 to 4 words (02 R82), a naturally
aligned access of 1 to 8 bytes to control space (07 R127). -/

namespace Sys2Proof

/-- The command is well-formed. -/
def Instr.wf (i : Instr) : Bool :=
  match i with
  | .ppsInEdge _ _ => true
  | .ptpSync _ _ _ _ => true
  | .setTimeNoref => true
  | .ppsInLoss => true
  | .ptpLoss => true
  | .trefLoss => true
  | .holdover24h => true
  | .add x _ => decide (x.lc < 128)
  | .sub x _ => decide (x.lc < 128)
  | .andR x _ => decide (x.lc < 128)
  | .orR x _ => decide (x.lc < 128)
  | .xorR x _ => decide (x.lc < 128)
  | .andn x _ => decide (x.lc < 128)
  | .shl x _ => decide (x.lc < 128)
  | .shr x _ => decide (x.lc < 128)
  | .sar x _ => decide (x.lc < 128)
  | .minS x _ => decide (x.lc < 128)
  | .maxS x _ => decide (x.lc < 128)
  | .minu x _ => decide (x.lc < 128)
  | .maxu x _ => decide (x.lc < 128)
  | .clz x _ => decide (x.lc < 128)
  | .popc x _ => decide (x.lc < 128)
  | .addi x _ => decide (x.lc < 128)
  | .andi x _ => decide (x.lc < 128)
  | .ori x _ => decide (x.lc < 128)
  | .xori x _ => decide (x.lc < 128)
  | .shli x _ => decide (x.lc < 128)
  | .shri x _ => decide (x.lc < 128)
  | .sari x _ => decide (x.lc < 128)
  | .lim x _ _ => decide (x.lc < 128)
  | .cmp x _ _ => decide (x.lc < 128)
  | .cmpi x _ _ => decide (x.lc < 128)
  | .sel x _ _ => decide (x.lc < 128)
  | .nop x _ => decide (x.lc < 128)
  | .band x _ => decide (x.lc < 128)
  | .bor x _ => decide (x.lc < 128)
  | .bxor x _ => decide (x.lc < 128)
  | .bandn x _ => decide (x.lc < 128)
  | .bnot x _ => decide (x.lc < 128)
  | .bextr x _ => decide (x.lc < 128)
  | .btog x _ => decide (x.lc < 128)
  | .bext x _ => decide (x.lc < 128)
  | .mul x _ => decide (x.lc < 128)
  | .mulh x _ => decide (x.lc < 128)
  | .mulhu x _ => decide (x.lc < 128)
  | .dinitD x _ => decide (x.lc < 128)
  | .dinitDu x _ => decide (x.lc < 128)
  | .dinitW x _ => decide (x.lc < 128)
  | .dinitWu x _ => decide (x.lc < 128)
  | .dstep x _ => decide (x.lc < 128)
  | .dstepF x _ => decide (x.lc < 128)
  | .dfin x _ => decide (x.lc < 128)
  | .ldB x _ => decide (x.lc < 128)
  | .ldH x _ => decide (x.lc < 128)
  | .ldW x _ => decide (x.lc < 128)
  | .ldD x _ => decide (x.lc < 128)
  | .ldBu x _ => decide (x.lc < 128)
  | .ldHu x _ => decide (x.lc < 128)
  | .ldWu x _ => decide (x.lc < 128)
  | .stB x _ => decide (x.lc < 128)
  | .stH x _ => decide (x.lc < 128)
  | .stW x _ => decide (x.lc < 128)
  | .stD x _ => decide (x.lc < 128)
  | .ldfS x _ => decide (x.lc < 128)
  | .ldfD x _ => decide (x.lc < 128)
  | .stfS x _ => decide (x.lc < 128)
  | .stfD x _ => decide (x.lc < 128)
  | .cas x _ _ => decide (x.lc < 128)
  | .swap x _ _ => decide (x.lc < 128)
  | .faddA x _ _ => decide (x.lc < 128)
  | .forA x _ _ => decide (x.lc < 128)
  | .fandA x _ _ => decide (x.lc < 128)
  | .cas2 x _ _ => decide (x.lc < 128)
  | .bld x _ => decide (x.lc < 128)
  | .bst x _ => decide (x.lc < 128)
  | .bset x _ => decide (x.lc < 128)
  | .bclr x _ => decide (x.lc < 128)
  | .bflip x _ => decide (x.lc < 128)
  | .btas x _ => decide (x.lc < 128)
  | .bxch x _ => decide (x.lc < 128)
  | .smm x _ => decide (x.lc < 128)
  | .lmm x _ => decide (x.lc < 128)
  | .mvb x _ => decide (x.lc < 128)
  | .mvl x _ => decide (x.lc < 128)
  | .fill x _ => decide (x.lc < 128)
  | .filll x _ => decide (x.lc < 128)
  | .prefL1 x _ _ => decide (x.lc < 128)
  | .prefL1w x _ _ => decide (x.lc < 128)
  | .prefL2 x _ _ => decide (x.lc < 128)
  | .prefL3 x _ _ => decide (x.lc < 128)
  | .clean x _ _ => decide (x.lc < 128)
  | .inval x _ _ => decide (x.lc < 128)
  | .clinv x _ _ => decide (x.lc < 128)
  | .cleanSw x _ => decide (x.lc < 128)
  | .invalSw x _ => decide (x.lc < 128)
  | .clinvSw x _ => decide (x.lc < 128)
  | .br x _ => decide (x.lc < 128)
  | .call x _ n => decide (x.lc < 128) && decide (1 ≤ n) && decide (n ≤ 4)
  | .callr x _ n => decide (x.lc < 128) && decide (1 ≤ n) && decide (n ≤ 4)
  | .jmpr x _ => decide (x.lc < 128)
  | .jmprLk x _ => decide (x.lc < 128)
  | .svc x _ => decide (x.lc < 128)
  | .rfe x _ => decide (x.lc < 128)
  | .rfeC x _ => decide (x.lc < 128)
  | .fence x _ => decide (x.lc < 128)
  | .fenceS x _ => decide (x.lc < 128)
  | .fenceD x _ => decide (x.lc < 128)
  | .savebank x _ => decide (x.lc < 128)
  | .wait x _ => decide (x.lc < 128)
  | .rdtime x _ => decide (x.lc < 128)
  | .mflk x _ => decide (x.lc < 128)
  | .mtlk x _ => decide (x.lc < 128)
  | .tlbiV x _ => decide (x.lc < 128)
  | .tlbiI x _ => decide (x.lc < 128)
  | .tlbiA x _ => decide (x.lc < 128)
  | .mfc x _ _ => decide (x.lc < 128)
  | .mtc x _ _ => decide (x.lc < 128)
  | .cctlClearL1den x _ => decide (x.lc < 128)
  | .cctlClearL1ien x _ => decide (x.lc < 128)
  | .cctlClearL2en x _ => decide (x.lc < 128)
  | .cctlRaiseScrw x _ => decide (x.lc < 128)
  | .cctlLowerScrw x _ => decide (x.lc < 128)
  | .rep x _ _ => decide (x.lc < 128)
  | .fpadd x _ _ => decide (x.lc < 128)
  | .fpsub x _ _ => decide (x.lc < 128)
  | .fpmul x _ _ => decide (x.lc < 128)
  | .fpmin x _ _ => decide (x.lc < 128)
  | .fpmax x _ _ => decide (x.lc < 128)
  | .fpmov x _ _ => decide (x.lc < 128)
  | .fpneg x _ _ => decide (x.lc < 128)
  | .fpabs x _ _ => decide (x.lc < 128)
  | .fpfma x _ _ _ => decide (x.lc < 128)
  | .fpcmp x _ _ _ _ => decide (x.lc < 128)
  | .fpcvtSD x _ _ _ => decide (x.lc < 128)
  | .fpcvtDS x _ _ _ => decide (x.lc < 128)
  | .fpcvtLD x _ _ _ => decide (x.lc < 128)
  | .fpcvtLS x _ _ _ => decide (x.lc < 128)
  | .fpcvtDL x _ _ _ => decide (x.lc < 128)
  | .fpcvtSL x _ _ _ => decide (x.lc < 128)
  | .mvgf x _ => decide (x.lc < 128)
  | .mvfg x _ => decide (x.lc < 128)
  | .fdstepIs x _ => decide (x.lc < 128)
  | .fdstepId x _ => decide (x.lc < 128)
  | .fdstep x _ => decide (x.lc < 128)
  | .fsstepIs x _ => decide (x.lc < 128)
  | .fsstepId x _ => decide (x.lc < 128)
  | .fsstep x _ => decide (x.lc < 128)
  | .fdfin x _ => decide (x.lc < 128)
  | .interruptEntry lc => decide (lc < 128)
  | .machineCheck lc => decide (lc < 128)
  | .missDataArrival lc => decide (lc < 128)
  | .fetchComplete lc => decide (lc < 128)
  | .tlbWalkComplete lc _ _ => decide (lc < 128)
  | .subnormalFreezeEnd lc => decide (lc < 128)
  | .storeRelease lc => decide (lc < 128)
  | .fenceComplete lc => decide (lc < 128)
  | .fenceSComplete lc => decide (lc < 128)
  | .fenceDComplete lc => decide (lc < 128)
  | .tlbiComplete lc => decide (lc < 128)
  | .cacheCleanComplete lc => decide (lc < 128)
  | .waitWakeup lc => decide (lc < 128)
  | .devAccessComplete lc _ _ _ => decide (lc < 128)
  | .devCompletionTimeout lc _ => decide (lc < 128)
  | .inputPresented lc _ _ _ => decide (lc < 128)
  | .inputAgreed lc _ => decide (lc < 128)
  | .checkpointCapture lc => decide (lc < 128)
  | .sealCompare lc _ => decide (lc < 128)
  | .pressMismatch lc => decide (lc < 128)
  | .restoreComplete lc => decide (lc < 128)
  | .halfEccError lc _ _ => decide (lc < 128)
  | .checkpointStoreUe lc => decide (lc < 128)
  | .bistComplete lc _ _ => decide (lc < 128)
  | .sparingResume lc => decide (lc < 128)
  | .eventSourceAssert src => decide (src < 2048)
  | .routerModerationExpiry lc v => decide (lc < 128) && decide (v < 64)
  | .erctlWrite src _ => decide (src < 2048)
  | .controlSpaceWrite lc addr size _ => decide (lc < 128) && (decide (size = 1) || decide (size = 2) || decide (size = 4) || decide (size = 8)) && decide (addr % size = 0)
  | .cell q _ => decide (q < 16)
  | .sadd q _ => decide (q < 16)
  | .ssub q _ => decide (q < 16)
  | .sand q _ => decide (q < 16)
  | .sor q _ => decide (q < 16)
  | .sxor q _ => decide (q < 16)
  | .sshl q _ => decide (q < 16)
  | .sshr q _ => decide (q < 16)
  | .saddi q _ => decide (q < 16)
  | .sli q _ => decide (q < 16)
  | .slih q _ => decide (q < 16)
  | .sqBr q _ => decide (q < 16)
  | .bz q _ => decide (q < 16)
  | .bnz q _ => decide (q < 16)
  | .sqBor q _ => decide (q < 16)
  | .sqBnor q _ => decide (q < 16)
  | .loop q _ => decide (q < 16)
  | .xfer q _ => decide (q < 16)
  | .xwait q _ => decide (q < 16)
  | .lockw q _ => decide (q < 16)
  | .ulockw q _ => decide (q < 16)
  | .glset q _ => decide (q < 16)
  | .orrd q _ => decide (q < 16)
  | .sbset q _ => decide (q < 16)
  | .sbclr q _ => decide (q < 16)
  | .sbld q _ => decide (q < 16)
  | .sbwait q _ => decide (q < 16)
  | .sqNop q _ => decide (q < 16)
  | .done q _ => decide (q < 16)
  | .note q _ => decide (q < 16)
  | .capture q _ => decide (q < 16)
  | .orResultReady q => decide (q < 16)
  | .sbwaitSatisfied q => decide (q < 16)
  | .sbldReturn q => decide (q < 16)
  | .mouldTransferEnd q m => decide (q < 16) && decide (m.chip < 4)
  | .arrayFault q _ vat plane row => decide (q < 16) && decide (vat < 256) && decide (plane < 1024) && decide (row < 64)
  | .arrayJobRestart q => decide (q < 16)
  | .arun qp => decide (qp < 131072)
  | .progloadComplete q => decide (q < 16)
  | .arrayJobLimit q => decide (q < 16)
  | .captureEdge q => decide (q < 16)
  | .captureReadoutComplete vat _ => decide (vat < 256)
  | .vatClearComplete chip => decide (chip < 256)
  | .partitionSwitch q ph => decide (q < 16) && decide (ph < 4096)
  | .partitionRestore q => decide (q < 16 * 257)
  | .queueDoorbell qp => decide (qp < 131072)
  | .nvread qp lidx => decide (qp < 131072) && decide (lidx < 262144)
  | .nvwrite qp lidx => decide (qp < 131072) && decide (lidx < 262144)
  | .nvflush qp lidx => decide (qp < 131072) && decide (lidx < 262144)
  | .nvzero qp lidx => decide (qp < 131072) && decide (lidx < 262144)
  | .nvdsm qp lidx => decide (qp < 131072) && decide (lidx < 262144)
  | .nvcmd qp lidx => decide (qp < 131072) && decide (lidx < 262144)
  | .scmd qp lidx => decide (qp < 131072) && decide (lidx < 262144)
  | .nsend qp lidx => decide (qp < 131072) && decide (lidx < 262144)
  | .nrecv qp lidx => decide (qp < 131072) && decide (lidx < 262144)
  | .lack qp => decide (qp < 131072)
  | .targetAccept lidx _ => decide (lidx < 262144)
  | .dataUnitReceived lidx _ _ _ _ => decide (lidx < 262144)
  | .targetResponse lidx _ _ _ _ => decide (lidx < 262144)
  | .frameReceived ep _ _ => decide (ep < 65536)
  | .portDown lp => decide (lp < 64)
  | .pathConnected ep k _ => decide (ep < 65536) && decide (k < 8)
  | .operationTimeout lidx => decide (lidx < 262144)
  | .operationWaitExpiry lidx => decide (lidx < 262144)
  | .keepaliveTimeout ep k => decide (ep < 65536) && decide (k < 8)
  | .pathRetest ep k => decide (ep < 65536) && decide (k < 8)
  | .abortAnswer lidx => decide (lidx < 262144)
  | .abortTimeout lidx => decide (lidx < 262144)
  | .controllerResetDone ep k => decide (ep < 65536) && decide (k < 8)
  | .controllerResetTimeout ep k => decide (ep < 65536) && decide (k < 8)
  | .quiesceElapsed lidx => decide (lidx < 262144)
  | .namespaceChange ep _ _ => decide (ep < 65536)
  | .pcieInboundRequest ep _ _ _ => decide (ep < 131072)
  | .msiWrite ep v => decide (ep < 65536) && decide (v < 65536)
  | .dpcContainment lp => decide (lp < 64)
  | .linkTrained lp _ _ => decide (lp < 64)
  | .ccomp qp e => decide (qp < 131072) && decide (e < 16)
  | .cdecomp qp e => decide (qp < 131072) && decide (e < 16)
  | .czenc qp e k => decide (qp < 131072) && decide (e < 16) && decide (k < 8)
  | .czdec qp e k => decide (qp < 131072) && decide (e < 16) && decide (k < 8)
  | .kgcmenc qp e => decide (qp < 131072) && decide (e < 8)
  | .kgcmdec qp e => decide (qp < 131072) && decide (e < 8)
  | .kxtsenc qp e => decide (qp < 131072) && decide (e < 8)
  | .kxtsdec qp e => decide (qp < 131072) && decide (e < 8)
  | .khash qp e => decide (qp < 131072) && decide (e < 8)
  | .khmac qp e => decide (qp < 131072) && decide (e < 8)
  | .ksign qp e => decide (qp < 131072) && decide (e < 8)
  | .kverify qp e => decide (qp < 131072) && decide (e < 8)
  | .kencap qp e => decide (qp < 131072) && decide (e < 8)
  | .kdecap qp e => decide (qp < 131072) && decide (e < 8)
  | .kkeygen qp e => decide (qp < 131072) && decide (e < 8)
  | .kkeyload qp e => decide (qp < 131072) && decide (e < 8)
  | .kkeyclr qp e => decide (qp < 131072) && decide (e < 8)
  | .engineJobEnd _ => true
  | .engineFaultDetected _ _ => true
  | .engineSquashWindowEnd i => decide (i < 8192)
  | .tokenRefill => true
  | .completionRingPoll qp => decide (qp < 131072)
  | .vvecModerationExpiry v => decide (v < 65536)
  | .virtualVectorClear v => decide (v < 65536)
  | .drainComplete i => decide (i < 8192)
  | .resetDeferredAccept i => decide (i < 8192)
  | .oldWorkEnd i => decide (i < 8192)
  | .scrubStep cc errs => decide (cc < 8) && errs.all (fun e => if e.2 ≤ 12 then decide (e.1 < 32 * (2 ^ 27 + 1)) else if e.2 = 13 then decide (e.1 < 24) else decide (e.2 < 16) && decide (e.1 < 2 ^ 44))
  | .sweepStep u _ => decide (u < 399)
  | .rindAlarm src _ _ => decide (src < 4096)
  | .rindPayloadTimeout src => decide (src < 2048)
  | .rindWireFault src => decide (src < 2048)
  | .rindAcknowledge src => decide (src < 2048)
  | .puppeteerLockstepError => true
  | .puppeteerSramUe => true
  | .puppeteerWatchdogExpiry => true
  | .puppeteerRestartComplete => true
  | .bootImageSelect => true
  | .watchdogExpiry lc => decide (lc < 128)
  | .mailboxDoorbell m => decide (m < 64)
  | .mailboxCommandTake m => decide (m < 64)
  | .devInfo m => decide (m < 64)
  | .setTime m => decide (m < 64)
  | .setTimeRef m => decide (m < 64)
  | .wdogSet m => decide (m < 64)
  | .mgmtNet m => decide (m < 64)
  | .instTable m => decide (m < 64)
  | .instCreate m => decide (m < 64)
  | .qpSetup m => decide (m < 64)
  | .epCreate m => decide (m < 64)
  | .partSetup m => decide (m < 64)
  | .instStart m => decide (m < 64)
  | .instReset m => decide (m < 64)
  | .instRemove m => decide (m < 64)
  | .instStatus m => decide (m < 64)
  | .instSet m => decide (m < 64)
  | .pairStatus m => decide (m < 64)
  | .pairSplit m => decide (m < 64)
  | .pairJoin m => decide (m < 64)
  | .pairRecover m => decide (m < 64)
  | .pairSetRx7 m => decide (m < 64)
  | .spareClear m _ => decide (m < 64)
  | .arrayConfig m _ => decide (m < 64)
  | .arrayCapture m => decide (m < 64)
  | .arrayRelease m => decide (m < 64)
  | .portConfig m => decide (m < 64)
  | .portStatus m => decide (m < 64)
  | .pathStatus m => decide (m < 64)
  | .farOnline m => decide (m < 64)
  | .farOffline m => decide (m < 64)
  | .rindSet m => decide (m < 64)
  | .rindLog m => decide (m < 64)
  | .fwStage m => decide (m < 64)
  | .fwActivate m => decide (m < 64)
  | .fwCommit m => decide (m < 64)
  | .fuseCommit m => decide (m < 64)
  | .dpxPair m => decide (m < 64)
  | .dpxStatus m => decide (m < 64)
  | .dpxRepair m => decide (m < 64)
  | .dpxUnpair m => decide (m < 64)
  | .raiseLevel m => decide (m < 64)
  | .smbusWrite off data => decide (data.length ≤ 32) && decide (off + data.length ≤ 4096)
  | .smbusRead off len => decide (len ≤ 32) && decide (off + len ≤ 4096)
  | .smbusDoorbell => true
  | .smbusStatusRead => true
  | .mgmtDatagram _ _ => true
  | .twinFlitReceived b _ _ => decide (b < 2)
  | .flitReplayTimeout b => decide (b < 2)
  | .bundleRetrain b => decide (b < 2)
  | .bundleDownTimeout b => decide (b < 2)
  | .twinLinkLoss _ => true
  | .heartbeatLoss => true
  | .followerHeartbeatPersists => true
  | .skewProbe _ _ _ _ => true
  | .batchMark => true
  | .agreedInputDelivery _ => true
  | .batchCompare _ _ _ => true
  | .repairCopyStep => true
  | .repairHandover => true
  | .mixedVersionWarning => true
  | .mixedVersionLimit => true
  | .counterSnapshot => true
  | .railGood j => decide (j < 10)
  | .railFault j => decide (j < 10)
  | .vstbyLoss => true
  | .wake => true
  | .coldReset => true
  | .warmReset => true
  | .bringup _ => true
  | .nearMemoryTrained badDevs loader => badDevs.all (· < 24) && decide (loader.length ≤ 2 ^ 20)
  | .thermalWarning chip _ => decide (chip < 256)
  | .thermalTrip chip _ => decide (chip < 256)
  | .undefinedOpcode x _ => decide (x.lc < 128)
  | .trefFrequencyLock => true
  | .slewComplete => true
  | .anaStateChange ep k _ => decide (ep < 65536) && decide (k < 8)
  | .loginLoss ep k => decide (ep < 65536) && decide (k < 8)
  | .eventSourceDeassert src => decide (src < 2048)
  | .bundleTrained b => decide (b < 2)
  | .rindPairValid src => decide (src < 2048)
  | .thermalWarningRelease => true

end Sys2Proof
end

