-- ==== Sys2Proof/Safety.lean ====
section
/-! DEFINITION. What a good state is, and when an instruction issues, in the terms that statements use: memory in its canonical
form within its ranges, a module that has not stopped, a group that closes and passes its check (02 R82 to R95). -/

namespace Sys2Proof.Machine

/-- Memory keeps its canonical form, and near memory lists no address outside it (07 R359). -/
def MemSt.wf (m : MemSt) : Bool := Tab.wf 0 m.near && Tab.wf 0 m.far && m.near.all (fun e => isNear e.1) && m.far.all (fun e => !isNear e.1)

/-- The module serves: no L5 stop, no fence, and neither reset asserted (14 R684, 16 R756, 18 R797). -/
def State.serving (s : State) : Bool := !s.moduleStopped && !s.pwr.coldLow && !s.pwr.warmLow

/-- The commands that wait are well formed. -/
def State.queueWf (s : State) : Bool := s.pending.all Sys2Proof.Instr.wf

/-- The room that the store-buffer entries of a core take (07 R312). -/
def Core.sbLoad (c : Core) : Nat := (c.sb.map (fun e => e.kind.weight)).foldl (· + ·) 0

/-- The word of slot z at x closes the group being formed, which passes its check and is no repeat, and whose fetch makes no record (02 R82, R87, R89, 07 R333, 13 R634). -/
structure State.Closes (s : State) (x : At) (z : Slot) : Prop where
  ready : s.ready x.lc = true
  stop : x.stop = true
  few : (s.core x.lc).group.length ≤ 3
  check : ∃ ps, s.groupCheck x.lc (s.core x.lc) ((s.core x.lc).group ++ [z]) true = .ok ps
  noRep : repOf ((s.core x.lc).group ++ [z]) = none
  room : (s.core x.lc).sbLoad ≤ 32
  aligned : (s.core x.lc).arch.badPc = false
  whole : (s.core x.lc).arch.rest = []
  backed : s.fetchQuiet (s.core x.lc) (fetchWords (s.core x.lc).arch.pc.toNat ((s.core x.lc).group ++ [z])) = true

/-- A slot with results in registers only, its results given. -/
def Slot.results (z : Slot) : List Flight := match z.op with | .land fs => fs | _ => []
def Slot.regOnly (z : Slot) : Bool := (match z.op with | .land _ => true | _ => false) && !z.mem

/-- It closes a group whose other words have results in registers only. -/
structure State.ClosesRegs (s : State) (x : At) (z : Slot) : Prop extends State.Closes s x z where
  regs : (s.core x.lc).group.all Slot.regOnly = true

/-- It is alone in its group; E may lead by its beats (06 R298). -/
structure State.Alone (s : State) (x : At) (z : Slot) : Prop extends State.Closes s x z where
  first : (s.core x.lc).group = []
  lead : s.rxRoom x.lc (Nat.max 1 (z.op.beats (s.core x.lc).arch)) = true
  turn : z.isRdtime = true → s.dpx.turn { kind := 2, addr := 0, agent := x.lc } = true

/-- A core whose group g has issued with results fs: the results are in flight, the pc and the delay state have advanced by
the words of the group, and a freeze for a subnormal or constant-time group begins (02 R90, R99, 04 R210). -/
def Core.closed (c : Core) (g : List Slot) (fs : List Flight) (br : Option (Bool × Word)) : Core :=
  { c with group := [], freezes := if needsFreeze c.ct g then c.freezes ++ [.subnormal] else c.freezes,
           arch := { c.arch.advance g.length br with infl := c.arch.infl ++ fs, repLeft := none } }

/-- A group of n beats has issued and its core stands as d: the beats pass; in RX7-compatible mode E leads by them and the group
counts (06 R298, R300); a capture that was due is made (06 R268). -/
def State.groupEnd (s : State) (l n : Nat) (d : Core) : State := ((s.setCore l (Core.beats n d)).rxGroup l n).settle l

/-- The core before slot z issues alone: a capture comes before a DEV or once-only access (06 R268). -/
def State.before (s : State) (l : Nat) (z : Slot) : Core := (s.bracket l [z]).core l

/-- The state after the group that slot z closes has issued, with register results only, for one beat. -/
def State.regIssued (s : State) (l : Nat) (z : Slot) : State :=
  let g := (s.core l).group ++ [z]
  s.groupEnd l 1 ((s.core l).closed g (g.flatMap Slot.results) none)

/-- The state after instruction z, alone in its group and no SMM, has issued: its accesses have begun and its beats have passed. -/
def State.aloneDone (s : State) (l : Nat) (z : Slot) : State :=
  let c := s.core l
  let u := s.bracket l [z]
  let t := u.issueAll l (u.core l).sb [(0, z.op)]
  let d := t.core l
  t.groupEnd l (Nat.max 1 (z.op.beats c.arch))
    { d with group := [], freezes := if needsFreeze c.ct [z] then d.freezes ++ [.subnormal] else d.freezes,
             arch := { d.arch.advance 1 (brOf [z]) with repLeft := none } }

/-- Instruction i at x, whose slot is z: it gives its register results when it closes a group of register results. -/
def State.GivesRegs (s : State) (x : At) (i : Instr) (z : Slot) : Prop := s.ClosesRegs x z → exec i s = .next (s.regIssued x.lc z)

/-- Instruction i at x, whose slot is z: alone in its group, it issues when the store buffer has room for n more. -/
def State.IssuesAlone (s : State) (x : At) (i : Instr) (z : Slot) (n : Nat := 0) : Prop :=
  s.Alone x z → (s.core x.lc).sbLoad + n ≤ 32 → exec i s = .next (s.aloneDone x.lc z)

/-- A slot of register results: of an integer instruction, of a multiply or divide step, of a floating-point instruction. -/
def regSlot (fs : List Flight) : Slot := { op := .land fs }
def mdSlot (fs : List Flight) : Slot := { op := .land fs, md := true }
def fpSlot (fs : List Flight) (freezing sub : Bool) : Slot := { op := .land fs, fp := true, freezing := freezing, sub := sub }

/-- The core after idle beats, which count, have let every result land, which comes before a serialising instruction (02 R85, R94). -/
def State.idled (s : State) (l : Nat) : State := (s.setCore l (s.core l).idle).rxBeats l (s.core l).idleBeats

/-- A serialising instruction of slot z stands alone at x, no miss is outstanding, its fetch makes no record, and it passes its check (02 R85, R89, 07 R333, 13 R634). -/
structure State.Serial (s : State) (x : At) (z : Slot) : Prop where
  ready : s.ready x.lc = true
  stop : x.stop = true
  first : (s.core x.lc).group = []
  landed : (s.core x.lc).misses = []
  aligned : (s.core x.lc).arch.badPc = false
  whole : (s.core x.lc).arch.rest = []
  clean : ((s.idled x.lc).core x.lc).poisoned = none
  backed : (s.idled x.lc).fetchQuiet ((s.idled x.lc).core x.lc) [(s.core x.lc).arch.pc.toNat] = true
  check : ∃ ps, (s.idled x.lc).groupCheck x.lc ((s.idled x.lc).core x.lc) [z] true = .ok ps

/-- Instruction i at x has effect f after the idle beats and the capture before it (06 R268), when it stands alone and passes its check. -/
def State.Serialises (s : State) (x : At) (i : Instr) (z : Slot) (f : State → State) : Prop :=
  s.Serial x z → exec i s = .next (f ((s.idled x.lc).capture x.lc))

/-- The sequencer x after its instruction at pc, outside a loop end, has issued for one cycle with lines g, as y (09 R446, R459). -/
def Sequencer.stepped (x y : Sequencer) (g : BitVec 8) : Sequencer :=
  { ({ y with lastPc := x.pc } : Sequencer).cycles 1 g with pc := x.pc + 1, st := .run, waits := .none }

/-- Sequencer q is ready, the word at its pc is defined, its instruction does not end a loop body and another place follows (09 R446, R457,
R462, R464). -/
def State.sqGoes (s : State) (q : Nat) : Prop :=
  s.sqReady q = true ∧ (s.sq q).undef = false ∧ (s.sq q).inner (s.sq q).pc = none ∧ (s.sq q).pc < 8191

end Sys2Proof.Machine
end

