-- ==== Sys2Proof/Certificates/Slice0/Obligations.lean ====
section
/-! DEFINITION. The statements for the provers. -/

open Sys2Proof Sys2Proof.Machine

/-- R117: the integer register operations give Gd the value of their row, with latency 1. -/
def Obligations.IntegerRegisterResults : Prop :=
  ∀ (s : State) (x : At) (r : RF),
    let a := (s.core x.lc).rg r.a
    let b := (s.core x.lc).rg r.b
    let gives := fun (i : At → RF → Instr) (v : Word) => s.GivesRegs x (i x r) (regSlot [resG r.d v 1])
    gives .add (a + b) ∧ gives .sub (a - b) ∧ gives .andR (a &&& b) ∧ gives .orR (a ||| b) ∧ gives .xorR (a ^^^ b) ∧ gives .andn (a &&& ~~~b)
    ∧ gives .shl (a <<< (b.toNat % 64)) ∧ gives .shr (a >>> (b.toNat % 64)) ∧ gives .sar (a.sshiftRight (b.toNat % 64))
    ∧ gives .minS (BitVec.ofInt 64 (min a.toInt b.toInt)) ∧ gives .maxS (BitVec.ofInt 64 (max a.toInt b.toInt))
    ∧ gives .minu (BitVec.ofNat 64 (min a.toNat b.toNat)) ∧ gives .maxu (BitVec.ofNat 64 (max a.toNat b.toNat))
    ∧ (r.b = 0 → gives .clz (if a = 0 then 64 else BitVec.ofNat 64 (63 - a.toNat.log2)))
    ∧ (r.b = 0 → gives .popc (BitVec.ofNat 64 ((List.range 64).filter (fun k => a.getLsbD k)).length))

/-- R117 to R120, R78, R79: the immediate forms of the integer operations. -/
def Obligations.IntegerImmediateResults : Prop :=
  ∀ (s : State) (x : At) (f : IF) (h : ShF) (d : Reg) (imm : BitVec 18),
    let a := (s.core x.lc).rg f.a
    let i := f.imm.signExtend 64
    let w := (s.core x.lc).rg h.a
    let gives := fun (j : Instr) (d : Reg) (v : Word) => s.GivesRegs x j (regSlot [resG d v 1])
    gives (.addi x f) f.d (a + i) ∧ gives (.andi x f) f.d (a &&& i) ∧ gives (.ori x f) f.d (a ||| i) ∧ gives (.xori x f) f.d (a ^^^ i)
    ∧ (h.hi = 0 → gives (.shli x h) h.d (w <<< h.sh.toNat) ∧ gives (.shri x h) h.d (w >>> h.sh.toNat) ∧ gives (.sari x h) h.d (w.sshiftRight h.sh.toNat))
    ∧ gives (.lim x d imm) d (BitVec.ofInt 64 (imm.toInt * 4096))

/-- R118, R119, R121: compares, select, the bit-register operations, and NOP. -/
def Obligations.CompareAndBitRegisterResults : Prop :=
  ∀ (s : State) (x : At) (r : RF) (f : IF) (cc : BitVec 6) (c : Reg),
    let a := (s.core x.lc).rg r.a
    let b := (s.core x.lc).rg r.b
    let p := (s.core x.lc).rb r.a
    let q := (s.core x.lc).rb r.b
    let m := (s.core x.lc).rg f.a
    let i := f.imm.signExtend 64
    let bit := fun (j : Instr) (d : Reg) (v : Bool) => s.GivesRegs x j (regSlot [resB d v 1])
    (cc = 0 → bit (.cmp x r cc) r.d (decide (a = b))) ∧ (cc = 1 → bit (.cmp x r cc) r.d (decide (a ≠ b)))
    ∧ (cc = 2 → bit (.cmp x r cc) r.d (decide (a.toInt < b.toInt))) ∧ (cc = 3 → bit (.cmp x r cc) r.d (decide (b.toInt ≤ a.toInt)))
    ∧ (cc = 4 → bit (.cmp x r cc) r.d (decide (a.toNat < b.toNat))) ∧ (cc = 5 → bit (.cmp x r cc) r.d (decide (b.toNat ≤ a.toNat)))
    ∧ bit (.cmpi x f .eq) f.d (decide (m = i)) ∧ bit (.cmpi x f .ne) f.d (decide (m ≠ i))
    ∧ bit (.cmpi x f .lt) f.d (decide (m.toInt < i.toInt)) ∧ bit (.cmpi x f .ge) f.d (decide (i.toInt ≤ m.toInt))
    ∧ bit (.cmpi x f .ltu) f.d (decide (m.toNat < i.toNat)) ∧ bit (.cmpi x f .geu) f.d (decide (i.toNat ≤ m.toNat))
    ∧ s.GivesRegs x (.sel x r c) (regSlot [resG r.d (if (s.core x.lc).rb c then a else b) 1])
    ∧ bit (.band x r) r.d (p && q) ∧ bit (.bor x r) r.d (p || q) ∧ bit (.bxor x r) r.d (xor p q) ∧ bit (.bandn x r) r.d (p && !q)
    ∧ (r.b = 0 → bit (.bnot x r) r.d (!p)) ∧ bit (.bextr x r) r.d (a.getLsbD (b.toNat % 64))
    ∧ (r.b = 0 → s.GivesRegs x (.btog x r) (regSlot [resG r.d (if p then 1 else 0) 1]))
    ∧ (f.imm.toNat < 64 → bit (.bext x f) f.d (m.getLsbD f.imm.toNat))
    ∧ (r = ⟨0, 0, 0⟩ → s.GivesRegs x (.nop x r) (regSlot []))

/-- R122 to R124, 04 R182 to R187: the multiplies, with latency 3, the first and last step of a division, and a division step, or up to four of
them, that rewrites the step state in Gd to Gd+3. -/
def Obligations.MultiplyAndDivideResults : Prop :=
  (∀ (s : State) (x : At) (r : RF),
    let c := s.core x.lc
    let a := c.rg r.a
    let b := c.rg r.b
    let gives := fun (i : At → RF → Instr) (fs : List Flight) => s.GivesRegs x (i x r) (mdSlot fs)
    let init := fun w sgn => dstRes r.d.toNat (dInit w sgn a.toNat b.toNat)
    let fin := dFin (c.arch.dst r.d.toNat)
    gives .mul [resG r.d (BitVec.ofNat 64 (a.toNat * b.toNat)) 3]
    ∧ gives .mulh [resG r.d (BitVec.ofInt 64 (a.toInt * b.toInt / 2 ^ 64)) 3]
    ∧ gives .mulhu [resG r.d (BitVec.ofNat 64 (a.toNat * b.toNat / 2 ^ 64)) 3]
    ∧ (r.d.toNat % 4 = 0 → 4 ≤ r.d.toNat →
        gives .dinitD (init false true) ∧ gives .dinitDu (init false false) ∧ gives .dinitW (init true true) ∧ gives .dinitWu (init true false)
        ∧ (r.a = 0 → r.b = 0 → gives .dfin [resG r.d (BitVec.ofNat 64 fin.1) 1, res (.g (r.d.toNat + 1)) (BitVec.ofNat 64 fin.2) 1])))
  ∧ (∀ (s : State) (x : At) (r : RF),
    let c := s.core x.lc
    let st := c.arch.dst r.d.toNat
    let z := fun op : SlotOp => ({ op := op, md := true, regs := [r.d.toNat], wr := (List.range 4).map (fun k => r.d.toNat + k) } : Slot)
    r.d.toNat % 4 = 0 → 4 ≤ r.d.toNat → r.a = 0 → r.b = 0 →
      (s.Alone x (z (.dstep r.d.toNat)) →
        exec (.dstep x r) s = .next (s.groupEnd x.lc 1 (c.closed [z (.dstep r.d.toNat)] (dstRes r.d.toNat (dStep st)) none)))
      ∧ (s.Alone x (z (.dstepF r.d.toNat)) →
        exec (.dstepF x r) s = .next (s.groupEnd x.lc 1 (c.closed [z (.dstepF r.d.toNat)] (dstRes r.d.toNat (dStepF c.ct st)) none))))

/-- R165 to R167, R90, 04 R197 to R206: the floating-point operations give their rounded result and its flags, with the latency
of their row; a subnormal operand or result freezes the core (R210). -/
def Obligations.FloatingPointResults : Prop :=
  ∀ (s : State) (x : At) (r : RF) (fmt t : Bool) (k : BitVec 5) (cc : BitVec 2),
    let c := s.core x.lc
    let rm := rmOf c.arch.fstat
    let op := fun d w => fPat d (c.rf w).toNat
    let a := op fmt r.a
    let b := op fmt r.b
    let e := fPat fmt (c.arch.rf k.toNat).toNat
    let sub := fun d v => fSubnormal d v
    let gives := fun (i : Instr) (lat : Nat) (q : FRes) (sb : Bool) => s.GivesRegs x i (fpSlot [resF r.d q.val lat q.flags] true (q.sub || sb))
    let moves := fun (i : Instr) (v : Nat) => s.GivesRegs x i (fpSlot [resF r.d v 1 0] false false)
    let cvt := fun (i : Instr) (q : FRes) (sb : Bool) => s.GivesRegs x i (fpSlot [resF r.d q.val 3 q.flags] true (q.sub || sb))
    let rc := if t then Rm.rtz else rm
    c.arch.fpu = true → r.d.toNat < 32 → r.a.toNat < 32 →
      (r.b.toNat < 32 →
        gives (.fpadd x r fmt) 4 (fAdd fmt rm false a b) (sub fmt a || sub fmt b) ∧ gives (.fpsub x r fmt) 4 (fAdd fmt rm true a b) (sub fmt a || sub fmt b)
        ∧ gives (.fpmul x r fmt) 4 (fMul fmt rm a b) (sub fmt a || sub fmt b)
        ∧ gives (.fpmin x r fmt) 2 (fMinMax fmt false a b) (sub fmt a || sub fmt b) ∧ gives (.fpmax x r fmt) 2 (fMinMax fmt true a b) (sub fmt a || sub fmt b)
        ∧ gives (.fpfma x r fmt k) 4 (fFma fmt rm a b e) (sub fmt a || sub fmt b || sub fmt e)
        ∧ s.GivesRegs x (.fpcmp x r fmt 0 cc) (fpSlot [{ resB r.d (fCmp fmt cc.toNat a b).1 2 with flags := (fCmp fmt cc.toNat a b).2 }] true (sub fmt a || sub fmt b)))
      ∧ (r.b = 0 →
        moves (.fpmov x r fmt) a ∧ moves (.fpneg x r fmt) (a ^^^ 2 ^ (fmtBits fmt - 1)) ∧ moves (.fpabs x r fmt) (a % 2 ^ (fmtBits fmt - 1))
        ∧ cvt (.fpcvtSD x r t 0) (fCvtF true false rc (op true r.a)) (sub true (op true r.a))
        ∧ cvt (.fpcvtDS x r t 0) (fCvtF false true rc (op false r.a)) (sub false (op false r.a))
        ∧ cvt (.fpcvtLD x r t 0) (fCvtL true rc (op true r.a)) (sub true (op true r.a))
        ∧ cvt (.fpcvtLS x r t 0) (fCvtL false rc (op false r.a)) (sub false (op false r.a))
        ∧ cvt (.fpcvtDL x r t 0) (fCvtI true rc (c.rf r.a).toNat) false ∧ cvt (.fpcvtSL x r t 0) (fCvtI false rc (c.rf r.a).toNat) false)

/-- R165, R168, R169, 04 R191 to R196: moves between the register files, and the steps of a division or a square root. -/
def Obligations.FloatingPointStepsAndMoves : Prop :=
  ∀ (s : State) (x : At) (r : RF),
    let c := s.core x.lc
    let op := fun d w => fPat d (c.rf w).toNat
    let sub := fun d w => fSubnormal d (op d w)
    let steps := fun (i : Instr) (st : FStep) (sb : Bool) => s.GivesRegs x i { fpSlot (fstRes r.d.toNat st) true sb with md := true }
    let st := c.arch.fst_ r.d.toNat
    let fin := fFin (rmOf c.arch.fstat) st
    let z : Slot := { op := .fstep r.d.toNat, fp := true, md := true, freezing := true }
    c.arch.fpu = true →
      (r.d.toNat < 32 → r.b = 0 → s.GivesRegs x (.mvgf x r) (fpSlot [res (.f r.d.toNat) (c.rg r.a) 2] false false))
      ∧ (r.a.toNat < 32 → r.b = 0 → s.GivesRegs x (.mvfg x r) (fpSlot [resG r.d (c.rf r.a) 2] false false))
      ∧ (r.d.toNat % 4 = 0 → r.d.toNat < 32 →
        (r.a.toNat < 32 → r.b.toNat < 32 →
          steps (.fdstepIs x r) (fDivInit false c.ct (op false r.a) (op false r.b)) (sub false r.a || sub false r.b)
          ∧ steps (.fdstepId x r) (fDivInit true c.ct (op true r.a) (op true r.b)) (sub true r.a || sub true r.b))
        ∧ (r.a.toNat < 32 → r.b = 0 →
          steps (.fsstepIs x r) (fSqrtInit false c.ct (op false r.a)) (sub false r.a) ∧ steps (.fsstepId x r) (fSqrtInit true c.ct (op true r.a)) (sub true r.a))
        ∧ (r.a = 0 → r.b = 0 →
          s.GivesRegs x (.fdfin x r) { fpSlot [resF r.d fin.val 3 fin.flags] true fin.sub with md := true }
          ∧ (s.Alone x z → ∀ i ∈ [Instr.fdstep x r, Instr.fsstep x r],
              exec i s = .next (s.groupEnd x.lc 1 (c.closed [z] (fstNext c.ct r.d.toNat st) none)))))

/-- R125, R126, R89, 06 R268: a store alone in its group enters its bytes, the low bytes of its register first, into the store buffer,
behind the capture that a DEV store asks for. -/
def Obligations.StoresEnterTheStoreBuffer : Prop :=
  ∀ (s : State) (x : At) (f : IF) (ps : List Piece),
    let c := s.core x.lc
    let ea := c.rg f.a + f.imm.signExtend 64
    let stores := fun (i : Instr) (n : Nat) (v : Word) (fp : Bool) =>
      let z : Slot := { op := .store n ea v fp, mem := true, fp := fp }
      let d := (s.before x.lc z).push (pieceEntries (decide (c.priv = 2)) ps (leBytes n v.toNat))
      s.Alone x z → s.access x.lc c c.priv { ea := ea.toNat, n := n, need := .w } = .ok ps → d.sbLoad ≤ 32 →
        exec i s = .next (s.groupEnd x.lc 1 (d.closed [z] [] none))
    stores (.stB x f) 1 (c.rg f.d) false ∧ stores (.stH x f) 2 (c.rg f.d) false ∧ stores (.stW x f) 4 (c.rg f.d) false ∧ stores (.stD x f) 8 (c.rg f.d) false
    ∧ (f.d.toNat < 32 → c.arch.fpu = true → stores (.stfS x f) 4 (c.rf f.d) true ∧ stores (.stfD x f) 8 (c.rf f.d) true)

/-- R125, R96, 07 R314, R328: a load from WB, UC or scratchpad memory that is no L1D hit, alone in its group, is a miss that remembers
its pieces, each with its own region type, how many of the core's own stores were older, and how the bytes are extended; its register is
written after its data. -/
def Obligations.LoadsThatMissWaitForTheirData : Prop :=
  ∀ (s : State) (x : At) (f : IF) (p : Piece) (ps : List Piece),
    let c := s.core x.lc
    let ea := c.rg f.a + f.imm.signExtend 64
    let loads := fun (i : Instr) (n : Nat) (e : Ext) (dst : Dst) (fp : Bool) =>
      let z : Slot := { op := .load { n := n, e := e, dst := dst, ea := ea }, mem := true, fp := fp }
      let b := s.before x.lc z
      let d : Core := { b with misses := b.misses ++ [{ id := b.nextMiss, src := .parts (partsOf (p :: ps)) (n, e), addr := p.pa, older := b.sb.length, ex := b.exec }], nextMiss := b.nextMiss + 1 }
      s.Alone x z → s.access x.lc c c.priv { ea := ea.toNat, n := n, need := .r } = .ok (p :: ps) → p.mt ≠ 2 → s.hitBytes (pairOf x.lc) (p :: ps) = none →
        exec i s = .next (s.groupEnd x.lc 1 (d.closed [z] [{ res dst 0 4 with wait := some b.nextMiss }] none))
    loads (.ldB x f) 1 .sign (.g f.d.toNat) false ∧ loads (.ldH x f) 2 .sign (.g f.d.toNat) false ∧ loads (.ldW x f) 4 .sign (.g f.d.toNat) false
    ∧ loads (.ldD x f) 8 .zero (.g f.d.toNat) false ∧ loads (.ldBu x f) 1 .zero (.g f.d.toNat) false ∧ loads (.ldHu x f) 2 .zero (.g f.d.toNat) false
    ∧ loads (.ldWu x f) 4 .zero (.g f.d.toNat) false
    ∧ (f.d.toNat < 32 → c.arch.fpu = true → loads (.ldfS x f) 4 .zero (.f f.d.toNat) true ∧ loads (.ldfD x f) 8 .zero (.f f.d.toNat) true)

/-- R125, R127, 07 R338, R340: every load, from any region, issues alone: a DEV load becomes a miss of its own that its turn sends. -/
def Obligations.LoadsIssueFromEveryRegion : Prop :=
  ∀ (s : State) (x : At) (f : IF),
    let c := s.core x.lc
    let z := fun (n : Nat) (e : Ext) (dst : Dst) (fp : Bool) => ({ op := .load { n := n, e := e, dst := dst, ea := c.rg f.a + f.imm.signExtend 64 }, mem := true, fp := fp } : Slot)
    let g := Dst.g f.d.toNat
    s.IssuesAlone x (.ldB x f) (z 1 .sign g false) ∧ s.IssuesAlone x (.ldH x f) (z 2 .sign g false) ∧ s.IssuesAlone x (.ldW x f) (z 4 .sign g false)
    ∧ s.IssuesAlone x (.ldD x f) (z 8 .zero g false) ∧ s.IssuesAlone x (.ldBu x f) (z 1 .zero g false) ∧ s.IssuesAlone x (.ldHu x f) (z 2 .zero g false)
    ∧ s.IssuesAlone x (.ldWu x f) (z 4 .zero g false)
    ∧ (f.d.toNat < 32 → c.arch.fpu = true →
        s.IssuesAlone x (.ldfS x f) (z 4 .zero (.f f.d.toNat) true) ∧ s.IssuesAlone x (.ldfD x f) (z 8 .zero (.f f.d.toNat) true))

/-- R130 to R133, 06 R268: an atomic alone in its group is a miss, behind a capture, that is performed when every older store has left the
store buffer; Gd is written with the old value then. Also the value that each atomic writes, of an old value, an expected value and an operand of n bytes. -/
def Obligations.AtomicsWaitTheirTurn : Prop :=
  (∀ (s : State) (x : At) (r : RF) (sz : BitVec 3) (p : Piece),
    let c := s.core x.lc
    let a := c.rg r.a
    let n := 2 ^ sz.toNat
    let waits := fun (i : Instr) (z : Slot) (q : Req) (src : MissSrc) (fs : List Flight) =>
      let b := s.before x.lc z
      let d : Core := { b with misses := b.misses ++ [{ id := b.nextMiss, src := src, addr := p.pa, ahead := b.sb.length, older := b.sb.length, key := some (onceKey c.arch 0 0), ex := b.exec }],
                               nextMiss := b.nextMiss + 1 }
      s.Alone x z → c.once = [] → s.access x.lc c c.priv q = .ok [p] →
        exec i s = .next (s.groupEnd x.lc 1 (d.closed [z] (fs.map (fun f => { f with once := true, wait := some b.nextMiss })) none))
    let one := fun (i : Instr) (op : RmwOp) =>
      waits i { op := .atomic op n a (c.rg r.d) (c.rg r.b) r.d.toNat, mem := true } { ea := a.toNat, n := n, need := .rw, align := n, noDev := true }
        (.rmw op p.pa n p.mt (c.rg r.d) (c.rg r.b)) [resG r.d 0 4]
    let two := (c.arch.rg (r.d.toNat + 1), c.arch.rg (r.b.toNat + 1))
    (sz.toNat < 4 →
      one (.cas x r sz) .cas ∧ one (.swap x r sz) .swap ∧ one (.faddA x r sz) .add ∧ one (.forA x r sz) .or ∧ one (.fandA x r sz) .and)
    ∧ (r.d.toNat % 2 = 0 → r.b.toNat % 2 = 0 →
      waits (.cas2 x r 3) { op := .cas2 a (c.rg r.d) two.1 (c.rg r.b) two.2 r.d.toNat, mem := true }
        { ea := a.toNat, n := 16, need := .rw, align := 16, noDev := true } (.cas2 p.pa p.mt (c.rg r.d) two.1 (c.rg r.b) two.2)
        [resG r.d 0 4, res (.g (r.d.toNat + 1)) 0 4]))
  ∧ (∀ (n old e v : Nat), n ∈ [1, 2, 4, 8] → old < 2 ^ (8 * n) →
    RmwOp.apply .cas n old e v = (if old = e % 2 ^ (8 * n) then v % 2 ^ (8 * n) else old)
    ∧ RmwOp.apply .swap n old e v = v % 2 ^ (8 * n) ∧ RmwOp.apply .add n old e v = (old + v) % 2 ^ (8 * n)
    ∧ RmwOp.apply .or n old e v = (old ||| v) % 2 ^ (8 * n) ∧ RmwOp.apply .and n old e v = (old &&& v) % 2 ^ (8 * n))

/-- R136, R139, 07 R314, R317, R318: the bit-space instructions, alone in their group: a read gives its bit register after 4 beats, from the
private RAM at once; of a plain bit it gives what the core's own pending writes decide, when no miss is older, or applies them to the bit as
it arrives; any other waits for the core's writes to it. Writes enter the store buffer; BTAS and BXCH of a bit elsewhere wait their turn as an atomic
does (R138). -/
def Obligations.BitSpaceInstructions : Prop :=
  ∀ (s : State) (x : At) (f : IF) (r : RF),
    let c := s.core x.lc
    let ba := (c.rg f.a + f.imm.signExtend 64).toNat
    let bx := (c.rg r.a).toNat
    let pend := fun b => (bitPend c.sb b).foldl bitApply (Tab.get false c.bitram b)
    let done := fun (i : Instr) (z : Slot) (d : Core) (fs : List Flight) => exec i s = .next (s.groupEnd x.lc 1 (d.closed [z] fs none))
    let zr : Slot := { op := .bitRead (c.rg f.a + f.imm.signExtend 64) f.d.toNat, mem := true }
    let miss := fun (b : Core) (m : Miss) => ({ b with misses := b.misses ++ [{ m with id := b.nextMiss, ex := b.exec }], nextMiss := b.nextMiss + 1 } : Core)
    let reads := fun (m : Miss) (v : Bool) => done (.bld x f) zr (miss c m) [{ resB f.d v 4 with wait := some c.nextMiss }]
    let zw := fun (op : BitOp) (b : Option Nat) => ({ op := .bitWrite op b f.a.toNat (f.imm.signExtend 64), mem := true, regs := [f.a.toNat] } : Slot)
    let writes := fun (i : Instr) (op : BitOp) (b : Option Nat) =>
      let d := (s.before x.lc (zw op b)).push [.bitw ba op]
      s.Alone x (zw op b) → d.sbLoad ≤ 32 → done i (zw op b) d []
    let zt : Slot := { op := .bitTas r.a.toNat r.d.toNat, mem := true, regs := [r.a.toNat] }
    let zx : Slot := { op := .bitXch (c.rg r.a) (c.rb r.b) r.d.toNat, mem := true }
    let swaps := fun (i : Instr) (z : Slot) (v : Bool) =>
      let b := s.before x.lc z
      s.Alone x z →
        (bx < 0x10000 → (b.push [.bitw bx (.put v)]).sbLoad ≤ 32 → done i z (b.push [.bitw bx (.put v)]) [resB r.d (pend bx) 4])
        ∧ (0x10000 ≤ bx → c.once = [] →
            done i z (miss b { id := 0, src := .bitRmw bx v, addr := bx, ahead := b.sb.length, older := b.sb.length, key := some (onceKey c.arch 0 0) })
              [{ resB r.d false 4 with once := true, wait := some b.nextMiss }])
    (s.Alone x zr → ba < 0x10000 → done (.bld x f) zr c [resB f.d (pend ba) 4])
    ∧ (s.Alone x zr → 0x10000 ≤ ba →
        ((bitAt ba).rw = false → reads { id := 0, src := .bitAt ba, addr := ba, ahead := bitAhead c.sb ba, older := c.sb.length } false)
        ∧ ((bitAt ba).rw = true → ∀ v, bitFwd (bitPend c.sb ba) = some v →
            (c.misses = [] → reads { id := 0, src := .fixed, addr := ba } v)
            ∧ (c.misses ≠ [] → reads { id := 0, src := .bitAt ba, addr := ba, older := c.sb.length } false))
        ∧ ((bitAt ba).rw = true → bitFwd (bitPend c.sb ba) = none → reads { id := 0, src := .bitAt ba, addr := ba, older := c.sb.length } false))
    ∧ writes (.bst x f) (.put (c.rb f.d)) (some f.d.toNat)
    ∧ (f.d = 0 → writes (.bset x f) (.put true) none ∧ writes (.bclr x f) (.put false) none ∧ writes (.bflip x f) .flip none)
    ∧ (r.b = 0 → swaps (.btas x r) zt true) ∧ swaps (.bxch x r) zx (c.rb r.b)

/-- R140 to R146: an SMM alone in its group stores the registers of its mask, that MPROG does not record, at consecutive words, in
the larger of 1 and half their number of beats, and clears MPROG. -/
def Obligations.StoreMultiple : Prop :=
  ∀ (s : State) (x : At) (r : RF),
    let c := s.core x.lc
    let z : Slot := { op := .smm r.a.toNat r.b.toNat, mem := true, multi := true, regs := [r.a.toNat, r.b.toNat] }
    let regs := (((List.range 63).map (· + 1)).filter (fun k => (c.rg r.b).toNat / 2 ^ k % 2 = 1))
    let todo := regs.zipIdx.filter (fun p => c.arch.bk.mprog.toNat / 2 ^ p.1 % 2 = 0)
    let words := todo.flatMap (fun p => pieceEntries (decide (c.priv = 2))
      (s.piecesOf x.lc { ea := ((c.rg r.a).toNat + 8 * p.2) % 2 ^ 64, n := 8, need := .w, align := 8 }) (leBytes 8 (c.arch.rg p.1).toNat))
    let d := (s.before x.lc z).push words
    r.d = 0 → s.Alone x z → words.length ≤ c.room → d.sbLoad ≤ 32 →
      exec (.smm x r) s = .next (s.groupEnd x.lc (max 1 ((regs.length + 1) / 2))
        (({ d with arch := d.arch.setBk { d.arch.bk with mprog := 0 } } : Core).closed [z] [] none))

/-- R147, R148, R153, 07 R355: fills write their word and advance Gd; maintenance by address of a WB line enters the store buffer. -/
def Obligations.FillsAndMaintenanceEnterTheStoreBuffer : Prop :=
  ∀ (s : State) (x : At) (r : RF) (a : Reg) (imm : BitVec 12) (ps : List Piece) (p : Piece),
    let c := s.core x.lc
    let v := leBytes 8 (c.rg r.b).toNat
    let ea := (c.rg a + imm.signExtend 64).toNat
    let fills := fun (i : Instr) (z : Slot) (q : Req) (n : Nat) (bs : List Byte) =>
      let d := (s.before x.lc z).push (pieceEntries (decide (c.priv = 2)) ps bs)
      s.Alone x z → s.access x.lc c c.priv q = .ok ps → d.sbLoad ≤ 32 →
        exec i s = .next (s.groupEnd x.lc 1 (d.closed [z] [resG r.d (c.rg r.d + BitVec.ofNat 64 n) 1] none))
    let maint := fun (i : Instr) (op : MaintOp) (need : Need) =>
      let z : Slot := { op := .maint op (c.rg a + imm.signExtend 64), mem := true }
      let d := (s.before x.lc z).push [.maint op (p.pa / 128)]
      s.Alone x z → s.access x.lc c c.priv { ea := ea, n := 1, need := need } = .ok (p :: ps) → p.mt = 0 → d.sbLoad ≤ 32 →
        exec i s = .next (s.groupEnd x.lc 1 (d.closed [z] [] none))
    (r.a = 0 →
      fills (.fill x r) { op := .fill r.d.toNat r.b.toNat, mem := true, regs := [r.d.toNat, r.b.toNat] } { ea := (c.rg r.d).toNat, n := 8, need := .w } 8 v
      ∧ fills (.filll x r) { op := .filll r.d.toNat r.b.toNat, mem := true, regs := [r.d.toNat, r.b.toNat] }
          { ea := (c.rg r.d).toNat, n := 128, need := .w, align := 128, noDev := true } 128 ((List.range 16).flatMap (fun _ => v)))
    ∧ maint (.clean x a imm) .clean .r ∧ maint (.clinv x a imm) .clinv .r ∧ (1 ≤ c.priv.toNat → maint (.inval x a imm) .inval .w)

/-- R140 to R145, R147 to R149, R152 to R154: LMM, a block move and a prefetch issue alone in their group, for every address, size and region
that their check lets through: an LMM begins a load for each register of its mask that MPROG does not record, clears MPROG, and takes
its beats; a block move begins its read, advances both its registers, and needs the room in the store buffer that its write takes. With
no hit in L1D and no DEV source they complete so: each register of the LMM waits for a miss of its own, the move waits for one that holds the
place of its write in the store buffer. A prefetch brings its line of WB memory into the levels it names, and does nothing where it may not read. -/
def Obligations.LoadMultipleMovesAndPrefetchIssue : Prop :=
  ∀ (s : State) (x : At) (r : RF) (a : Reg) (imm : BitVec 12),
    let c := s.core x.lc
    let ea := c.rg a + imm.signExtend 64
    let zl : Slot := { op := .lmm r.a.toNat r.b.toNat, mem := true, multi := true, regs := [r.a.toNat, r.b.toNat] }
    let zv := fun op : SlotOp => ({ op := op, mem := true, regs := [r.d.toNat, r.a.toNat] } : Slot)
    let pref := fun (i : Instr) (lvl : Nat) =>
      let z : Slot := { op := .pref lvl ea, mem := true }
      let gives := fun t : State => exec i s = .next (t.groupEnd x.lc 1 ((t.core x.lc).closed [z] [] none))
      s.Alone x z →
        ((∀ pa, s.translate c c.priv .r ea.toNat ≠ .ok pa 0) → gives s)
        ∧ (∀ pa, s.translate c c.priv .r ea.toNat = .ok pa 0 →
            (isCarve pa = true ∨ s.backed pa = false → gives s)
            ∧ (isCarve pa = false → s.backed pa = true →
                let seen := s.coreSees x.lc pa 0x01
                (lvl < 3 → gives (seen.fillData (pairOf x.lc) (pa / 128) (decide (lvl < 2))))
                ∧ (lvl = 3 → ((s.anyCopy (pa / 128)).isSome = true → gives (s.l3Touch (chipOf x.lc) (pa / 128)))
                    ∧ (s.anyCopy (pa / 128) = none → ∀ bs, s.cohLine (pa / 128) = some bs →
                        gives (seen.l3Put (chipOf x.lc) { num := pa / 128, dirty := false, data := lineOf bs })))))
    let at_ := fun (r n : Nat) (need : Need) (al : Nat) (nd : Bool) => s.piecesOf x.lc { ea := r, n := n, need := need, align := al, noDev := nd }
    let missing := fun ps : List Piece => ps ≠ [] ∧ (ps.headD ⟨0, 0, 0⟩).mt ≠ 2 ∧ s.hitBytes (pairOf x.lc) ps = none
    let moves := fun (i : Instr) (op : SlotOp) (n al : Nat) (nd : Bool) =>
      let z := zv op
      let b := s.before x.lc z
      let src := at_ (c.rg r.a).toNat n .r al nd
      let dst := at_ (c.rg r.d).toNat n .w al nd
      let h := decide (c.priv = 2)
      let w := ((pieceEntries h dst (List.replicate ((src.map (·.len)).foldl (· + ·) 0) 0)).map SbKind.weight).foldl (· + ·) 0
      let m : Miss := { id := b.nextMiss, src := .parts (partsOf src) (n, .zero), addr := (src.headD ⟨0, 0, 0⟩).pa, older := b.sb.length,
                        move := some (0, dst.map (fun p => (p.pa, p.len, p.mt)), h), ex := b.exec }
      let d := ({ b with misses := b.misses ++ [m], nextMiss := b.nextMiss + 1 } : Core).push [.hole b.nextMiss w]
      s.Alone x z → missing src → (∀ m ∈ c.misses, m.move = none) → d.sbLoad ≤ 32 →
        exec i s = .next (s.groupEnd x.lc 1 (d.closed [z] [{ res .block 0 4 with wait := some b.nextMiss },
          resG r.d (c.rg r.d + BitVec.ofNat 64 n) 1, resG r.a (c.rg r.a + BitVec.ofNat 64 n) 1] none))
    let regs := maskRegs (c.rg r.b)
    let todo := c.arch.mmTodo r.b.toNat
    let bl := s.before x.lc zl
    let word := fun e : Nat × Nat => at_ (((c.rg r.a).toNat + 8 * e.2) % 2 ^ 64) 8 .r 8 false
    let loads := todo.zipIdx.map (fun e => ({ id := bl.nextMiss + e.2, src := .parts (partsOf (word e.1)) (8, .zero), addr := ((word e.1).headD ⟨0, 0, 0⟩).pa,
                                              older := bl.sb.length, ex := bl.exec } : Miss))
    let dl : Core := { bl with misses := bl.misses ++ loads, nextMiss := bl.nextMiss + todo.length, arch := bl.arch.setBk { bl.arch.bk with mprog := 0 } }
    (r.d = 0 → s.Alone x zl → ∃ d, exec (.lmm x r) s = .next d ∧ d = s.aloneDone x.lc zl
      ∧ (d.core x.lc).arch.bk.mprog = 0 ∧ (d.core x.lc).group = [] ∧ (d.core x.lc).arch.pc = c.arch.nextPc 1)
    ∧ (r.d = 0 → s.Alone x zl → (∀ e ∈ todo, missing (word e)) → exec (.lmm x r) s = .next (s.groupEnd x.lc ((regs.length + 1) / 2 + 3)
        (dl.closed [zl] (todo.zipIdx.map (fun e => { res (.g e.1.1) 0 ((regs.length + 1) / 2 + 3) with wait := some (bl.nextMiss + e.2) })) none)))
    ∧ (r.b = 0 → r.d ≠ r.a →
        s.IssuesAlone x (.mvb x r) (zv (.mvb r.d.toNat r.a.toNat)) 2 ∧ s.IssuesAlone x (.mvl x r) (zv (.mvl r.d.toNat r.a.toNat)) 8
        ∧ moves (.mvb x r) (.mvb r.d.toNat r.a.toNat) 8 1 false ∧ moves (.mvl x r) (.mvl r.d.toNat r.a.toNat) 128 128 true)
    ∧ pref (.prefL1 x a imm) 0 ∧ pref (.prefL1w x a imm) 1 ∧ pref (.prefL2 x a imm) 2 ∧ pref (.prefL3 x a imm) 3

/-- R99 to R101, R158, R159: a control transfer alone in its group opens a delay group with its outcome and target; a call that is
taken writes LK with the address after the delay group of n words. -/
def Obligations.ControlTransfersOpenADelayGroup : Prop :=
  ∀ (s : State) (x : At) (f : BF) (r : RF) (n : Nat),
    let c := s.core x.lc
    let tgt := c.arch.pc + f.disp.signExtend 64 * 4
    let lk := c.arch.pc + BitVec.ofNat 64 (4 + 4 * n)
    let goes := fun (i : Instr) (z : Slot) (fs : List Flight) (taken : Bool) (t : Word) =>
      s.Alone x z → exec i s = .next (s.groupEnd x.lc 1 (c.closed [z] fs (some (taken, t))))
    let z := fun (taken : Bool) (t : Word) (l : Option Word) (k : Nat) => ({ op := .branch taken t l k, ct := true } : Slot)
    goes (.br x f) (z (c.rb f.c) tgt none 0) [] (c.rb f.c) tgt
    ∧ (1 ≤ n → n ≤ 4 →
        (c.rb f.c = true → goes (.call x f n) (z true tgt (some lk) n) [res .lk lk 1] true tgt)
        ∧ (c.rb f.c = false → goes (.call x f n) (z false tgt none n) [] false tgt)
        ∧ (r.d = 0 → r.b = 0 → goes (.callr x r n) (z true (c.rg r.a) (some lk) n) [res .lk lk 1] true (c.rg r.a)))
    ∧ (r.d = 0 → r.b = 0 → goes (.jmpr x r) (z true (c.rg r.a) none 0) [] true (c.rg r.a))
    ∧ (r = ⟨0, 0, 0⟩ → goes (.jmprLk x r) (z true c.arch.bk.lk none 0) [] true c.arch.bk.lk)

/-- R85, R153, R156, R161 to R163: a serialising instruction that stands alone, with no miss outstanding, has its effect after the idle
beats in which every result lands and the capture before it: cache maintenance by set and way, SVC, returns, barriers, SAVEBANK, WAIT and the TLB
invalidations. -/
def Obligations.SerialisingInstructions : Prop :=
  ∀ (s : State) (x : At) (r : RF) (f : IF),
    let l := x.lc
    let z := fun (mem noDelay : Bool) => serialSlot none mem false noDelay
    let p := (s.core l).priv.toNat
    let zero := r = ⟨0, 0, 0⟩
    let waits := fun (i : Instr) (mem : Bool) (b : Core → Barrier) => s.Serialises x i (z mem false) (fun t => t.modCore l (fun c => { c with barrier := some (b c) }))
    let sets := fun (i : Instr) (op : MaintOp) => s.Serialises x i (z false false) (fun t => (t.setWay (pairOf l) ((t.core l).rg r.a).toNat op).retire l)
    (r.d = 0 → r.b = 0 → p = 2 → sets (.cleanSw x r) .clean ∧ sets (.invalSw x r) .inval ∧ sets (.clinvSw x r) .clinv)
    ∧ (f.d = 0 → f.a = 0 → s.Serialises x (.svc x f) (z false true) (fun t =>
        t.enterThen l { cause := .svc, info := f.imm.toNat } ((t.core l).arch.pc + 4) (fun u => if (t.core l).arch.bank = 6 then u else u.lctxEffect l)))
    ∧ (zero → (s.core l).arch.bank ≠ 0 → 1 ≤ p →
        s.Serialises x (.rfe x r) (z false true) (fun t => t.rfe l false) ∧ s.Serialises x (.rfeC x r) (z false true) (fun t => t.rfe l true)
        ∧ s.Serialises x (.savebank x r) (z true false) (fun t => t.saveBank l))
    ∧ (zero → waits (.fence x r) true (fun _ => .fence) ∧ waits (.fenceS x r) true (fun _ => .fenceS) ∧ waits (.fenceD x r) true (fun _ => .fenceD))
    ∧ (zero → 1 ≤ p → s.Serialises x (.wait x r) (z false false)
        (fun t => (t.modCore l (fun c => { c with group := [], waiting := true, arch := { c.arch.advance 1 none with repLeft := none, rest := [] } })).rxGroup l 1))
    ∧ (r.d = 0 → r.b = 0 → 1 ≤ p → waits (.tlbiV x r) false (fun c => .tlbiV (c.rg r.a).toNat c.lctxCur.inst))
    ∧ (r.d = 0 → r.b = 0 → p = 2 → waits (.tlbiI x r) false (fun c => .tlbiI ((c.rg r.a).toNat % 2 ^ 13))
        ∧ (r.a = 0 → waits (.tlbiA x r) false (fun _ => .tlbiA)))

/-- R59 to R62, R162, 06 R262, R265, 07 R351: MFC, in the issue beat of its group, and MFLK read with latency 1, MTLK writes LK, MTC has its effect after the idle beats; the five
changes of CCTL that clean are writes of Ga to CCTL. RDTIME gives DTIME after 2 beats; on a checked pair the halves agree on it first, and
a follower of two modules gives its leader's value (16 R750). -/
def Obligations.ControlRegisterAndTimeAccess : Prop :=
  (∀ (s : State) (x : At) (r : RF) (n : BitVec 6) (rd : Nat) (wr : Option Nat) (w : Nat),
    let l := x.lc
    let c := s.core l
    let mtc := fun (i : Instr) (n : Nat) =>
      s.Serialises x i (serialSlot none false (decide (n = 1)) false)
        (fun t => let v := (t.core l).rg r.a
                  if n = 8 then t.mtcCctl l v else ((t.perfMtc l n v).modArch l (fun a => a.mtc n v)).retire l)
    ctlLevels n.toNat = some (rd, wr) → (n = 1 → c.arch.fpu = true) →
      (r.a = 0 → r.b = 0 → rd ≤ c.priv.toNat →
          let v := s.mfcVal l n.toNat
          let z : Slot := { op := .mfc r.d.toNat n.toNat, fp := decide (n = 1) }
          s.ClosesRegs x z → exec (.mfc x r n) s =
              .next (v.2.groupEnd l 1 ((v.2.core l).closed (c.group ++ [z]) (c.group.flatMap Slot.results ++ [resG r.d v.1 1]) none))
            ∧ (n ≠ 49 → v = (s.ctlVal l n.toNat, s)))
      ∧ (r.a = 0 → r.b = 0 → s.GivesRegs x (.mflk x r) (regSlot [resG r.d c.arch.bk.lk 1]))
      ∧ (r.d = 0 → r.b = 0 → s.GivesRegs x (.mtlk x r) (regSlot [res .lk (c.rg r.a) 1]))
      ∧ (r.d = 0 → r.b = 0 → wr = some w → w ≤ c.priv.toNat →
          (n = 8 → ¬ (l % 2 = 1 ∧ (s.pair (pairOf l)).mode = .split)) → mtc (.mtc x r n) n.toNat)
      ∧ (r.d = 0 → r.b = 0 → c.priv = 2 → ¬ (l % 2 = 1 ∧ (s.pair (pairOf l)).mode = .split) →
          mtc (.cctlClearL1den x r) 8 ∧ mtc (.cctlClearL1ien x r) 8 ∧ mtc (.cctlClearL2en x r) 8 ∧ mtc (.cctlRaiseScrw x r) 8 ∧ mtc (.cctlLowerScrw x r) 8))
  ∧ (∀ (s : State) (x : At) (r : RF),
    let c := s.core x.lc
    let z : Slot := { op := .rdtime r.d.toNat, mem := true }
    let g : Grant := { kind := 2, addr := 0, agent := x.lc }
    let now := s.time.dtime
    r.a = 0 → r.b = 0 → s.Alone x z →
      (s.dpx.follows = false → s.checkedPair x.lc = false →
          exec (.rdtime x r) s = .next ((s.grant { g with val := now }).groupEnd x.lc 1 (c.closed [z] [resG r.d now 2] none)))
      ∧ (s.dpx.follows = true →
          let v := ((s.dpx.next g).map (·.val)).getD now
          let t := s.rxLog x.lc v
          exec (.rdtime x r) s = .next ((t.grant g).groupEnd x.lc 1 ((t.core x.lc).closed [z] [resG r.d v 2] none)))
      ∧ (s.dpx.follows = false → s.checkedPair x.lc = true →
          exec (.rdtime x r) s = .next (s.groupEnd x.lc 1
            (({ c with nextMiss := c.nextMiss + 1, freezes := c.freezes ++ [.agreement],
                       inputs := c.inputs ++ [{ kind := .rdtime, e := none, o := none, id := c.nextMiss }] } : Core).closed [z]
              [{ resG r.d 0 2 with wait := some c.nextMiss }] none))))

/-- R82, R170: a word without the stop bit joins the group being formed, REP among them, and nothing else changes. -/
def Obligations.WordsJoinTheGroup : Prop :=
  ∀ (s : State) (x : At) (r : RF) (f : IF) (upto : Nat),
    let c := s.core x.lc
    let joins := fun (i : Instr) (z : Slot) => exec i s = .next (s.setCore x.lc { c with group := c.group ++ [z] })
    s.ready x.lc = true → x.stop = false → c.group.length < 3 → c.arch.badPc = false →
      joins (.add x r) (regSlot [resG r.d (c.rg r.a + c.rg r.b) 1])
      ∧ joins (.stD x f) { op := .store 8 (c.rg f.a + f.imm.signExtend 64) (c.rg f.d) false, mem := true }
      ∧ (r.d = 0 → r.b = 0 → joins (.rep x r upto) { op := .rep r.a.toNat upto, noDelay := true })

/-- R170 to R173, 04 R212: REP heads a group of two words. A repeat whose count is 0 makes no step: it takes one beat, changes no register
and advances past both words, and freezes under constant time as a group that holds a floating-point step does; one of DSTEP.F whose count is 1
makes one step and counts down to 0. -/
def Obligations.RepeatCountsDown : Prop :=
  ∀ (s : State) (x y : At) (q r : RF) (upto : Nat) (ps : List Piece),
    let l := x.lc
    let c := s.core l
    let ra := q.a.toNat
    let z0 : Slot := { op := .rep ra upto, noDelay := true }
    let z1 : Slot := { op := .dstepF r.d.toNat, md := true, regs := [r.d.toNat], wr := (List.range 4).map (fun k => r.d.toNat + k) }
    let t := s.setCore l { c with group := [z0] }
    let d : Core := { c with group := [], arch := c.arch.setBk { c.arch.bk with repact := false } }
    let zf : Slot := { op := .fstep r.d.toNat, fp := true, md := true, freezing := true }
    s.ready l = true → x.stop = false → y.lc = l → y.stop = true → c.group = [] → c.arch.repLeft = none → c.arch.badPc = false → c.sbLoad ≤ 32 → c.arch.rest = [] →
    q.d = 0 → q.b = 0 → r.d.toNat % 4 = 0 → 4 ≤ r.d.toNat → r.a = 0 → r.b = 0 → t.groupCheck l (t.core l) [z0, z1] true = .ok ps →
    s.fetchQuiet c (fetchWords c.arch.pc.toNat [z0, z1]) = true →
      exec (.rep x q upto) s = .next t
      ∧ (c.arch.rg ra = 0 →
        exec (.dstepF y r) t = .next ((s.setCore l (Core.beats 1 { d with arch := { d.arch.advance 2 none with repLeft := none } })).rxGroup l 1)
        ∧ (c.arch.fpu = true → r.d.toNat < 32 → ∀ us, t.groupCheck l (t.core l) [z0, zf] true = .ok us →
            exec (.fdstep y r) t = .next ((s.setCore l (Core.beats 1
              { d with freezes := if c.ct then c.freezes ++ [.subnormal] else c.freezes, arch := { d.arch.advance 2 none with repLeft := none } })).rxGroup l 1)))
      ∧ (c.arch.rg ra = 1 → c.ct = false →
        exec (.dstepF y r) t = .next ((s.groupEnd l 1
          { d with arch := { d.arch with infl := d.arch.infl ++ dstRes r.d.toNat (dStepF false (c.arch.dst r.d.toNat)) ++ [res (.g ra) 0 1], repLeft := some 0,
                                         tas := false, repStep := some (false, r.d.toNat) } }).repEnd l))

/-- R81, R87, R89: a word whose opcode is undefined, alone in its group, takes an ILLOP trap at the address of its group. -/
def Obligations.UndefinedOpcodesTrap : Prop :=
  ∀ (s : State) (x : At) (w : BitVec 32),
    let c := s.core x.lc
    s.ready x.lc = true → x.stop = true → c.group = [] → c.arch.badPc = false → c.arch.rest = [] → s.fetchCheck c [c.arch.pc.toNat] = .ok → s.fetchQuiet c [c.arch.pc.toNat] = true →
      exec (.undefinedOpcode x w) s = .next ((s.setCore x.lc { c with arch := c.arch.setBk c.arch.bk }).take x.lc { cause := .illop } c.arch.pc)

/-- 01 R29, R34 to R38, R44 to R48: before it qualifies, a measurement of a phase source that PREF names is kept and shown in OFFSET; the fourth
steady one of PTP sets device time that was unset, when nothing is due at its tick; a measurement of the active source is the offset to remove, slewed
above 1 ms, a tick removing 1/10,000 of the 2^-20 s / 0.9999 or / 1.0001 that it lasts, and until 1 ms remains. A lost source, holdover, TREF, and SET_TIME without a reference. -/
def Obligations.DeviceTimeIsDisciplined : Prop :=
  (∀ (s : State) (off : Int) (due : Bool) (gm now : Word),
    let t := s.time
    let disciplines := fun (i : Instr) (k : BitVec 2) (o : Int) =>
      let offs := if due then o :: (t.meas k).offs.take 3 else [o]
      let n := if due then (t.meas k).small else 0
      ((t.meas k).qualified = false → steady offs = false → t.unsync = true → t.phsrc ≠ k →
        exec i s = .next { s with time := { t.setMeas k { offs := offs, qualified := false, small := if o.natAbs < 100 then n + 1 else 0, left := o } with
          offset := satOffset o, disagree := 0 } })
      ∧ (t.unsync = false → t.phsrc = k → t.best = k → (t.pps.qualified && t.ptp.qualified) = false →
          ∃ u, exec i s = .next u ∧ u.time.dtofs = BitVec.ofInt 64 o ∧ u.time.slew = decide (1000000 < o.natAbs) ∧ u.time.offset = satOffset o
            ∧ u.time.lock = (if 1000 < o.natAbs then false else t.lock || decide (16 ≤ if o.natAbs < 100 then n + 1 else 0)) ∧ u.time.dtime = t.dtime)
    (t.named 1 = true → disciplines (.ppsInEdge off due) 1 (-(off - (t.ppsdly.toNat : Int))))
    ∧ (t.named 2 = true → t.gmid = gm → disciplines (.ptpSync off due gm now) 2 (-off)
        ∧ (due = true → t.ptp.qualified = false → t.pps.qualified = false → steady (-off :: t.ptp.offs.take 3) = true → t.unsync = true → t.setTime = none → t.phsrc = 0 →
            let m : SrcMeas := { offs := -off :: t.ptp.offs.take 3, qualified := true, small := if off.natAbs < 100 then t.ptp.small + 1 else 0, left := -off }
            let w : State := { s with time := { t.setMeas 2 m with offset := satOffset (-off), hold := false, hold24 := false } }
            w.doDue = w → s.inst.insts.all (fun e => !e.2.epochWait) = true → ∃ u, exec (.ptpSync off due gm now) s = .next u ∧ u.time.unsync = false ∧ u.time.dtime = now ∧ u.time.ptp.qualified = true ∧ u.time.phsrc = 2
              ∧ u.time.hold = false ∧ u.time.dtofs = 0 ∧ u.time.rebases = t.rebases ++ [(now.toNat : Int) - (t.dtime.toNat : Int)])))
  ∧ (∀ (s : State) (m sec : Nat),
    let t := s.time
    let lost := fun k : BitVec 2 => if k = 1 then Instr.ppsInLoss else .ptpLoss
    (∀ k ∈ [(1 : BitVec 2), 2],
      ((t.meas k).qualified = false → exec (lost k) s = .next { s with time := t.setMeas k {} })
      ∧ ((t.meas k).qualified = true → exec (lost k) s =
          .next (let u := ({ s with time := { t.setMeas k {} with loss := true } } : State).report 1104 (pay 0)
                 if t.unsync then { u with time := u.time.holdover } else u.chooseRef)))
    ∧ (∃ f, t.holdover = { t with hold := true, lock := false, slew := false, phsrc := 0, frsrc := f, freqHeld := meanOf t.freqHist })
    ∧ (t.flock = true → exec .trefLoss s =
        .next (({ s with time := { t with flock := false, loss := true, frsrc := if t.phsrc = 2 then 3 else 0 } } : State).report 1104 (pay 0)))
    ∧ (t.hold = true → t.hold24 = false → exec .holdover24h s =
        .next (let u : State := { s with time := { t with hold24 := true } }; if t.unsync then u else u.report 1104 (pay 1)))
    ∧ (t.trefhz ≠ 0 → t.flock = false → exec .trefFrequencyLock s =
        .next (let u : State := { s with time := { t with flock := true, frsrc := t.trefhz } }; if t.frsrc = 3 then u.report 1104 (pay 0) else u))
    ∧ (t.slew = true → (t.dtofs.toInt.natAbs ≤ 1000000 → exec .slewComplete s = .next { s with time := { t with slew := false } })
        ∧ (1000000 < t.dtofs.toInt.natAbs → exec .slewComplete s = .next s))
    ∧ (∀ w : Word, t.slew = true → t.hold = false → t.phsrc ≠ 0 → 1000000 < t.dtofs.toInt.natAbs →
        let u := t.correct w
        let unit := 2048 * (if t.dtofs.toInt < 0 then 9999 else 10001)
        t.removed < unit → unit * (t.dtofs.toInt.natAbs - u.dtofs.toInt.natAbs) + u.removed = t.removed + 1953125 ∧ u.dtofs.toInt.natAbs ≤ t.dtofs.toInt.natAbs)
    ∧ (s.pupUp = true → t.setTime = some (m, sec) → exec .setTimeNoref s = .next (({ s with time := { t with setTime := none } } : State).mbDone m 0x0011 [])))

/-- 05 R240, R241, R243 to R245, 03 R163, 06 R262: at a boundary a machine check enters first, and the poison in flight
stays with the bank left; then the deliverable vector; WAIT completes on either, on a checked pair by an input that its halves agree on. -/
def Obligations.InterruptsAndMachineChecksEnter : Prop :=
  ∀ (s : State) (l v n a : Nat),
    let c := s.core l
    let x := s.cv l v
    let mchk := fun (n a : Nat) => ({ cause := .mchk, info := n, bada := a, hyp := true } : Trap)
    let enters := fun (d : Core) (t : Trap) =>
      let u := (s.setCore l d).enter l t c.arch.pc
      exec (.machineCheck l) s = .next u
      ∧ (c.arch.bank < 7 → ((u.core l).arch.bkOf c.arch.bank).pois = c.arch.infl.filterMap (fun f => match f.dst with | .poison pa => some (f.left, pa) | _ => none))
    (s.canEnter l = true → c.misses = [] → c.arch.repLeft = none →
      (c.mchk = none → c.poisoned = none → c.poisonFlight = none → c.arch.bank ≠ 7 → s.bestVec l c.arch.bk.ie = some v →
        exec (.interruptEntry l) s = .next ((s.setCore l c).enter l { cause := .intr, info := v, hyp := x.lvl, prio := x.prio.toNat, modt := x.modt.toNat } c.arch.pc))
      ∧ (c.poisoned = some a → enters { c with poisoned := none } (mchk (poisonSrc a) (s.poisonAddr a)))
      ∧ (c.poisoned = none → c.mchk = some (n, a) → enters { c with mchk := none, mchkIn := some (n, a) } (mchk n a)))
    ∧ (s.moduleStopped = false → c.waiting = true → s.wakes l = true →
        (s.checkedPair l = false → exec (.waitWakeup l) s = .next (s.waitEnd l))
        ∧ (s.checkedPair l = true → c.inputs = [] → exec (.waitWakeup l) s = .next (s.setCore l { c with inputs := [{ kind := .wake, e := none, o := none }] })))

/-- 05 R245: the vector taken is deliverable, and of the deliverable ones it has the highest priority, then level H, then the lowest number; its
entry clears its bit of VPEND and no other. -/
def Obligations.TheBestVectorIsTaken : Prop :=
  ∀ (s : State) (l v : Nat) (ie : Bool),
    let x := s.cv l
    (s.bestVec l ie = some v ↔ v < 64 ∧ s.deliverable l ie v = true ∧ ∀ u, u < 64 → s.deliverable l ie u = true → u ≠ v →
      (x u).prio.toNat < (x v).prio.toNat ∨ ((x u).prio = (x v).prio ∧ (((x v).lvl = true ∧ (x u).lvl = false) ∨ ((x v).lvl = (x u).lvl ∧ v < u))))
    ∧ (∀ (c : Core) (t : Trap) (at_ : Word), t.cause = .intr → t.info = v → v < 64 → c.arch.bank < 6 →
        (c.enter t at_).arch.vpend.getLsbD v = false ∧ ∀ u, u ≠ v → (c.enter t at_).arch.vpend.getLsbD u = c.arch.vpend.getLsbD u)

/-- 05 R214 to R234, R241: entry from a bank below 6 takes the next bank, saves the resume address, the cause and the address there,
raises the level, makes G2 of the new bank from the stack pointer of the level entered, less the frame, and goes to the vector. -/
def Obligations.EntryTakesTheNextBank : Prop :=
  ∀ (s : State) (l : Nat) (t : Trap) (at_ : Word),
    let a := (s.core l).arch
    let b := a.bk
    let lv := t.level b.priv
    let sp := if b.priv.ult lv then (if lv = 1 then a.ssp else a.hsp) else b.rg 2
    let g2 := sp - BitVec.ofNat 64 (if a.fpu then 896 else 640)
    let base := if lv = 2 then a.hvbar else a.cvbar
    a.bank < 6 → t.cause ≠ .intr → t.cause ≠ .mchk → t.info < 4096 → t.slot < 4 →
      let r := ((s.enter l t at_).core l).arch
      r.bank = a.bank + 1 ∧ r.bk.cepc = maskLow 2 at_ ∧ r.bk.priv = lv ∧ r.bk.ipl = b.ipl ∧ r.bk.ie = false ∧ r.bk.rg 2 = g2
      ∧ r.bk.ccause.toNat = a.bank * 2 ^ 56 + t.info * 2 ^ 8 + t.slot * 2 ^ 6 + t.cause.code ∧ r.bk.cbada = BitVec.ofNat 64 t.bada
      ∧ r.pc = maskLow 2 (base + BitVec.ofNat 64 (0x100 * t.cause.code)) ∧ r.infl = [] ∧ (r.bkOf a.bank).cframe = maskLow 4 g2
      ∧ (∀ k, 3 ≤ k → k < 11 → t.cause = .svc → r.bk.rg k = b.rg k) ∧ (∀ k, 1 ≤ k → k < 64 → (r.bkOf a.bank).rg k = b.rg k)

/-- 02 R96, R97, 03 R130 to R138, 04 R210, R211, 06 R274, R301, 07 R313, R314, R328, R364 to R372, 16 R747: the data of a miss arrives for the
oldest first, once it may be performed: its pieces by their region types, with what older stores forward, a bit, an atomic's old value; poison takes the place of a
result; the hits behind it follow, and what waited goes on. Fetches, table walks and freezes end. -/
def Obligations.WhatACoreWaitsForArrives : Prop :=
  (∀ (s : State) (l : Nat) (m : Miss) (rest : List Miss),
    let c := s.core l
    let h := decide (c.priv = 2)
    let gs := (if m.hit then [] else m.src.grants l)
    let after := fun u : State =>
      ((State.performHits l c.misses.length ((gs.filter (fun g => decide (g.kind ≠ 2) || s.dpx.follows)).foldl State.grant u)).sendHead l).finish l
    let runs := fun u : State => exec (.missDataArrival l) s = .next (after u)
    let comes := fun (t : State) (vs : List Word) (bs : List Byte) => runs ((t.deliver l m vs bs none).tasArrived l m (vs.headD 0))
    let logs := fun (t : State) (k : Nat) (w : Word) => t.setCore l ((t.core l).logOnce (some k) m.ex w)
    let word := fun n : Nat => BitVec.ofNat 64 n
    s.lcNumbered l = true → s.moduleStopped = false → s.dpx.frozen = false → c.freezes.contains .restore = false → c.freezes.contains .sparing = false →
    c.misses = m :: rest → c.mayPerform m = true → s.turns gs = true →
      (∀ ps x, m.src = .parts ps x → m.key = none →
        let r := State.readParts l h (c.sb.take m.older) s ps
        (∀ d, r.val = some d → comes (r.st.setCore l (r.st.core l)) [extVal x (ofLe d)] d)
        ∧ (r.val = none → runs ((r.st.deliver l m [] [] (some r.bad)).tasArrived l m 1)))
      ∧ (∀ ba, m.src = .bitAt ba → m.key = none → s.bitPoison (bitAt ba) = none →
          let t := s.planeCompare (bitAt ba)
          comes (t.setCore l (t.core l)) [word (b2n ((bitPend (c.sb.take m.older) ba).foldl bitApply (s.bitGet l (bitAt ba))))] [])
      ∧ (∀ op pa n mt e v k, m.src = .rmw op pa n mt e v → m.key = some k →
          let r := s.rmwMem l pa n mt (fun old => leBytes n (op.apply n (ofLe old) e.toNat v.toNat))
          ∀ old, r.val = some old → comes (logs r.st k (word (ofLe old))) [word (ofLe old)] old)
      ∧ (∀ pa mt e0 e1 v0 v1 k, m.src = .cas2 pa mt e0 e1 v0 v1 → m.key = some k →
          let r := s.rmwMem l pa 16 mt (fun old => if ofLe old = e0.toNat + 2 ^ 64 * e1.toNat then leBytes 8 v0.toNat ++ leBytes 8 v1.toNat else old)
          ∀ old, r.val = some old → runs ((r.st.setCore l (((r.st.core l).logOnce (some k) m.ex (word (ofLe (old.take 8)))).logOnce (some (k + 1)) m.ex (word (ofLe (old.drop 8))))).deliver
            l m [word (ofLe (old.take 8)), word (ofLe (old.drop 8))] [] none))
      ∧ (∀ ba v k, m.src = .bitRmw ba v → m.key = some k → s.bitPoison (bitAt ba) = none →
          let w := word (b2n (s.bitGet l (bitAt ba)))
          comes (logs (s.bitPut l (bitAt ba) v) k w) [w] []))
  ∧ (∀ (s : State) (l pa mt n : Nat) (va : Word) (sb : List SbEntry) (h : Bool) (f : List Byte → List Byte),
    let c := s.core l
    let scr := (s.pair (pairOf l)).scrBytes (pa % 2 ^ 20)
    let fs := fwdBytes sb ⟨pa, n, 3⟩
    (s.backed pa = true → fs.all (fun b => b.isSome) = false →
        (State.readParts l h sb s [(pa, 3, n)]).val = some (overFwd fs (scr n)) ∧ (s.rmwMem l pa n 3 f).val = some (scr n)
        ∧ (s.rmwMem l pa n 3 f).st = s.scrWrite (pairOf l) (pa % 2 ^ 20) (f (scr n)))
    ∧ (s.lcExists l = true → s.moduleStopped = false →
      (s.translate c c.priv .x c.arch.pc.toNat = .ok pa 0 → s.backed pa = true → isCarve pa = false →
        exec (.fetchComplete l) s = .next ((s.coreSees l pa 0x03).fillFetch (pairOf l) (pa / 128))
        ∧ (s.quiet (pa / 128) = true → s.coreSees l pa 0x03 = s))
      ∧ (∀ k need, (k, need) ∈ [(AccKind.read, Need.r), (.write, .w), (.rmw, .rw), (.fetch, .x)] → s.translate c c.priv need va.toNat = .ok pa mt →
          let u := (s.walkReads c c.priv va.toNat).foldl (fun t a => (t.walkSees l a).fillPiece (pairOf l) a 8) s
          exec (.tlbWalkComplete l va k) s =
            .next (u.setCore l { u.core l with tlb := (u.core l).tlb ++ (s.tlbEntries c c.priv va.toNat).filter (fun e => !(u.core l).tlb.contains e) }))
      ∧ (c.freezes.contains .subnormal = true → s.dpx.frozen = false → exec (.subnormalFreezeEnd l) s =
          .next (((s.setCore l (Core.resume { c with freezes := c.freezes.erase .subnormal })).sendHead l).finish l))))

/-- 06 R272, R273, 07 R312 to R323, R333, R357, R371, R372, 16 R747: the oldest entry of the store buffer that a seal covers is released in order when
nothing holds it, and changes memory as it leaves; a barrier completes when what it waits for has left, a TLB invalidation when nothing
translated before it is outstanding in any core, and then its entries are dropped in every core and in the hub agents. -/
def Obligations.SealedStoresLeaveAndBarriersComplete : Prop :=
  (∀ (s : State) (l : Nat) (e : SbEntry) (rest : List SbEntry),
    let c := s.core l
    let left := s.setCore l { c with sb := rest }
    let goes := fun t : State => exec (.storeRelease l) s = .next ((e.kind.grants l).foldl State.grant (t.afterRelease l))
    s.lcNumbered l = true → s.moduleStopped = false → c.sb = e :: rest →
      (e.cov ≠ 2 → exec (.storeRelease l) s = .next s)
      ∧ (e.cov = 2 → c.readFirst = false → s.releaseWaits l e.kind = false → s.turns (e.kind.grants l) = true →
          (∀ pa bs, e.kind = .mem pa bs false → isCarve pa = false → left.backed pa = true →
              goes ((if bs.length = 128 then left else left.coreSees l pa 0x02).coreStore (pairOf l) pa bs))
          ∧ (∀ pa bs, e.kind = .mem pa bs true → isCarve pa = false → left.backed pa = true → goes ((left.coreSees l pa 0x02).agentPart pa bs))
          ∧ (∀ pa bs, e.kind = .scr pa bs → left.backed pa = true → goes (left.scrWrite (pairOf l) (pa % 2 ^ 20) bs))
          ∧ (∀ pa n v h, e.kind = .dev pa n v h → goes (left.releaseDev l pa n v h))
          ∧ (∀ ba op, e.kind = .bitw ba op → goes (left.bitDo l (bitAt ba) op))
          ∧ (∀ n, n < 2 ^ 45 → (e.kind = .maint .clean n → goes (left.cleanLine n)) ∧ (e.kind = .maint .inval n → goes (left.dropLine n))
              ∧ (e.kind = .maint .clinv n → goes (left.flushLine n)))))
  ∧ (∀ (s : State) (l va i : Nat),
    let c := s.core l
    let done := fun (e : Instr) => exec e s = .next (s.barrierDone l)
    let noDev := c.devOut = [] ∧ c.sb.all (fun e => match e.kind with | .dev _ _ _ _ => false | _ => true) = true
    let inval := fun b =>
      let t := s.cores.foldl (fun t e => t.modCore e.1 (fun d => { d with tlb := tlbAfter b d.tlb })) s
      exec (.tlbiComplete l) s = .next (({ t with inst := { t.inst with hubTlb := tlbAfter b t.inst.hubTlb } } : State).barrierDone l)
    s.dpx.frozen = false → s.moduleStopped = false → c.run = .running → ((c.misses = [] → (c.barrier = some .fence → c.sb = [] → done (.fenceComplete l)) ∧ (c.barrier = some .fenceS → c.sb = [] → done (.fenceSComplete l))
        ∧ (c.barrier = some .fenceD → noDev → done (.fenceDComplete l)))
      ∧ (c.sb = [] → s.cores.all (fun e => e.2.sb.isEmpty && e.2.misses.isEmpty && e.2.devOut.isEmpty && e.2.arch.rest.isEmpty && e.2.sealed.misses.isEmpty
              && e.2.capturing.all (fun k => k.misses.isEmpty)) = true →
          (c.barrier = some (.tlbiV va i) → inval (.tlbiV va i)) ∧ (c.barrier = some (.tlbiI i) → inval (.tlbiI i)) ∧ (c.barrier = some .tlbiA → inval .tlbiA)))
    ∧ (c.freezes.contains .cacheClean = true →
        exec (.cacheCleanComplete l) s = .next ((s.setCore l { c with freezes := c.freezes.erase .cacheClean }).retire l)))

/-- 07 R338, R340 to R342, 06 R268, R275, 16 R749: a DEV access that has been sent completes once no older access to the same endpoint is outstanding; an
error, which no posted write reports (10 R509), or a timeout, which comes when its whole ticks have passed, gives all ones and sets DEVERR's report; a load's register takes its
value, which is logged; two modules agree on the completion first. -/
def Obligations.DevAccessesComplete : Prop :=
  ∀ (s : State) (l k id : Nat) (v : Word) (ok : Bool) (d : DevAcc),
    let c := s.core l
    let sent := s.setCore l { c with devOut := c.devOut.eraseIdx k, capDue := true }
    let both := fun (u : State) (ok : Bool) => s.dpx.st ≠ .paired → exec (.devAccessComplete l k ok v) s = .next u
    let out := fun u : State => d.sent + 1 + d.tmo ≤ s.time.ticks → exec (.devCompletionTimeout l k) s = .next u
    let x := (c.misses.findSome? (fun m => if some m.id = d.miss then (match m.src with | .dev x => some x | _ => none) else none)).getD (d.size, .zero)
    let takes := fun (t : State) (raw : Nat) => t.setCore l (((t.core l).logOnce d.key d.ex (extVal x raw)).fixMiss id [extVal x raw])
    let keeps := fun (t : State) (raw : Nat) =>
      let e := (t.core l).logOnce d.key d.ex (extVal x raw)
      t.setCore l { e with once := e.once.map (fun a => if some a.key = d.key ∧ a.ex = d.ex then { a with again := true } else a) }
    let ones := 2 ^ (8 * d.size) - 1
    s.moduleStopped = false → c.devOut[k]? = some d → (c.devOut.take k).any (fun e => decide (e.ep = d.ep)) = false →
      (d.write = true → both (sent.settle l) true ∧ both (if d.wack then (sent.devError l d.pa true).settle l else sent.settle l) false ∧ out ((sent.devError l d.pa true).settle l))
      ∧ (d.write = false → d.miss = some id →
          both (takes sent v.toNat) true ∧ both (takes (sent.devError l d.pa false) ones) false ∧ out (takes (sent.devError l d.pa false) ones))
      ∧ (d.write = false → d.miss = none →
          both (keeps sent v.toNat) true ∧ both (keeps (sent.devError l d.pa false) ones) false ∧ out (keeps (sent.devError l d.pa false) ones))
      ∧ (s.dpx.st = .paired → exec (.devAccessComplete l k ok v) s = .next { s with dpx := { s.dpx with inputs := s.dpx.inputs ++ [(s.time.ticks, .dev l k ok v)] } })
      ∧ (s.time.ticks < d.sent + 1 + d.tmo → exec (.devCompletionTimeout l k) s = .next s)

/-- 06 R262 to R267, R299: an input is presented to both halves, and its agreed value enters both: a vector sets its pending bit, and ends WAIT when it
can be delivered; a halt that was requested makes the core stop at the next sealed boundary; two samples of device time that differ by
one agree on the later; late agreement is reported. -/
def Obligations.InputsAreAgreedByBothHalves : Prop :=
  ∀ (s : State) (l v id : Nat) (e o : Option Sample) (a b : Sample),
    let c := s.core l
    let d : Core := { c with inputs := [] }
    let one := fun (i : InKind) (e o : Option Sample) => c.inputs = [{ kind := i, e := e, o := o, id := id }]
    let late := lateInput { kind := .wake, e := e, o := o, id := id }
    let ends := fun (t : State) => exec (.inputAgreed l 0) s = .next (if late then t.pairReport l 2 0 else t)
    let wakes := fun t : State => if c.waiting && t.wakes l then t.waitEnd l else t
    let pends := fun n : Nat => (s.setCore l (d.setVpend n)).rxLog l (BitVec.ofNat 64 n)
    s.moduleStopped = false → (one (.intr v) none none → exec (.inputPresented l (.intr v) e o) s = .next (s.setCore l { c with inputs := [{ kind := .intr v, e := e, o := o, id := id }] }))
    ∧ (c.inputs = [] → c.haltReq ≠ [] → c.halting = false → c.run = .running → s.checkedPair l = true →
        exec (.inputPresented l .halt e o) s = .next (s.setCore l { c with inputs := [{ kind := .halt, e := e, o := o }] }))
    ∧ (c.inputs = [] → c.haltReq = [] → exec (.inputPresented l .halt e o) s = .next s)
    ∧ (one (.intr v) e o → ends (wakes (pends v)))
    ∧ (one .wake e o → (s.bestVec l true = some v → ends (wakes (pends v))) ∧ (s.bestVec l true = none → ends (wakes ((s.setCore l d).rxLog l 0))))
    ∧ (one .halt e o → c.haltReq ≠ [] → c.run = .running → ends (((s.setCore l d).rxLog l 0).beginHalt l))
    ∧ (one .rdtime (some a) (some b) → s.dpx.frozen = false → b.val = a.val ∨ b.val = a.val + 1 → a.clk = b.clk →
        exec (.inputAgreed l 0) s = .next ((((s.setCore l
          { d with arch := { c.arch with infl := c.arch.infl.map (fun f => if f.wait = some id then { f with val := b.val, wait := none } else f) } }).rxLog l b.val).endFreeze
            l .agreement).grant { kind := 2, addr := 0, agent := l, val := b.val }))
    ∧ (one .rdtime (some a) (some b) → s.dpx.frozen = true → exec (.inputAgreed l 0) s = .next s)
    ∧ (one .rdtime (some a) (some b) → s.dpx.frozen = false → a.val ≠ b.val → a.val + 1 ≠ b.val → b.val + 1 ≠ a.val →
        exec (.inputAgreed l 0) s = .next ((s.setCore l d).mismatch l))

/-- 06 R266, R268 to R279: a capture covers every store made so far; its seal makes them ready to be released, ends an agreed halt and restarts the
retries; a mismatch, or signatures that differ, take the core back to the sealed checkpoint, the control registers of its pair with it,
and what no seal covers is dropped. -/
def Obligations.CheckpointsSealOrRollBack : Prop :=
  ∀ (s : State) (l : Nat) (k : Ckpt),
    let c := s.core l
    let seals := fun d : Core => exec (.sealCompare l true) s = .next (((c.acks.foldl (fun t v => t.ackEvent l v) ((s.setCore l d).rxReach l k.arch.pos)).sealPair l k).sendHead l)
    let sealed : Core := { c with sealed := k, capturing := none, sb := c.sb.map (fun e => if e.cov = 1 then { e with cov := 2 } else e), acks := [],
                                  once := c.once.filter (fun e => !e.cap), retries := 0, inRetry := false, vecIn := [], mchkIn := if c.entryWait.isSome then c.mchkIn else none }
    (s.lcExists l = true → s.moduleStopped = false → s.isRx7 l = false → c.misses = [] → c.arch.infl.any (fun f => f.wait.isSome) = false → c.owed = 0 →
      exec (.checkpointCapture l) s = .next (s.capture l))
    ∧ (c.run = .running → c.persistent = false → c.freezes.contains .restore = false → c.freezes.contains .sparing = false →
        s.capture l = s.setCore l { c with capturing := some (s.ckpt l), sb := c.sb.map (fun e => if e.cov = 0 then { e with cov := 1 } else e),
                                           once := c.once.map (fun e => if e.again then e else { e with cap := true }), capDue := false, groups := 0, exec := c.exec + 1 })
    ∧ ((s.ckpt l).arch = c.arch ∧ (s.ckpt l).waiting = c.waiting ∧ (s.ckpt l).misses = c.misses ∧ (s.ckpt l).cctl = (s.pair (pairOf l)).cctl ∧ (s.ckpt l).agreed = 0)
    ∧ (s.moduleStopped = false → c.capturing = some k → c.inRetry = false →
        (c.halting = false → seals sealed)
        ∧ (c.halting = true → c.standsAt k = true → seals { sealed with run := .halted, group := [], barrier := none }))
    ∧ (∀ e ∈ [Instr.sealCompare l false, .pressMismatch l], s.lcExists l = true → s.moduleStopped = false → c.capturing = some k → c.run = .running ∨ c.run = .halted → c.persistent = false →
        ∃ r, exec e s = .next (((s.setCore l r).vecBack l c.vecIn).restoreShared l c.sealed) ∧ r.mchk = c.mchkIn.or c.mchk ∧ r.sealed = c.sealed
          ∧ r.sb = c.sb.filter (fun e => decide (e.cov = 2)) ∧ r.capturing = none ∧ r.group = [] ∧ r.retries = c.retries + 1
          ∧ r.persistent = decide (3 ≤ c.retries) ∧ r.freezes = (if 3 ≤ c.retries then [.sparing] else [.restore])
          ∧ (c.sealed.misses.all (fun m => m.key.isNone) = true →
              r.arch = { c.sealed.arch with vpend := c.sealed.arch.vpend ||| c.sealed.agreed } ∧ r.misses = c.sealed.misses))
    ∧ (s.checkedPair l = true → ((s.restoreShared l k).pair (pairOf l)).cctl = k.cctl)
    ∧ (s.moduleStopped = false → c.freezes.contains .restore = true → s.dpx.frozen = false → exec (.restoreComplete l) s =
        .next (((s.setCore l (Core.resume { c with freezes := c.freezes.erase .restore })).sendHead l).finish l))

/-- 06 R280 to R288: a corrected error of a half is recorded; a checkpoint store that fails takes the core offline; built-in test of a
pair whose halves both pass marks it suspect, a half that fails is replaced by the spare, and without one the core goes offline. -/
def Obligations.FailedHalvesAreSpared : Prop :=
  ∀ (s : State) (l : Nat) (o : Bool),
    let c := s.core l
    let n := pairOf l
    let p := s.pair n
    let ch := s.chip (n / 16)
    let ends := fun d : Core => (s.setCore l { d with persistent := false, retries := 0, inRetry := false }).endFreeze l .sparing
    (s.lcExists l = true →
      exec (.halfEccError l o true) s = .next (s.report (s.coreSrc n o 0) { pay 0 with unit := 1, msub := BitVec.ofNat 8 l, ins := BitVec.ofNat 13 c.lctxCur.inst })
      ∧ (s.moduleStopped = false → exec (.checkpointStoreUe l) s = .next ((s.offline l).pairReport l 3 3)))
    ∧ (s.moduleStopped = false → c.persistent = true → c.run = .running ∨ c.run = .halted → p.mode = .checked →
        (p.suspect = false → exec (.bistComplete l true true) s =
          .next ((((s.setPair n { p with suspect := true }).setCore l { c with persistent := false, retries := 0, inRetry := false }).endFreeze l .sparing).pairReport l 3 1))
        ∧ (ch.spareE = true → exec (.bistComplete l false true) s = .next (((s.replaceHalf n false).setCore l { c with persistent := false }).pairReport l 3 0))
        ∧ (ch.spareO = true → exec (.bistComplete l true false) s = .next (((s.replaceHalf n true).setCore l { c with persistent := false }).pairReport l 3 0))
        ∧ (ch.spareE = false → exec (.bistComplete l false true) s = .next ((s.offline l).pairReport l 3 3)))
    ∧ (s.moduleStopped = false → c.freezes.contains .sparing = true → c.persistent = false → exec (.sparingResume l) s = .next (ends c))

/-- 05 R246 to R249, 07 R342: an event of an enabled source sets the pending bit of its vector at its core, at most once; an event that
cannot be delivered is held until it can; a source that stays asserted makes no second event, but one as MODE becomes 1; ERCTL; the end of a
moderation interval, at its tick; a store of level H to control space. -/
def Obligations.EventsReachTheirVector : Prop :=
  ∀ (s : State) (l v n addr size : Nat) (w : Word),
    let e := s.er n
    let up : State := s.setEr n { e with level := true, last := some e.dst }
    let s1 := s.setEr n { e with mode := bit w.toNat 1, en := bit w.toNat 0 }
    (n < 2048 → s.dpx.st ≠ .paired →
      (e.level = true → exec (.eventSourceAssert n) s = .next s)
      ∧ (e.level = false → e.en = true → e.virt = false → s.lcExists e.lc = true → s.checkedPair e.lc = false →
          bit (s.core e.lc).arch.vpend.toNat e.vec = false → (s.core e.lc).hasIntr e.vec = false →
            exec (.eventSourceAssert n) s = .next (up.setCore e.lc ((s.core e.lc).setVpend e.vec)))
      ∧ (e.level = false → e.en = false → exec (.eventSourceAssert n) s = .next (s.setEr n { e with level := true, held := true, last := none }))
      ∧ exec (.eventSourceDeassert n) s = .next (s.setEr n { e with level := false }))
    ∧ (l < 128 → v < 64 →
        ((s.cv l v).next ≤ s.time.ticks → exec (.routerModerationExpiry l v) s = .next (s.setCv l v (s.cv l v)))
        ∧ (s.time.ticks < (s.cv l v).next → exec (.routerModerationExpiry l v) s = .next s))
    ∧ (n < 2048 → e.held = false →
        (e.mode = true ∨ bit w.toNat 1 = false ∨ e.level = false ∨ s.erStands n = true → exec (.erctlWrite n w) s = .next s1)
        ∧ (e.mode = false → bit w.toNat 1 = true → e.level = true → s.erStands n = false → exec (.erctlWrite n w) s = .next (s1.erEvent n)))
    ∧ (n < 2048 → e.held = true → bit w.toNat 0 = true → e.virt = true ∨ s.lcExists e.lc = true →
        exec (.erctlWrite n w) s = .next ((s1.setEr n { s1.er n with held := false }).erEvent n))
    ∧ (s.lcExists l = true → s.moduleStopped = false → isCtl addr = true → isAperture addr = false → size ∈ [1, 2, 4, 8] → addr % size = 0 →
        exec (.controlSpaceWrite l addr size w) s = .next ((s.ctlWrite 2 addr size w.toNat).getD (s.devError l addr true)))

/-- 09 R456, R458, R459: the scalar instructions of a sequencer take one cycle and write Sd; S0 reads zero. -/
def Obligations.SequencerScalarResults : Prop :=
  ∀ (s : State) (q : Nat) (o : SqOp),
    let x := s.sq q
    let a := x.sr o.a.toNat
    let b := x.sr o.b.toNat
    let i := o.imm.signExtend 64
    let gives := fun (c : Instr) (v : Word) => exec c s = .next (s.setSq q (x.stepped (x.setSr o.d.toNat v) x.gl))
    s.sqGoes q → o.z = 0 →
      gives (.sadd q o) (a + b) ∧ gives (.ssub q o) (a - b) ∧ gives (.sand q o) (a &&& b) ∧ gives (.sor q o) (a ||| b) ∧ gives (.sxor q o) (a ^^^ b)
      ∧ gives (.sshl q o) (a <<< (b.toNat % 64)) ∧ gives (.sshr q o) (a >>> (b.toNat % 64))
      ∧ (o.b = 0 → gives (.saddi q o) (a + i))
      ∧ (o.a = 0 → o.b = 0 → gives (.sli q o) i ∧ gives (.slih q o) (putFld (x.sr o.d.toNat) 32 32 o.imm.toNat))
      ∧ (o.d = 0 → o.a = 0 → o.b = 0 → exec (.sqNop q o) s = .next (s.setSq q (x.stepped x x.gl)))

/-- 09 R460 to R463: a branch that is not taken goes on, one that is taken costs two cycles and ends the loops that it leaves; a branch on
the OR result waits until it is readable; LOOP sets its counter and its bounds, or skips its body on a count of 0. -/
def Obligations.SequencerBranchesAndLoops : Prop :=
  ∀ (s : State) (q : Nat) (o : SqOp),
    let x := s.sq q
    let t := o.imm.toNat
    let falls := fun c : Instr => exec c s = .next (s.setSq q (x.stepped x x.gl))
    let jumps := fun c : Instr => exec c s = .next (s.sqJump q x t)
    let waits := fun (c : Instr) (w : SqWait) => exec c s = .next (s.setSq q { x with st := .wait, waits := w })
    s.sqGoes q → o.z = 0 → o.b = 0 → t < 8192 →
      (o.d = 0 → o.a = 0 →
        jumps (.sqBr q o)
        ∧ (x.orHas = true → 0 < x.orLeft → waits (.sqBor q o) (.bor false t) ∧ waits (.sqBnor q o) (.bor true t))
        ∧ (x.orHas = true → x.orLeft = 0 → x.orVal = true → jumps (.sqBor q o) ∧ falls (.sqBnor q o))
        ∧ (x.orHas = true → x.orLeft = 0 → x.orVal = false → falls (.sqBor q o) ∧ jumps (.sqBnor q o)))
      ∧ (o.d = 0 → (x.sr o.a.toNat = 0 → jumps (.bz q o) ∧ falls (.bnz q o)) ∧ (x.sr o.a.toNat ≠ 0 → falls (.bz q o) ∧ jumps (.bnz q o)))
      ∧ (o.d.toNat < 4 → o.a ≠ 0 → x.loopOn o.d.toNat = false →
          let n := o.d.toNat
          let cnt := (x.sr o.a.toNat).toNat % 2 ^ 16
          let y := { x with lc := Tab.set 0 x.lc n cnt, ix := Tab.set 0 x.ix n 0 }
          (cnt = 0 → exec (.loop q o) s = .next (s.sqJump q y (t + 1)))
          ∧ (cnt ≠ 0 → exec (.loop q o) s = .next (s.setSq q
              { x.stepped y x.gl with lfirst := Tab.set 0 x.lfirst n (x.pc + 1), lend := Tab.set 0 x.lend n t, lact := Tab.set false x.lact n true })))

/-- 08 R401, R403 to R408, R450 to R455, 09 R447, R458, R459, R461: a CELL instruction acts on every READY Vat of the partition and latches its OR
result, which is readable after the latency of the tree; with no transfer in progress and no bit-space write it meets no Mould access; a
compare of a checked pair that fails ends the attempt; the other class 3 to 6 instructions of one cycle. -/
def Obligations.SequencerArrayInstructions : Prop :=
  ∀ (s : State) (q : Nat) (o : SqOp) (k : CellOp) (ba : Nat),
    let x := s.sq q
    let i := o.imm.toNat
    let gives := fun (c : Instr) (y : Sequencer) => exec c s = .next (s.setSq q (x.stepped y x.gl))
    let bit_ := fun v : Bool => let t := s.bitPut 0 (bitAt ba) v; t.sqOn q (t.sq q) 1 x.gl
    s.sqGoes q →
      (CellOp.illegal k = false →
        let r := s.cellCycle q k
        let y := r.st.sq q
        let ors := fun z : Sequencer => if k.ors = 0 then z else { z with orHas := true, orVal := r.or_, orLeft := x.lat - 1 }
        y = { x with xfer := y.xfer } ∧ (x.xfer = none → (∀ v, (s.vat v).mport = none) → r = s.cellAll q k)
        ∧ (r.differs = [] → exec (.cell q k) s = .next (r.st.setSq q (ors (x.stepped y r.drv))))
        ∧ (∀ v vs, r.differs = v :: vs → exec (.cell q k) s = .next (vs.foldl (fun t w => t.arrayReport q .compare w 0 0)
            ((r.st.setSq q (ors (({ y with lastPc := y.pc } : Sequencer).cycles 1 r.drv))).arrayFail q .compare v 0 0 255))))
      ∧ (o.z = 0 → o.b = 0 →
          (o.a = 0 →
            let n := o.d.toNat % 4
            gives (.lockw q o) { x with wins := Tab.set {} x.wins n { en := true, phi := fld i 22 10, plo := fld i 12 10, rhi := fld i 6 6, rlo := fld i 0 6 } }
            ∧ gives (.ulockw q o) { x with wins := Tab.set {} x.wins n { Tab.get {} x.wins n with en := false } })
          ∧ (let m : BitVec 8 := 1#8 <<< (o.d.toNat % 8)
             let g := if (x.sr o.a.toNat).getLsbD 0 then x.gl ||| m else x.gl &&& ~~~m
             exec (.glset q o) s = .next (s.setSq q (x.stepped { x with gl := g } g)))
          ∧ (o.a = 0 → x.orHas = true → x.orLeft = 0 → gives (.orrd q o) (x.setSr o.d.toNat (BitVec.ofNat 64 (b2n x.orVal))))
          ∧ (o.d = 0 → s.sqBit x o = some ba →
              exec (.sbset q o) s = .next (bit_ true) ∧ exec (.sbclr q o) s = .next (bit_ false)
              ∧ (s.bitGet 0 (bitAt ba) = true → gives (.sbwait q o) x))
          ∧ (s.sqBit x o = some ba → exec (.sbld q o) s = .next (s.setSq q { x with st := .run, waits := .sbld o.d.toNat ba })))

/-- 09 R465 to R471: XFER starts its transfer or waits for the one in progress, XWAIT and DONE wait for it, DONE ends the job with OK, NOTE
raises the completion bit of the partition handle, CAPTURE begins a capture at its aligned address. -/
def Obligations.SequencerTransfersAndEnds : Prop :=
  ∀ (s : State) (q : Nat) (o : SqOp),
    let x := s.sq q
    let a := (x.sr o.a.toNat).toNat
    let idx := o.imm.toNat % 256
    let waits := fun (c : Instr) (w : SqWait) => exec c s = .next (s.setSq q { x with st := .wait, waits := w })
    s.sqGoes q → o.z = 0 → o.b = 0 → o.d = 0 →
      (x.xfer = none → exec (.xfer q o) s = .next (s.startXfer q idx a)) ∧ (x.xfer ≠ none → waits (.xfer q o) (.xfer idx a))
      ∧ (o.a = 0 → x.xfer = none → exec (.xwait q o) s = .next (s.setSq q (x.stepped x x.gl))
          ∧ exec (.done q o) s = .next ((s.setSq q (({ x with lastPc := x.pc } : Sequencer).cycles 1 x.gl)).endJob q 0 255))
      ∧ (o.a = 0 → x.xfer ≠ none → waits (.xwait q o) .xwait ∧ waits (.done q o) .done)
      ∧ (o.a = 0 → exec (.note q o) s = .next ((s.setPart x.ph { s.part x.ph with comp := true }).setSq q (x.stepped x x.gl)))
      ∧ (s.cap q = none → a % 4096 = 0 → exec (.capture q o) s = .next ((s.setSq q { x.stepped x x.gl with waits := .capture }).setCap q
          (some { addr := a, by_ := 0, mb := 0, pre := .run, edge := false, todo := [], failed := false })))

/-- 08 R401, R419 to R421, 09 R446, R458, R461, R465, R469, 12 R610: what a waiting sequencer waited for comes: the OR result, its polled bit, the bit it
read, tokens, or the end of its transfer, of which each chiplet's Mould moves its own share, one transfer at a time; the job ends when a
record could not be moved. -/
def Obligations.WaitingSequencersGoOn : Prop :=
  ∀ (s : State) (q d ba t n a : Nat) (o : SqOp) (inv : Bool) (f : XferSt) (vs : List Nat),
    let x := s.sq q
    let y := x.cycles x.orLeft x.gl
    let waited := fun k : Nat => let w := Config.free s.freeCtr
                                 ({ s with freeCtr := s.freeCtr + 1 } : State).setSq q (x.cycles (w.toNat % k) x.gl)
    s.moduleStopped = false →
      (x.st = .wait →
        (x.waits = .orrd d → exec (.orResultReady q) s = .next (s.sqOn q (y.setSr d (BitVec.ofNat 64 (b2n x.orVal))) 1 x.gl))
        ∧ (x.waits = .bor inv t → exec (.orResultReady q) s = .next (if x.orVal != inv then s.sqJump q y t else s.sqOn q y 1 x.gl))
        ∧ (x.waits = .sbwait ba → s.bitGet 0 (bitAt ba) = true →
            exec (.sbwaitSatisfied q) s = .next (let u := waited (2 ^ 48); u.sqOn q (u.sq q) 1 (u.sq q).gl)))
      ∧ (x.st = .run → x.waits = .sbld d ba →
          exec (.sbldReturn q) s = .next (let u := waited 64; u.sqOn q ((u.sq q).setSr d (BitVec.ofNat 64 (b2n (s.bitGet 0 (bitAt ba))))) 1 (u.sq q).gl))
      ∧ (∀ as, x.waits = .tokens t ba as → x.st = .wait → s.dpx.frozen = false →
          exec (.xfer q o) s = .next (((s.setSq q { x with waits := .none }).sqWaited q (2 ^ 48)).startXfer q t ba))
      ∧ (x.st = .run ∨ x.st = .wait → x.xfer = some f →
          (s.xVats q f.entry = none → exec (.mouldTransferEnd q ⟨a, n⟩) s = .next (s.endJob q 0x210 f.idx))
          ∧ (s.xVats q f.entry = some vs → s.mouldBusy q a = true → exec (.mouldTransferEnd q ⟨a, n⟩) s = .next s)
          ∧ (s.xVats q f.entry = some vs → s.mouldBusy q a = false →
              let r := State.moveUnits q vs a (Nat.min n (xShare f.entry vs (xTotal f.entry) a - f.on a)) s f
              let ends := fun u : State => exec (.mouldTransferEnd q ⟨a, n⟩) s = .next u
              (∀ st, r.2.2 = .ended st → ends (r.1.endJob q st f.idx))
              ∧ (∀ v, r.2.2 = .differs v → ends ((r.1.setSq q { r.1.sq q with xfer := some r.2.1 }).arrayFail q .compare v 0 0 255))
              ∧ (r.2.2 = .moved ∨ r.2.2 = .waits →
                  (r.2.1.over vs = true → ends (r.1.xferOver q)) ∧ (r.2.1.over vs = false → ends (r.1.setSq q { r.1.sq q with xfer := some r.2.1 })))))

/-- 09 R443, R447, R474 to R484: a job that keeps its format and finds its partition READY begins with its program load, which sets every PE;
a fault ends the attempt, a restart begins it again, and the epoch limit ends the job. -/
def Obligations.ArrayJobsRun : Prop :=
  ∀ (s : State) (qp q : Nat) (d : List Byte) (j : ArrJob),
    let s0 := s.skipRefused qp
    let ph := (s0.qp qp).ph
    let p := s0.part ph
    let x := s0.sq p.sq
    let t := s0.headOn qp
    let y := s.sq q
    let running := y.st = .progload ∨ y.st = .run ∨ y.st = .wait
    (s0.headIs qp 0x40 = some d → arunOk d = true → dF d 0 2 = ph → p.kept.job = none → x.used = true → x.st ≠ .stopped → x.ph = ph → x.job = none → s0.cap p.sq = none →
      s0.partVats p.sq ≠ [] → (∀ v ∈ s0.partVats p.sq ++ p.vats, (s0.vat v).st = .ready) →
        let b := arunJob qp (t.qp qp).head (s0.ins (s0.qpOwner qp)).gen d
        exec (.arun qp) s = .next (t.setSq p.sq { x.begin b 0 with job := some b, epochs := 0, inst := s0.qpOwner qp }))
    ∧ (y.job = some j → s.moduleStopped = false →
        let pes := (s.partVats q).foldl (fun u v => u.setVat v { u.vat v with pe := .start }) s
        (y.st = .progload → bit j.flags 2 = true → exec (.progloadComplete q) s = .next (pes.setSq q { pes.sq q with st := .run, imem := y.imem }))
        ∧ (y.st = .progload → bit j.flags 2 = false → ∀ a t, s.agentGet 3 q y.inst j.prog (8 * j.plen) = (t, .fault a) → exec (.progloadComplete q) s = .next (t.endJob q 0x302 255))
        ∧ (y.st = .stopped → exec (.arrayJobRestart q) s = .next (s.setSq q (y.begin j (y.att + 1))))
        ∧ (running → j.limit ≠ 0 → j.limit ≤ y.epochs → s.cap q = none → exec (.arrayJobLimit q) s = .next ((s.setCap q none).endJob q 0x214 255))
        ∧ (running → q < s.nSqs →
            let u := s.report (880 + q) { pay 2 with unit := 3, msub := BitVec.ofNat 8 q, ins := BitVec.ofNat 13 y.inst }
            u.moduleStopped = false → u.cap q = none → exec (.arrayFault q .seqMemory 0 0 0) s = .next ((u.setCap q none).endAttempt q 255)))

/-- 08 R433, R436 to R441, 09 R487 to R491, 12 R613: at the capture edge the READY Vats of the partition are CAPTURED and its sequencer's block
is written; each Vat whose block, with its VSTAT of the edge, is written is READY again, and the last ends the capture; the Vats of a pair
that differ are a fault; a switch at an epoch boundary captures the
partition that leaves, and the one that comes is applied again, or its job ends with ARRAY_FAULT when its image is refused or fails; clearing. -/
def Obligations.CapturesAndSwitches : Prop :=
  ∀ (s u : State) (q v ph chip f : Nat) (c : Capture),
    let x := s.sq q
    let vs := (s.partVats q).filter (fun v => decide ((s.vat v).st = .ready))
    let caps := vs.foldl (fun t v => t.setVat v { t.vat v with st := .captured }) s
    let e := { c with edge := true, pre := x.st, todo := vs.filter (fun v => !s.isTwin v), vstats := vs.foldl (fun (m : Tab Nat) v => Tab.set 0 m v (caps.vstat v)) [] }
    let held := (caps.setSq q { x with st := .captured }).setCap q (some e)
    let rest := { c with todo := c.todo.filter (· ≠ v) }
    (s.cap q = some c → s.moduleStopped = false → c.edge = false → c.failed = false → x.waits = .none → x.st ≠ .progload → x.st ≠ .unused → held.capWrite q e 0 (x.block x.st) = (u, .ok) →
      exec (.captureEdge q) s = .next (if e.todo.isEmpty then u.capDone q e else u))
    ∧ (s.cap q = some c → s.moduleStopped = false → (s.vat v).part = q → c.edge = true → v ∈ c.todo → ((s.vat v).chk = true → s.pairSame v = true) →
        s.capWrite q c (seqBlockLen + vatBlockLen * (s.partOrder q).idxOf v) (s.vatBlock v (Tab.get 0 c.vstats v)) = (u, .ok) →
        exec (.captureReadoutComplete v true) s = .next (let t := (u.vatReady v).setCap q (some rest); if rest.todo.isEmpty then t.capDone q rest else t))
    ∧ (s.cap q = some c → s.moduleStopped = false → (s.vat v).part = q → c.edge = true → v ∈ c.todo → (s.vat v).chk = true → s.pairSame v = false →
        exec (.captureReadoutComplete v true) s = .next (s.capCompare q v c))
    ∧ (s.moduleStopped = false → ∃ t, exec (.vatClearComplete chip) s = .next t ∧ ∀ k, t.vat k = if 64 * chip ≤ k ∧ k < 64 * chip + 64 ∧ (s.vat k).clearing = true then (s.vat k).cleared else s.vat k)
    ∧ (s.moduleStopped = false → x.used = true → s.time.atEpoch = true → s.cap q = none → s.nextPart q = some ph → s.hasArrWork x.ph = false →
        exec (.partitionSwitch q ph) s = .next (s.setCap q (some
          { addr := (s.part x.ph).save, by_ := 2, mb := ph, pre := x.st, edge := !((s.part x.ph).planned && decide ((s.part x.ph).sq = q)), todo := [], failed := false })))
    ∧ (s.moduleStopped = false → s.cap q = some { c with by_ := 2, edge := true, todo := [] } → s.partVats q = [] → (s.part c.mb).saved = false → q < 16 →
        let p := s.part c.mb
        let r := ((s.setCap q none).setPart c.mb { p with kept := {}, saved := false, saveValid := false }).reapply q c.mb (if f = 0 then none else some (f - 1))
        (p.image.isEmpty || (s.imageRules p.image).isSome || (s.imageBusy p.image [q]).isNone) = true →
          exec (.partitionRestore (q + 16 * f)) s = .next (if r.2 then r.1 else r.1.jobLost q p.kept))

/-- 10 R511 to R513, R516, R520, R524, R536: a channel descriptor at the head of its queue is taken into a free ledger entry that its instance
may hold, in state ISSUED with its endpoint's next sequence number, and is sent, while the unanswered aborts of the entry before it go on; one with a wrong field completes with JOB_FIELD; LACK
retires the entry of an unknown outcome. -/
def Obligations.ChannelOperationsEnterTheLedger : Prop :=
  ∀ (s s1 : State) (qp l : Nat) (d : List Byte) (c : Instr) (opc : Nat),
    let s0 := s.skipRefused qp
    let i := s0.qpOwner qp
    let t := s1.headOn qp
    let e := t.newLed qp d
    let old := ((t.led l).aborts).map (fun a => ({ lidx := l, ep := (t.led l).ep, path := a.1, sent := a.2 } : Orphan))
    let taken := (({ t with chan := { t.chan with orphans := t.chan.orphans ++ old } } : State).setEp e.ep { t.ep e.ep with osn := ((t.ep e.ep).osn + 1) % 2 ^ 32 }).setLed l e
    ((c, opc) ∈ [(.nvread qp l, 0x10), (.nvwrite qp l, 0x11), (.nvflush qp l, 0x12), (.nvzero qp l, 0x13), (.nvdsm qp l, 0x14), (.nvcmd qp l, 0x15), (.scmd qp l, 0x18),
        (.nsend qp l, 0x1A), (.nrecv qp l, 0x1B)] → s0.headIs qp opc = some d → s0.ledRoom i = true → s0.ledFree l = true → s0.spend i (chanCharges d) = some s1 →
      (s0.chanOk i d = true → exec c s = .next (({ taken with chan := { taken.chan with nextOrd := taken.chan.nextOrd + 1 } } : State).startLed l)
        ∧ e.st = .issued ∧ e.desc = d ∧ e.osn = (t.ep e.ep).osn ∧ e.tag = leAt d 8 4 ∧ e.ins = t.qpOwner qp ∧ e.attempt = 0)
      ∧ (s0.chanOk i d = false → exec c s = .next ((s0.headOn qp).completeDesc qp d 0x0301 (refusedExtra d) false)))
    ∧ (s0.headIs qp 0x1F = some d → s0.spend i [(0, 1)] = some s1 → zeroAt d 16 8 = true → zeroAt d 32 32 = true → dF d 8 8 < 262144 →
        let old := t.led (dF d 8 8)
        old.st = .complete → old.status = 0x0314 → old.ins = i →
          exec (.lack qp) s = .next ((t.setLed (dF d 8 8) { old with st := .retired }).completeDesc qp d 0 (leBytes 4 (dF d 8 8) ++ List.replicate 12 0) false))

/-- 10 R510, R513, R514, R520, R529 to R531, 12 R604: what a target sends for an attempt in progress: it accepts the command, its data is written, its
response completes the entry with OK or IO_ERROR; an arrival of another attempt, or a damaged one, is discarded and counted; an entry that
reads as poison ends (R515); a unit that finds no room in the buffer stays with its sender, but on Ethernet. A frame fills the receive buffer that was posted
first; inbound writes and messages of a PCIe function act for the instance that owns it. -/
def Obligations.TargetsAndNetworksSend : Prop :=
  (∀ (s : State) (l off : Nat) (x : BitVec 32) (bs : List Byte) (ps : BitVec 16) (dw : BitVec 32) (rs : Ranges),
    let e := s.led l
    let stale : State := { s with chan := { s.chan with stale := s.chan.stale + 1 } }
    let s1 := fun n : Nat => s.setLed l { e with pstat := ps, pdw0 := dw, bytes := n }
    let room := s.bufferRoom (s.ledPort e) bs.length = true
    s.moduleStopped = false → (room → s.dpx.st ≠ .paired → s.ledPoison l = true → e.isOpen = true → ∀ i ∈ [Instr.targetAccept l x, .dataUnitReceived l x off bs true, .targetResponse l x .success ps dw],
      exec i s = .next (s.ledUe l))
    ∧ (s.bufferRoom (s.ledPort e) bs.length = false → (s.group (s.ledPort e / 8)).mode ≠ 3 → exec (.dataUnitReceived l x off bs true) s = .next s)
    ∧ (s.dpx.st ≠ .paired → s.ledPoison l = false →
      (s.staleFor l x = true → exec (.targetAccept l x) s = .next stale ∧ (room → exec (.dataUnitReceived l x off bs true) s = .next stale)
        ∧ exec (.targetResponse l x .success ps dw) s = .next stale)
      ∧ (room → exec (.dataUnitReceived l x off bs false) s = .next { s with chan := { s.chan with discards := s.chan.discards + 1 } })
      ∧ (s.staleFor l x = false → e.pendStatus = none →
          (e.st = .issued → e.opc ≠ 0x1A → e.dir ≠ 2 → exec (.targetAccept l x) s = .next (s.setLed l { e with st := .accepted }))
          ∧ (room → e.dir = 1 → e.opc ≠ 0x1B → 0 < bs.length → bs.length ≤ 131072 → off + bs.length ≤ cDlen e.desc → s.oldGen e.ins e.gen = false → s.cRanges e.ins e.desc = .ok rs →
              let pi := piPart e off bs.length
              (s.room e.ins (subRanges rs off bs.length ++ pi) (bs.length + (pi.map (·.2)).foldl (· + ·) 0)).2 = .ok →
              exec (.dataUnitReceived l x off bs true) s = .next (((s.writeRanges 8 (s.ledPort e) e.ins (subRanges rs off bs.length) bs).writePi e pi).setLed l
                { e with st := .data, bytes := e.bytes + bs.length }))
          ∧ (e.opc ≠ 0x1A ∨ s.sendBehind l = false → exec (.targetResponse l x .success ps dw) s = .next ((s1 (if e.dir = 2 then cDlen e.desc else e.bytes)).finishLed l 0))
          ∧ (e.opc = 0x1A → s.sendBehind l = true → exec (.targetResponse l x .success ps dw) s = .next s)
          ∧ exec (.targetResponse l x .error ps dw) s = .next ((s1 e.bytes).finishLed l 0x0311))))
  ∧ (∀ (s : State) (e l v a : Nat) (bs : List Byte) (u : State),
    let ep := s.ep e
    let i := ep.owner.getD 0
    let x := s.led l
    let rs : Ranges := [(cDptr x.desc, bs.length)]
    let paid := s.setBk x.ins 1 ((s.bk x.ins 1).charge (units4k bs.length))
    s.moduleStopped = false → s.dpx.st ≠ .paired → ep.made = true → s.bufferRoom (ep.path 0).lport bs.length = true →
      (ep.typ = 5 → 0 < bs.length → bs.length ≤ 9216 →
        (s.oldestRecv e = none → exec (.frameReceived e bs true) s = .next { s with chan := { s.chan with rxDropped := s.chan.rxDropped + 1 } })
        ∧ (s.oldestRecv e = some l → s.ledPoison l = false → s.oldGen x.ins x.gen = false → (s.room x.ins rs bs.length).2 = .ok →
            exec (.frameReceived e bs true) s = .next (((paid.writeRanges 8 (s.ledPort x) x.ins rs bs).setLed l { x with st := .data, bytes := bs.length }).finishLed l 0)))
      ∧ (ep.typ = 6 → e < 65536 →
          (bs.length ≤ 4096 → s.agentStore 9 (ep.path 0).lport i a bs = (u, .ok) → exec (.pcieInboundRequest e true a bs) s = .next u)
          ∧ exec (.pcieInboundRequest (e + 65536) true a bs) s = .next s.countDiscard
          ∧ exec (.msiWrite e v) s = .next (s.raiseVvFrom i v)))

/-- 10 R496, R502, R504, R509, R528, R541: links train, at most as configured; paths connect and fail; a keep-alive that has had no answer for KATO
ticks and a failed path after RETEST epochs, and neither before. Whether an FCP target accepts task retry identification is free. -/
def Obligations.PortsAndPathsChangeState : Prop :=
  ∀ (s : State) (lp e k n lanes rate wl wr : Nat),
    let ep := s.ep e
    let p := ep.path k
    let put := fun st : PathSt => s.setPath e k { p with st := st }
    let main := if bit p.pflags 1 then PathSt.standby else .active
    let up := s.setPort lp { st := 2, lanes := Nat.min lanes wl, rate := Nat.min rate wr }
    let joined := ({ s with freeCtr := s.freeCtr + 1 } : State).setPath e k
      { p with st := main, closing := false, alive := s.time.start, retry := decide (ep.typ = 4) && (Config.free s.freeCtr).getLsbD 0 }
    s.moduleStopped = false → (s.pathsOn lp = [] →
      ((s.port lp).st ≠ 0 → exec (.portDown lp) s = .next (s.setPort lp { s.port lp with st := 0 }))
      ∧ ((s.group (lp / 8)).mode = 3 → lp < 64 → (s.group (lp / 8)).ports[lp % 8]? = some (wl, wr) → (s.port lp).st ≠ 2 → exec (.linkTrained lp lanes rate) s = .next up))
    ∧ ((p.st = .connecting → (s.port p.lport).st = 2 → (¬ (s.dpx.st ∈ [DpxSt.simplex, .pairing, .repair] ∧ s.peerPort p.lport = true) → s.dpx.st ≠ .paired →
            exec (.pathConnected e k false) s = .next (joined.learnFormats e k))
          ∧ (s.dpx.st ∈ [DpxSt.simplex, .pairing, .repair] ∧ s.peerPort p.lport = true → exec (.pathConnected e k false) s = .next s))
        ∧ (p.st = .failed → (s.port p.lport).st = 2 → ¬ (s.dpx.st ∈ [DpxSt.simplex, .pairing, .repair] ∧ s.peerPort p.lport = true) →
            (p.failAt + 1024 * ep.retest ≤ s.time.ticks → exec (.pathRetest e k) s =
                .next (s.atEdge (fun t => (t.setPath e k { p with st := .connecting }).output p.lport (Config.cmdBytes 0 e k))))
            ∧ (s.time.ticks < p.failAt + 1024 * ep.retest → exec (.pathRetest e k) s = .next s))
        ∧ (p.st = .active ∨ p.st = .standby →
            (ep.typ ≤ 3 → s.dpx.st ≠ .paired → exec (.anaStateChange e k .optimized) s = .next (put main) ∧ exec (.anaStateChange e k .nonOptimized) s = .next (put .standby)
              ∧ exec (.anaStateChange e k .inaccessible) s = .next (s.failPath e k false))
            ∧ (2 ≤ ep.typ → ep.typ ≤ 4 → s.dpx.st ≠ .paired → exec (.loginLoss e k) s = .next (s.failPath e k true))
            ∧ (ep.typ = 2 ∨ ep.typ = 3 → (p.alive + ep.kato ≤ s.time.ticks → exec (.keepaliveTimeout e k) s = .next (s.atEdge (fun t => t.failPath e k false)))
                ∧ (s.time.ticks < p.alive + ep.kato → exec (.keepaliveTimeout e k) s = .next s)))
        ∧ (s.ledsOf e = [] → s.dpx.st ≠ .paired → ep.paths ≠ [] → exec (.namespaceChange e n (some lanes)) s =
            .next { s with chan := { s.chan with formats := Tab.set none s.chan.formats (fmtKey e n) (some (some lanes)) } }))
    ∧ ((s.group (lp / 8)).mode = 1 → lp < 64 → exec (.dpcContainment lp) s = .next (s.contain lp))

/-- 10 R517 to R520, R527, R543, R815: an attempt that has reached its deadline fails its path, and not before; an operation that waited for OPTMO
ticks completes; an abort, also one of an operation that has left its entry, is answered, or ABTMO passes; the fence of an attempt ends. -/
def Obligations.AttemptsTimeOutAndAreFenced : Prop :=
  ∀ (s : State) (l e k j t0 : Nat) (rest : List (Nat × Nat)) (o : Orphan),
    let x := s.led l
    let ep := s.ep x.ep
    let p := (s.ep e).path k
    let fails := fun t : State => (({ t with freeCtr := t.freeCtr + 1 } : State).setLed l
      { x with aborts := rest, closing := x.closing.filter (fun a => decide (a.1 ≠ j)) ++ [(j, s.time.ticks)], tdead := if x.rfence then Config.free s.freeCtr else x.tdead }).forceFence x.ep j
    let y := (s.atEdge fails).led l
    let z := (s.atEdge fails).ins y.ins
    s.moduleStopped = false →
    (s.ledPoison l = false → x.live = true → x.opc ≠ 0x1B → (x.tdead.toNat ≤ s.time.dtime.toNat →
          exec (.operationTimeout l) s = .next (s.atEdge (fun t => t.failPath x.ep x.path false)))
        ∧ (s.time.dtime.toNat < x.tdead.toNat → exec (.operationTimeout l) s = .next s))
    ∧ (s.ledPoison l = false → x.isOpen = true → x.waiting = true → x.drain = false → x.pendStatus = none →
        (s.time.ticks < x.since + ep.optmo → exec (.operationWaitExpiry l) s = .next s)
        ∧ (x.since + ep.optmo ≤ s.time.ticks → x.attempt = 0 → exec (.operationWaitExpiry l) s = .next (s.atEdge (fun t => t.finishLed l 0x0313)))
        ∧ (x.since + ep.optmo ≤ s.time.ticks → x.attempt ≠ 0 → exec (.operationWaitExpiry l) s =
            .next (s.atEdge (fun t => (t.setLed l { x with tried := x.tried ||| (2 ^ ep.paths.length - 1) }).finishLed l (if x.idem then 0x0313 else 0x0314)))))
    ∧ (s.orphan l = some o → (s.dpx.st ≠ .paired → exec (.abortAnswer l) s = .next (s.dropOrphan o))
        ∧ (o.sent + (s.ep o.ep).abtmo ≤ s.time.ticks → exec (.abortTimeout l) s = .next (s.atEdge (fun t => (t.dropOrphan o).forceFence o.ep o.path))))
    ∧ (s.orphan l = none → x.aborts = (j, t0) :: rest →
        (s.ledPoison l = false → s.dpx.st ≠ .paired → exec (.abortAnswer l) s = .next ((s.setLed l { x with aborts := rest }).fencedLed l))
        ∧ (s.time.ticks < t0 + ep.abtmo → exec (.abortTimeout l) s = .next s)
        ∧ (s.ledPoison l = false → t0 + ep.abtmo ≤ s.time.ticks → y.drain = false ∨ y.st = .retired → exec (.abortTimeout l) s = .next (s.atEdge fails))
        ∧ (s.ledPoison l = false → t0 + ep.abtmo ≤ s.time.ticks → y.drain = true → y.st ≠ .retired → exec (.abortTimeout l) s =
            .next (s.atEdge (fun t => ((fails t).setLed l { y with st := .retired, aborts := [], closing := [] }).setIns y.ins
              { z with cnt := { z.cnt with sqchan := z.cnt.sqchan + 1, unfenced := z.cnt.unfenced + 1 } }))))
    ∧ (x.closing = (j, t0) :: rest → s.ledPoison l = false → ep.typ ≠ 1 → (ep.typ = 2 → t0 + ep.kato ≤ s.time.ticks) →
        exec (.quiesceElapsed l) s = .next ((s.setLed l { x with closing := rest, aborts := x.aborts.filter (fun a => decide (a.1 ≠ j)) }).fencedLed l))
    ∧ ((s.ep e).typ = 1 → p.closing = true →
        (s.dpx.st ≠ .paired → exec (.controllerResetDone e k) s = .next ((s.setPath e k { p with closing := false }).fencePath e k)) ∧ exec (.controllerResetTimeout e k) s = .next (s.contain p.lport))

/-- 12 R593, R594, R601 to R606, R610, R615, R620 to R624: a doorbell lets the tail be read and refused descriptors complete; a ring that
has room again takes what waited; an epoch refills every bucket once, to at most its burst; a moderated vector is raised at its tick; a drain
that is over ends the reset, in a pair once the peer has finished too (R626), and its command answers what R625 counts. -/
def Obligations.QueuesVectorsAndResetsGoOn : Prop :=
  ∀ (s s2 : State) (q v i m : Nat) (bs : List Byte),
    let x := s.qp q
    let y := s.ins i
    let w := s.vv v
    let d := s.dpx
    let s1 := s.setQp q { x with bell := false }
    (s.moduleStopped = false → exec (.completionRingPoll q) s = .next (s.poll q)
      ∧ (x.made = true → x.err = false → (s.ins (s.qpOwner q)).st = .running → x.kind = 0 → x.bell = true →
          (s1.qpRead q x.tailptr 8 = (s2, some bs) → exec (.queueDoorbell q) s =
            .next (((s2.setQp q { s2.qp q with tail := ofLe bs % 2 ^ 16 % 2 ^ x.sqlog }).poll q).skipRefused q))
          ∧ (s1.qpRead q x.tailptr 8 = (s2, none) → exec (.queueDoorbell q) s = .next s2)))
    ∧ (s.time.atEpoch = false ∨ s.inst.refilled = true → exec .tokenRefill s = .next s)
    ∧ (s.time.atEpoch = true → s.inst.refilled = false → Tab.wf {} s.inst.insts = true → (∀ e ∈ s.inst.insts, Tab.wf {} e.2.bks = true) →
        ∃ u, exec .tokenRefill s = .next u ∧ u.inst.refilled = true ∧ ∀ j c, u.bk j c = { s.bk j c with bal := min ((s.bk j c).bal + ((s.bk j c).rate : Int)) ((s.bk j c).burst : Int) })
    ∧ (w.deferred = true → s.time.ticks < w.next → exec (.vvecModerationExpiry v) s = .next s)
    ∧ (w.deferred = true → w.next ≤ s.time.ticks → exec (.vvecModerationExpiry v) s = .next ((s.setVv v { w with deferred := false }).vvGive v w.dest))
    ∧ exec (.virtualVectorClear v) s = .next ((s.setVv v { w with pv := false }).erAgain (fun e => e.virt && decide (e.vvec = v)))
    ∧ (s.pupUp = true →
        (y.st = .draining → y.deferred = false → y.epochWait = false → s.fullConf = true → s.drained i = true → y.drainMb = some m →
            let u := s.dropHeld i
            let told : State := { u with dpx := { u.dpx with peerDone := u.dpx.peerDone.filter (· ≠ i) } }
            (s.moduleStopped = false → d.st ≠ .paired ∨ (y.sideDone = true ∧ d.peerDone.contains i = true) →
                exec (.drainComplete i) s = .next ((told.finishReset i).mbDone m 0 (u.resetResp i)))
            ∧ (s.moduleStopped = false → d.st = .paired → y.sideDone = false → d.peerDone.contains i = false →
                exec (.drainComplete i) s = .next ((s.setIns i { y with sideDone := true }).twinSend 0 (doneBytes i) none)))
        ∧ (y.deferred = true → s.work i (fun g => g = (y.gen + 1) % 256) = 0 → y.drainMb = none → exec (.resetDeferredAccept i) s = .next (s.acceptReset i)))
    ∧ ((∀ k ∈ y.plan.slots, (s.finishReset i).key k = none) ∧ ((s.acceptReset i).ins i).gen = (y.gen + 1) % 256
        ∧ (s.fullConf = true → ∀ k ∈ y.plan.qps, (s.acceptReset i).qp k = (s.qp k).afterReset))
    ∧ (Tab.wf {} s.chan.eps = true → y.st = .none ∨ y.plan.epsL.contains v = false → (s.ep v).owner = some i → (s.ep v).made = false →
        ∃ u, exec (.oldWorkEnd i) s = .next u ∧ u.ep v =
          if s.chan.led.any (fun l => decide (l.2.ep = v) && decide (l.2.st ≠ .free) && decide (l.2.st ≠ .retired)) then s.ep v else {})

/-- 11 R544, R560 to R580: a CE or KE descriptor at the head of its queue is taken and charged, or refused with JOB_FIELD; a job whose keys, parameter
block and ranges pass their checks starts, any other completes at once; a job that ends delivers what its operation gives, or ends early where
its inputs cannot be read; an authentication failure leaves only zeros; a digest that does not fit is not written; the first fault of an engine
moves the job to another of the share, the second ends it; jobs of a drained instance are squashed at their next boundary, or when the epoch
after its reset ends, without a completion. -/
def Obligations.EngineJobsRunAndEnd : Prop :=
  ∀ (s s1 : State) (q ce ke opc j k st i e : Nat) (d bs aad aux key : List Byte) (p : Param) (src dst : Ranges) (c : Instr) (w : Word) (r : EngRes) (y : EngJob),
    let s0 := s.skipRefused q
    let o := s0.qpOwner q
    let t := s1.headOn q
    let n := t.eng.nextJob
    let t1 : State := { t with eng := { t.eng with nextJob := n + 1 } }
    let taken : EngJob := { live := true, qp := q, sqhead := (t.qp q).head, cq := leAt d 4 4, cflags := leAt d 1 1, tag := leAt d 8 4, opc := opc, ins := o,
                            gen := (s1.ins o).gen, desc := d, ce := ce, ke := ke }
    let x := s.job j
    let f := s.report (1064 + x.ce) { pay 2 with unit := 5, msub := BitVec.ofNat 8 x.ce, ins := BitVec.ofNat 13 x.ins }
    ((c, opc, ce, ke) ∈ [(.ccomp q ce, 0x20, ce, 255), (.cdecomp q ce, 0x21, ce, 255), (.czenc q ce ke, 0x22, ce, ke), (.czdec q ce ke, 0x23, ce, ke),
        (.kgcmenc q ke, 0x30, 255, ke), (.kgcmdec q ke, 0x31, 255, ke), (.kxtsenc q ke, 0x32, 255, ke), (.kxtsdec q ke, 0x33, 255, ke), (.khash q ke, 0x34, 255, ke),
        (.khmac q ke, 0x35, 255, ke), (.ksign q ke, 0x36, 255, ke), (.kverify q ke, 0x37, 255, ke), (.kencap q ke, 0x38, 255, ke), (.kdecap q ke, 0x39, 255, ke),
        (.kkeygen q ke, 0x3A, 255, ke), (.kkeyload q ke, 0x3B, 255, ke), (.kkeyclr q ke, 0x3C, 255, ke)] →
      s0.headIs q opc = some d → s0.inShare o ce ke = true → (∀ a ∈ engCharges d, (s0.bk o a.1).admits = true) → s0.spend o (engCharges d) = some s1 →
        (engOk d = false → exec c s = .next (t.completeDesc q d 0x0301 (refusedExtra d) false))
        ∧ (engOk d = true → exec c s = .next ((t1.setJob n taken).startJobs)))
    ∧ (x.live = true → x.started = true → s.moduleStopped = false →
        (needsRnd x.opc = false ∨ s.dpx.st ≠ .paired ∨ x.rnd.isSome = true →
          (x.window = true → x.lastUnit = false → exec (.engineJobEnd j) s = .next (s.squashJob j).startJobs)
          ∧ (x.window = false ∨ x.lastUnit = true →
              (s.engInputs x = (s1, some (bs, aad, aux), 0) →
                exec (.engineJobEnd j) s = .next (({ s1 with freeCtr := s1.freeCtr + 1 } : State).engDeliver j x
                  (engRes x.desc x.par ((x.key.map (·.mat)).getD []) bs aad aux (x.rnd.getD (Config.free s1.freeCtr)))))
              ∧ (s.engInputs x = (s1, none, st) → exec (.engineJobEnd j) s = .next (s1.engEarly j x st))))
        ∧ (x.ce < 16 → e < 16 → e ≠ x.ce → s.inShare x.ins e 255 = true → s.ceFree e = true → x.restarted = false → f.moduleStopped = false → (f.job j).live = true →
            exec (.engineFaultDetected j e) s = .next (f.setJob j { f.job j with ce := e, restarted := true }))
        ∧ (x.ce < 16 → e < 16 → x.restarted = true → f.moduleStopped = false → (f.job j).live = true →
            exec (.engineFaultDetected j e) s = .next (f.engEarly j (f.job j) 0x040B)))
    ∧ (s.keyCheck x.ins x.desc = none →
        let u := x.unit
        let got := if needsParam x.desc then (s.agentGet u.1 u.2 x.ins (eParam x.desc) 64).1 else s
        let v := (got.rangesSee u.1 u.2 x.ins (bit (eFlags x.desc) 0) (eSrc x.desc)).rangesSee u.1 u.2 x.ins (bit (eFlags x.desc) 1) (eDst x.desc)
        (s.prep x.ins x.desc = .ended st → s.startJob j = (v.setJob j {}).complete x.ins x.gen x.qp x.cq (engCpl x st 0 0 0 0 255 255))
        ∧ (s.prep x.ins x.desc = .ok p src dst → needsRnd x.opc = false ∨ s.dpx.st ≠ .paired →
            s.startJob j = v.setJob j { x with started := true, key := if namesSlot x.desc then s.key (eSlot x.desc) else none, par := p, src := src, dst := dst }))
    ∧ (leAt d 0 1 = 0x34 → eAlg d = 0x10 → eCmp d = false →
        engRes d p key bs aad aux w = if eDstLen d < (sha256 bs).length then { status := 0x0402, inlen := bs.length } else { status := 0, out := sha256 bs, inlen := bs.length })
    ∧ (y.opc = 0x31 ∨ y.opc = 0x23 → s.oldGen y.ins y.gen = false → r.status ≠ 0 →
        let z := s.drawBelow (r.out.length + 1)
        s.engDeliver j y r = (z.2.writeRanges y.unit.1 y.unit.2 y.ins y.dst (List.replicate (if y.opc = 0x23 then r.out.length else z.1) 0)).engEnd j y r.status r.inlen 0 r.check false)
    ∧ (s.moduleStopped = false → s.eng.jobs.filter (fun a => a.2.live && a.2.window && decide (a.2.ins = i)) = [(k, y)] → s.job k = y → streams y.opc = false →
        (s.time.atEpoch = false ∨ s.time.ticks ≤ y.windowAt → exec (.engineSquashWindowEnd i) s = .next s)
        ∧ (s.time.atEpoch = true → y.windowAt < s.time.ticks → exec (.engineSquashWindowEnd i) s =
          .next (((s.setJob k {}).setIns i { s.ins i with cnt := { (s.ins i).cnt with sqeng := (s.ins i).cnt.sqeng + 1 } }).startJobs)))

/-- 13 R631, R634 to R646, R652, R653, R656 to R662: a code channel scrubs the next of its stripes, with the errors that have come: an error of one device is
corrected, counted against it and reported, errors of several devices lose the stripe, a marked device is an erasure; every access that reads a line
decodes its stripe so; the check that is stored with a far block verifies, and a block that fails twice makes a UE record; a device is marked once, with a DE report, or FD when its group has
one marked; the sweep tests the next region, spends a spare column of its macro on a bad one, and without one does what its memory allows. -/
def Obligations.MemoryUpkeep : Prop :=
  ∀ (s : State) (cc st c c2 p p2 d r u col num n : Nat) (errs : List (Nat × Nat)) (q : Payload) (pf : BitVec 3 → Payload),
    let k := Tab.get 0 s.mem.cursor cc
    let a := 8 * k + cc
    let g := st % 8 / 4
    let f := (errs.foldl (fun t e => t.bring cc a e) s).scrubStripe cc a
    let x := s.nmdev d
    let y := Tab.get {} s.mem.sweep u
    let m := (sweepUnit u).1
    let j := (sweepUnit u).2
    let nxt := (y.region + 1) % m.regions
    let t : State := { s with mem := { s.mem with sweep := Tab.set {} s.mem.sweep u { region := nxt, passes := if nxt = 0 then y.passes + 1 else y.passes, stepped := true } } }
    let rep := fun cls : BitVec 3 => { pay cls with atype := 0x0C, unit := 7, msub := BitVec.ofNat 8 j }
    let mac := macroOf u y.region
    let used := ((s.mem.softFuse ++ s.mem.committed).filter (fun e => decide (e.1 = mac))).length
    (s.moduleStopped = false →
      (s.mem.scrubOn = true → s.time.atEpoch = true → s.mem.scrubPh = 0 → cc ∉ s.mem.scrubbed →
          exec (.scrubStep cc errs) s = .next { f with mem := { f.mem with cursor := Tab.set 0 f.mem.cursor cc ((k + 1) % 2 ^ 24), scrubbed := f.mem.scrubbed ++ [cc],
                                                                                               passes := if (k + 1) % 2 ^ 24 = 0 && cc = 0 then f.mem.passes + 1 else f.mem.passes } })
      ∧ (s.mem.scrubOn = false ∨ s.time.atEpoch = false ∨ s.mem.scrubPh ≠ 0 ∨ cc ∈ s.mem.scrubbed → exec (.scrubStep cc errs) s = .next s)
      ∧ (s.time.atEpoch = false ∨ y.stepped = true → exec (.sweepStep u .clean) s = .next s)
      ∧ (s.sweepExists u = true → s.time.atEpoch = true → y.stepped = false →
          exec (.sweepStep u .clean) s = .next t ∧ exec (.sweepStep u .abandoned) s = .next (t.report (sweepSrc m j) (rep 1))
          ∧ exec (.sweepStep u (.badColumn col)) s = .next (
              if used < m.spares then ({ t with mem := { t.mem with softFuse := t.mem.softFuse ++ [(mac, col)] } } : State).report (sweepSrc m j) (rep 0)
              else (t.noSpare m j col mac).report (sweepSrc m j) (rep 1))))
    ∧ (c < 32 → p ≤ 12 → st < 2 ^ 27 → (c, p) ∉ s.errsOf st → s.bring cc st (c, p) = { s with mem := { s.mem with errs := Tab.set [] s.mem.errs st (s.errsOf st ++ [(c, p)]) } })
    ∧ s.scrubStripe cc st = (s.settleStripe st).decodeRep st (s.errsOf st) (fun k => payScrub k cc st)
    ∧ (s.decode st (s.errsOf st) = .bad → s.settleStripe st = s.poisonStripe st)
    ∧ (s.errsOf st ≠ [] → s.seeStripe st pf =
        if s.decode st (s.errsOf st) = .bad then (s.decodeRep st (s.errsOf st) pf).poisonStripe st else s.decodeRep st (s.errsOf st) pf)
    ∧ (s.markedIn g = [] → p < 12 →
        s.decode st [(c, p)] = .fixed p ∧ s.decodeRep st [(c, p)] pf = (s.report (912 + 12 * g + p) (pf 0)).attribute (12 * g + p) 1 (pf 1))
    ∧ (s.markedIn g = [] → c ≠ c2 → p ≠ p2 → s.decode st [(c, p), (c2, p2)] = .bad)
    ∧ (s.markedIn g = [] → 12 ≤ p → s.decode st [(c, p)] = .bad ∧ s.decodeRep st [(c, p)] pf = s.report (904 + st % 8) (pf 2))
    ∧ (s.markedIn g = [d] → errs ≠ [] → (∀ e ∈ errs, e.2 = d) → s.decode st errs = .erased ∧ s.decodeRep st errs pf = s)
    ∧ (s.markedIn g = [d] → p ≠ d → s.decode st [(c, p)] = .bad)
    ∧ (∀ b, b < 640 → controllerOf st = 4 * (st % 8) + st / 8 % 4 ∧ deviceOf (640 * st + b) = 12 * (st % 8 / 4) + b / 2 % 10 ∧ (s.codeword st c).length = 12)
    ∧ farVerify st (Tab.getMany 0 s.mem.far (256 * st) 256) (s.farCheck st) = true
    ∧ (Tab.get 0 s.mem.farFail (num / 2) = n + 2 → s.seeBlock num pf = s.report (968 + (128 * num - farLo) / 2 ^ 41 % 8) (pf 2))
    ∧ (x.marked = true → s.markDev d r q = s)
    ∧ (x.marked = false → s.markDev d r q =
        (s.setNmdev d { x with marked := true, reason := BitVec.ofNat 4 r }).report (912 + d) { q with cls := if s.markedIn (d / 12) = [] then 1 else 4 })

/-- 14 R668, R669, R674 to R684, R692, 17 R782 to R784: an alarm and its payload make one report; one without the other leaves the source suspect; a wire
that fails makes a DE report; a report at L1 or L2 raises its source at the router, one at L5 stops the module and fences it in a pair, after which nothing is
released, captured, sealed, retired or completed; an acknowledgement
frees the record, but in the cycle of a report has no effect; a snapshot is written, or skipped with FAULT when its slot would reach the carve-out. -/
def Obligations.CollectorAndSnapshots : Prop :=
  ∀ (s : State) (n : Nat) (p : Payload) (lvl : Nat),
    let x := s.src n
    let quiet := s.setSrc n { x with alarm := x.alarm - 1 }
    let susp := s.setSrc n { x with susp := true }
    let snap : State := { s with perf := { s.perf with seq := s.perf.seq + 1, snapped := true } }
    let a := s.perf.base.toNat + 2 ^ 17 * (s.perf.seq % s.perf.nslot)
    (s.srcAbsent n = false →
      exec (.rindAlarm n true none) s = .next (s.setSrc n { x with alarm := x.alarm + 1 }) ∧ exec (.rindAlarm n true (some p)) s = .next (s.report n p)
      ∧ (0 < x.alarm → exec (.rindAlarm n false (some p)) s = .next (quiet.report n p))
      ∧ (x.alarm = 0 → exec (.rindAlarm n false (some p)) s = .next (susp.report n p))
      ∧ (let t := s.report n p; exec (.rindAlarm (2048 + n) true (some p)) s = .next (t.setSrc n { t.src n with race := some s.time.ticks }))
      ∧ (x.wire = false → exec (.rindWireFault n) s = .next ((s.setSrc n { x with wire := true, susp := true }).report n { pay 1 with atype := 0x0E })))
    ∧ (0 < x.alarm → exec (.rindPayloadTimeout n) s = .next ((s.setSrc n { x with alarm := x.alarm - 1, susp := true }).report n { pay 2 with atype := 0x0F }))
    ∧ exec (.rindPairValid n) s = .next (s.setSrc n { x with wire := false })
    ∧ (x.pend = true → x.race ≠ some s.time.ticks → exec (.rindAcknowledge n) s = .next (s.acknowledge n) ∧ ((s.acknowledge n).src n).pend = false)
    ∧ (x.pend = true → x.race = some s.time.ticks → exec (.rindAcknowledge n) s = .next (s.setSrc n { x with race := none }))
    ∧ (s.rind.stopped = false → s.takenLevel n p = lvl → masterCore p = none → x.pend = false →
        (lvl = 0 → s.report n p = s.recordReport n p 0)
        ∧ (lvl = 1 ∨ lvl = 2 → s.report n p = (s.recordReport n p lvl).rindRise n)
        ∧ (lvl = 5 → p.ins = 0 → s.report n p = if s.dpx.st = .paired then ((s.recordReport n p 5).rindRise n).fenceModule else ((s.recordReport n p 5).rindRise n).stopModule))
    ∧ (s.moduleStopped = true → ∀ c ∈ [Instr.missDataArrival n, .storeRelease n, .fenceComplete n, .fenceSComplete n, .fenceDComplete n, .tlbiComplete n, .cacheCleanComplete n, .checkpointCapture n,
        .sealCompare n true, .sealCompare n false, .restoreComplete n, .targetAccept n 0, .abortAnswer n, .quiesceElapsed n, .drainComplete n, .batchMark], exec c s = .next s)
    ∧ (s.perf.snapped = true → exec .counterSnapshot s = .next s)
    ∧ (s.perf.snapEn = true → s.time.atEpoch = true → s.perf.snapped = false → s.time.dtime.toNat / 1024 % s.perf.interval = 0 → s.moduleStopped = false →
        exec .counterSnapshot s = .next (if carveLo < a + 2 ^ 17 then { s with perf := { s.perf with snapped := true, fault := true } }
          else let r := snap.snapBody; (r.2.agentWrite (a + 8) r.1).agentWrite a (leBytes 8 (s.perf.seq + 1))))

/-- 15 R697, R698, R700, R705, R706: an error, or 16 epochs without service, restarts the Puppeteer with a report of class UE, and it serves again; the boot
ROM runs the ACTIVE image, the other when that is bad, a trial once; with no good image the module is in RECOVERY; a core whose watchdog
runs out makes a report. -/
def Obligations.ThePuppeteerBootsAndRestarts : Prop :=
  ∀ (s : State) (l : Nat) (b : Bool),
    let p := s.pup
    let again := fun (n : Nat) (a : BitVec 8) => let t := s.report n { pay 2 with unit := 0x0A, atype := a }; ({ t with pup := { t.pup with st := .restart } } : State)
    let r := s.loadLevels.bootChoice
    let c := s.core l
    let ended : State := { s with pup := { p with bootTrial := false, tried := false, bootSeq := p.bootSeq + 1 } }
    (s.pupUp = true → exec .puppeteerLockstepError s = .next (again 1108 0x0D) ∧ exec .puppeteerSramUe s = .next (again 1109 0x0D)
      ∧ (16 ≤ p.unserved → s.time.atEpoch = true → exec .puppeteerWatchdogExpiry s = .next (again 1111 0x10)))
    ∧ (p.unserved < 16 ∨ s.time.atEpoch = false → exec .puppeteerWatchdogExpiry s = .next s)
    ∧ (p.st = .restart → p.live = none → s.moduleStopped = false →
        exec .puppeteerRestartComplete s = .next (State.mbFlush { s with pup := { p with st := if s.mem.trained then .serving else .bringup, unserved := 0, journal := p.taken } }))
    ∧ (p.st = .boot → s.boardUp = true → s.pwr.faulted = false → s.moduleStopped = false → s.pwr.warm = false →
        (r.1 = some b → exec .bootImageSelect s = .next (let t := r.2.runImage b; { t with pup := { t.pup with st := .bringup } }))
        ∧ (r.1 = none → exec .bootImageSelect s = .next { r.2 with pup := { r.2.pup with st := .recovery } }))
    ∧ (p.bootTrial = false → s.bootChoice = if s.imgOk p.active then (some p.active, s) else if s.imgOk (!p.active) then (some (!p.active), s.notice 0 1) else (none, s))
    ∧ (p.bootTrial = true → p.tried = false → s.imgOk (!p.active) = true → s.bootChoice = (some (!p.active), { s with pup := { p with tried := true, bootSeq := p.bootSeq + 1 } }))
    ∧ (p.bootTrial = true → p.tried = true → s.imgOk p.active = true → s.bootChoice = (some p.active, ended.notice 1 0))
    ∧ (c.wdN ≠ 0 → c.wdN ≤ c.wdCnt → s.lcNumbered l = true → exec (.watchdogExpiry l) s =
        .next ((s.setCore l { c with wdCnt := 0 }).report (1152 + l) { pay 2 with unit := 1, msub := BitVec.ofNat 8 l, atype := 0x10, ins := BitVec.ofNat 13 c.lctxCur.inst }))

/-- 15 R711 to R717, R730, R731: a doorbell queues the command of an idle mailbox; the next mailbox in turn has its command taken: one already completed
is answered again, one that fails a check is refused, any other runs; the board reaches mailbox 0 alone, a datagram with a wrong tag
is discarded and counted, and the response to one returns in the same form. -/
def Obligations.MailboxesTakeCommands : Prop :=
  ∀ (s : State) (m off n st : Nat) (bs tag : List Byte),
    let x := s.mb m
    let y := s.mb 0
    let t : State := { s.setMb m { x with st := .running, comp := false } with
                       pup := { (s.setMb m { x with st := .running, comp := false }).pup with lastTaken := m, taken := s.pup.taken ++ [m] } }
    let same := x.lastOp = some (s.mbOp m) ∧ x.lastSeq = s.mbSeq m ∧ bit (s.mbF m 2 2) 0 = false
    let put := fun (o : Nat) (vs : List Byte) => s.setMb 0 { y with bytes := Tab.setMany 0 y.bytes o vs }
    (m < 16 → m ≠ 0 →
      (x.st = .idle ∨ x.st = .done → exec (.mailboxDoorbell m) s = .next (s.setMb m { x with st := .queued, bell := true }))
      ∧ (x.st = .queued ∨ x.st = .running → exec (.mailboxDoorbell m) s = .next s))
    ∧ (s.nextBox = some m → s.nRunning < 8 →
        (same → exec (.mailboxCommandTake m) s = .next (t.mbDone m x.lastStatus x.lastResp))
        ∧ (¬ same → t.refusal m = some st → exec (.mailboxCommandTake m) s = .next (t.mbDone m st []))
        ∧ (¬ same → t.refusal m = none → exec (.mailboxCommandTake m) s = .next t))
    ∧ (s.boardUp = true → s.dpx.st ≠ .paired →
        (off + bs.length ≤ 4096 → bs.length ≤ 32 → y.st = .idle ∨ y.st = .done → exec (.smbusWrite off bs) s = .next (put off bs))
        ∧ (off + bs.length ≤ 4096 → bs.length ≤ 32 → y.st = .queued ∨ y.st = .running → exec (.smbusWrite off bs) s = .next s)
        ∧ (off + n ≤ 4096 → n ≤ 32 → exec (.smbusRead off n) s = .next { s with pup := { s.pup with smbOut := Tab.getMany 0 y.bytes off n } })
        ∧ (y.st = .idle → exec .smbusDoorbell s = .next (s.setMb 0 { y with st := .queued, bell := true }))
        ∧ (∃ u, exec .smbusStatusRead s = .next u ∧ u = { s with pup := { s.pup with smbOut := u.pup.smbOut } }
            ∧ leAt u.pup.smbOut 0 8 = s.pup.stat % 2 ^ 64 ∧ leAt u.pup.smbOut 8 8 = y.ctl % 2 ^ 64)
        ∧ (s.pup.mnEn = true → bs.length = 4096 →
            (tag ≠ hmacSha256 s.pup.mnKey bs → exec (.mgmtDatagram bs tag) s = .next { s with pup := { s.pup with dropped := s.pup.dropped + 1 } })
            ∧ (tag = hmacSha256 s.pup.mnKey bs → y.st = .idle →
                exec (.mgmtDatagram bs tag) s = .next (State.setMb { put 0 bs with pup := { (put 0 bs).pup with netReq := true } } 0 { (put 0 bs).mb 0 with st := .queued, bell := true }))))
    ∧ (m = 0 → s.nextBox = some m → s.nRunning < 8 → same → s.pup.netReq = true → s.pup.mnEn = true → s.mbHolds = false → y.ven = false →
        ∃ u, exec (.mailboxCommandTake m) s = .next u ∧ u.pup.netReq = false
          ∧ (let img := Tab.getMany 0 (u.mb 0).bytes 0 4096; u.pup.netOut = img ++ hmacSha256 s.pup.mnKey img))

/-- 12 R583 to R592, R614, R620 to R625, 15 R723, R724, R726: the instance commands: a plan that is invalid or that the pools lack is refused; a valid
one is given, and its instance is PREPARED with full buckets; its queue pairs, endpoints and handles are set up, and then it starts; a reset
begins, or is refused while one runs; a set value waits for the next epoch. -/
def Obligations.InstanceCommands : Prop :=
  ∀ (s : State) (m : Nat),
    let i := s.mbInst m
    let x := s.ins i
    let f := s.mbP m
    let p := s.planOf m
    let q := f 0 4
    let made : Qp := { owner := some i, made := true, kind := f 4 1, sqlog := f 5 1, cqlog := f 6 1, sqbase := f 8 8, cqbase := f 16 8, tailptr := f 24 8, headptr := f 32 8,
                       vvec := f 40 4, ph := f 44 2, bell := (s.qp q).bell }
    let given := ((s.firstCreate.allot i p).clearLog i).setIns i { st := .prepared, gen := x.gen, plan := p, bks := s.planBuckets m, arrWt := p.arrWt }
    (s.runs m 0x0201 = true → exec (.instTable m) s = .next (if s.liveInsts = [] then ({ s with inst := { s.inst with tableSize := f 0 2, keepFull := false } } : State).mbDone m 0 []
      else s.mbDone m 0x0504 []))
    ∧ (s.runs m 0x0202 = true → i ≠ 0 → x.st = .none →
        (s.planBad m = true → exec (.instCreate m) s = .next (s.mbDone m 0x0502 []))
        ∧ (s.planBad m = false → s.planTaken p = true → exec (.instCreate m) s = .next (s.mbDone m 0x0501 []))
        ∧ (s.planBad m = false → s.planTaken p = false → exec (.instCreate m) s = .next (({ given with pup := { given.pup with maint := false } } : State).mbDone m 0 [])))
    ∧ (s.runs m 0x0203 = true → s.setupOpen i = true → (s.qp q).made = false → s.mayOwn i (s.qp q).owner = true → f 8 8 % 2 ^ (6 + f 5 1) = 0 → f 16 8 % 2 ^ (5 + f 6 1) = 0 →
        f 24 8 % 8 = 0 → f 32 8 % 8 = 0 → f 40 4 = 0xFFFFFFFF → f 4 1 = 0 → exec (.qpSetup m) s = .next ((s.setQp q made).mbDone m 0 []))
    ∧ (s.runs m 0x0203 = true → s.setupOpen i = false → exec (.qpSetup m) s = .next (s.mbDone m 0x0504 []))
    ∧ (s.runs m 0x0204 = true → s.setupOpen i = true →
        ((s.ep (f 0 2)).made = true → exec (.epCreate m) s = .next (s.mbDone m 0x0502 []))
        ∧ ((s.ep (f 0 2)).made = false → s.mayOwn i (s.ep (f 0 2)).owner = true → f 3 1 = 1 → (s.group (f 0x40 1 / 8)).mode = 1 → f 2 1 = 1 →
            f 0x40 1 % 8 < (s.group (f 0x40 1 / 8)).ports.length → let fresh : State := { s with chan := { s.chan with formats := s.chan.formats.filter (fun x => decide (x.1 / 2 ^ 32 ≠ f 0 2)) } }
            s.lostPort (f 0x40 1) = false → let up := decide ((s.port (f 0x40 1)).st = 2)
            ∃ e, (let t := fresh.firstCreate.setEp (f 0 2) e; exec (.epCreate m) s = .next ((if up then t.connect (f 0 2) 0 else t).mbDone m 0 []))
              ∧ e.owner = some i ∧ e.made = true ∧ e.typ = 1 ∧ e.devtmo = (if f 8 2 = 0 then 64 else f 8 2) ∧ e.optmo = (if f 0x0C 4 = 0 then 31457280 else f 0x0C 4)
              ∧ (e.path 0).st = (if up then .connecting else .down)))
    ∧ (s.runs m 0x0205 = true → s.setupOpen i = true → (s.part (f 0 2)).planned = true → exec (.partSetup m) s = .next (s.mbDone m 0x0502 []))
    ∧ (s.runs m 0x0205 = true → s.setupOpen i = true → i ≠ 0 → (s.part (f 0 2)).planned = false → s.mayOwn i (s.part (f 0 2)).owner = true → f 8 8 % 4096 = 0 → isNear (f 8 8) = true →
        isCarve (f 8 8) = false → f 2 1 < s.nSqs → bit x.plan.sqMask (f 2 1) = true → f 16 32 = 0 →
          exec (.partSetup m) s = .next ((s.setPart (f 0 2) { owner := some i, planned := true, sq := f 2 1, save := f 8 8, bell := (s.part (f 0 2)).bell }).mbDone m 0 []))
    ∧ (s.runs m 0x0206 = true → exec (.instStart m) s = .next (if i ≠ 0 ∧ x.st = .prepared ∧ s.planSetUp i = true then (s.setIns i { x with st := .running }).mbDone m 0 []
        else s.mbDone m 0x0504 []))
    ∧ (∀ c op, (c, op) ∈ [(Instr.instReset m, 0x0207), (.instRemove m, 0x0208)] → s.runs m op = true → (i = 0 ∨ x.st = .none → exec c s = .next (s.mbDone m 0x0504 [])) ∧ (i ≠ 0 → x.st ≠ .none → x.st = .draining ∨ x.epochWait = true → exec c s = .next (s.mbDone m 0x0503 [])))
    ∧ (∀ c op rem, (c, op, rem) ∈ [(Instr.instReset m, 0x0207, false), (.instRemove m, 0x0208, true)] → s.runs m op = true → i ≠ 0 → x.st ≠ .none → x.st ≠ .draining → x.epochWait = false →
        let r := s.beginReset i (some m) rem false
        exec c s = .next (if r.fullConf || (r.ins i).deferred || (r.ins i).epochWait then r else r.mbDone m 0 (r.resetResp i)))
    ∧ (s.runs m 0x0209 = true → i ≠ 0 → exec (.instStatus m) s = .next (s.mbDone m 0 (leBytes 1 (match x.st with | .none => 0 | .prepared => 1 | .running => 2 | .draining => 3 | .isolated => 4)
        ++ leBytes 1 x.gen ++ [0, 0] ++ leBytes 4 (s.heldLeds i) ++ leBytes 4 (s.oldWork i))))
    ∧ (s.runs m 0x020A = true → x.st ≠ .none → exec (.instSet m) s = .next ((s.setIns i { x with pend := x.pend ++ [(f 0 1, f 1 1, f 4 4)] }).mbDone m 0 []))

/-- 06 R266, R267, R284 to R298, 10 R498, 13 R651, R652, 15 R725, R729: the core-pair, port and far-memory commands. A hand-over raises the halt
request of its slot, is done once every core of the slot stands halted at a sealed boundary, and withdraws the request. -/
def Obligations.PairPortAndFarCommands : Prop :=
  ∀ (s : State) (m st : Nat) (bs : List Byte) (pass : List Nat),
    let f := s.mbP m
    let n := f 0 1
    let p := s.pair n
    let e := s.core (2 * n)
    let o := s.core (2 * n + 1)
    let asked := (s.slotCores n).any (fun l => (s.core l).haltReq.contains (m + 1))
    let held := (s.slotCores n).all (fun l => decide ((s.core l).run ≠ .running) && (decide ((s.core l).run ≠ .halted) || !(s.core l).handing))
    let opens := fun t : PairMode → Bool => if asked then s.slotTaken m n = false ∧ s.slotOffline n = false else s.pairRefusal m n t = none
    let refuses := fun (c : Instr) (op : Nat) (t : PairMode → Bool) =>
      s.runs m op = true → asked = false → s.pairRefusal m n t = some st → exec c s = .next (s.mbDone m st [])
    let halts := fun (c : Instr) (op : Nat) (t : PairMode → Bool) =>
      s.runs m op = true → asked = false → s.pairRefusal m n t = none → held = false → exec c s = .next ((s.slotCores n).foldl (fun t l => t.modCore l (fun c => c.askHalt (m + 1))) s)
    let back := e.withdraw (m + 1)
    let ps := s.cfgPorts m
    let grp := (s.setGroup n { mode := f 1 1, ports := ps }).reslot n (f 1 1) ps.length
    let x := s.farSlot n
    let size := Nat.min (2 ^ 41) (256 * ((Config.free s.freeCtr).toNat / 272))
    (s.runs m 0x0301 = true → ∃ r, exec (.pairStatus m) s = .next (s.mbDone m 0 r) ∧ r.length = 5 ∧ leAt r 2 1 = s.physPair n false % 256 ∧ leAt r 3 1 = s.physPair n true % 256)
    ∧ refuses (.pairSplit m) 0x0302 (fun t => decide (t = .checked)) ∧ refuses (.pairJoin m) 0x0303 (fun t => decide (t = .split))
    ∧ (s.readCtx (f 8 8) ≠ none → (s.readCtx (f 8 8)).filter ctxOk ≠ none → halts (.pairSplit m) 0x0302 (fun t => decide (t = .checked)))
    ∧ halts (.pairJoin m) 0x0303 (fun t => decide (t = .split)) ∧ (f 1 1 = 1 → halts (.pairSetRx7 m) 0x0305 (fun t => decide (t = .checked)))
    ∧ (s.runs m 0x0302 = true → opens (fun t => decide (t = .checked)) →
        (s.readCtx (f 8 8) = none → asked = false → exec (.pairSplit m) s = .next (s.mbDone m 0x0104 []))
        ∧ (s.readCtx (f 8 8) = some bs → ctxOk bs = true → held = true → exec (.pairSplit m) s =
            .next ((((s.setCore (2 * n) back).startO n (archOfCtx back.arch bs)).setPair n { p with mode := .split }).erRecheckAll.mbDone m 0 [])))
    ∧ (s.runs m 0x0303 = true → opens (fun t => decide (t = .split)) → held = true → e.sb = [] → o.sb = [] →
        exec (.pairJoin m) s = .next ((((s.setCore (2 * n) back).setCore (2 * n + 1) { lctx := o.lctx, lctxCur := o.lctxCur, fipa := o.fipa, wdN := o.wdN }).setPair n
          { p with mode := .checked }).mbDone m 0 (leBytes 8 o.arch.vpend.toNat)))
    ∧ (∀ l, s.runs m 0x0304 = true → s.slotTaken m n = false → s.slotBusy n = false → (s.slotCores n).find? (fun l => decide ((s.core l).run = .offline)) = some l → f 8 8 % 256 = 0 →
        isMem (f 8 8) = true → isCarve (f 8 8) = false → isCarve (f 8 8 + 16639) = false → s.backed (f 8 8) = true → s.backed (f 8 8 + 16639) = true →
          exec (.pairRecover m) s = .next ((s.agentWrite (f 8 8) (s.ctxBlock (s.core l))).mbDone m 0 []))
    ∧ (s.runs m 0x0305 = true → held = true →
        let free := (s.slotCores n).foldl (fun t l => t.modCore l (fun c => c.withdraw (m + 1))) s
        (f 1 1 = 1 → opens (fun t => decide (t = .checked)) → exec (.pairSetRx7 m) s = .next ((free.setPair n { p with mode := .rx7, lead := 0 }).mbDone m 0 []))
        ∧ (f 1 1 = 0 → opens (fun t => decide (t = .rx7)) → exec (.pairSetRx7 m) s = .next ((free.setPair n { p with mode := .checked, lead := 0 }).mbDone m 0 [])))
    ∧ (s.runs m 0x0306 = true → (s.pup.maint = false → exec (.spareClear m pass) s = .next (s.mbDone m 0x0007 []))
        ∧ (s.pup.maint = true → ∃ u : State, exec (.spareClear m pass) s = .next (u.mbDone m 0 (leBytes 1 ((s.chip n).excluded.filter pass.contains).length))
            ∧ ∀ k, 16 * n ≤ k → k < 16 * n + 16 → (u.pair k).suspect = false))
    ∧ (s.runs m 0x0501 = true → (s.groupUsed n = true → exec (.portConfig m) s = .next (s.mbDone m 0x0318 []))
        ∧ (s.groupUsed n = false → s.dpx.st = .standalone → exec (.portConfig m) s =
            .next (((List.range 8).foldl (fun t k => t.setPort (8 * n + k) { st := if k < ps.length then 1 else 0 }) grp).mbDone m 0 [])))
    ∧ (s.runs m 0x0502 = true → exec (.portStatus m) s = .next (s.mbDone m 0 (leBytes 1 (s.port n).st ++ leBytes 1 (s.port n).lanes ++ leBytes 1 (s.port n).rate)))
    ∧ (s.runs m 0x0503 = true → exec (.pathStatus m) s = .next (s.mbDone m 0 ((List.range 8).flatMap (fun k => leBytes 1 ((s.ep (f 0 2)).path k).st.code))))
    ∧ (s.runs m 0x0504 = true → (x.cxl = true → x.online = false → (s.port x.port).st = 2 → exec (.farOnline m) s =
          .next ((({ s with freeCtr := s.freeCtr + 1 } : State).setFarSlot n { x with online := true, size := size }).mbDone m 0 (leBytes 8 size)))
        ∧ (x.cxl = false ∨ x.online = true → exec (.farOnline m) s = .next (s.mbDone m 0x031A [])))
    ∧ (s.runs m 0x0505 = true → (x.cxl = true → x.online = true → exec (.farOffline m) s = .next ((s.setFarSlot n { x with online := false, size := 0 }).mbDone m 0 []))
        ∧ (x.cxl = false ∨ x.online = false → exec (.farOffline m) s = .next (s.mbDone m 0x031A [])))

/-- 01 R43, R45, 08 R426 to R430, R441, 09 R489, 14 R674 to R678, R695, 15 R704 to R706, R722, R725 to R729: the device, array, Rind and firmware commands. -/
def Obligations.DeviceArrayAndFirmwareCommands : Prop :=
  ∀ (s : State) (m st loc : Nat) (bs : List Byte) (fault : Option Nat) (b : Bool),
    let f := s.mbP m
    let p := s.pup
    let wdog := s.core (f 0 1)
    let cap : Capture := { addr := f 8 8, by_ := 1, mb := m, pre := .idle, edge := false, todo := [], failed := false }
    let h := s.part (f 0 2)
    let trial : State := { s with pup := { p with bootTrial := true, tried := false, bootSeq := p.bootSeq + 1 } }
    let kept : State := { s with pup := { p with active := p.slot, bootTrial := false, tried := false, trial := false, bootSeq := p.bootSeq + 1 } }
    let staged := (p.setImg b { bytes := Tab.setMany 0xFF (if f 0 4 = 0 then [] else (p.img b).bytes) (f 0 4) (s.mbPBytes m 8 (f 4 4)), len := f 0 4 + f 4 4 })
    (s.runs m 0x0101 = true → exec (.devInfo m) s = .next (s.mbDone m 0 s.devInfo))
    ∧ (s.runs m 0x0102 = true → (s.time.unsync = false → exec (.setTime m) s = .next (s.mbDone m 0x0010 []))
        ∧ (s.time.unsync = true → s.time.setTime = none → exec (.setTime m) s = .next { s with time := { s.time with setTime := some (m, f 0 8) } }))
    ∧ (s.runs m 0x0103 = true → exec (.setTimeRef m) s = .next ((({ s with time := s.time.setRef (f 0 1) (f 4 4) } : State).chooseRef).mbDone m 0 []))
    ∧ (s.runs m 0x0104 = true → exec (.wdogSet m) s = .next ((s.setCore (f 0 1) { wdog with wdN := f 2 2, wdCnt := 0 }).mbDone m 0 []))
    ∧ (s.runs m 0x0105 = true → exec (.mgmtNet m) s = .next (({ s with pup := p.setNet (f 0 1) (s.mbPBytes m 4 32) } : State).mbDone m 0 []))
    ∧ (s.runs m 0x0401 = true → f 0 8 + f 8 4 ≤ nearTop → ∀ t as, s.agentGet 0x0A 0 0 (f 0 8) (f 8 4) = (t, .ok bs as) →
        (t.imageCheck bs = some (st, loc) → exec (.arrayConfig m fault) s = .next (t.mbDone m st (leBytes 2 loc)))
        ∧ (t.imageCheck bs = none → exec (.arrayConfig m none) s =
            .next ((({ t with freeCtr := t.freeCtr + 1 } : State).applyImage bs none).mbDone m 0 (leBytes 2 (Config.free t.freeCtr).toNat))))
    ∧ (s.runs m 0x0402 = true → (h.planned = false → exec (.arrayCapture m) s = .next (s.mbDone m 0x0003 []))
        ∧ (h.planned = true → (s.sq h.sq).ph = f 0 2 → (s.sq h.sq).st ≠ .unused → s.cap h.sq = none → (∀ v ∈ s.partVats h.sq, (s.vat v).st ≠ .captured) → exec (.arrayCapture m) s = .next (s.setCap h.sq (some cap))))
    ∧ (s.runs m 0x0403 = true → s.cap h.sq = none →
        let held := ((s.partVats h.sq).filter (fun v => decide ((s.vat v).st = .captured))).foldl (fun t v => t.setVat v { t.vat v with st := .ready }) s
        let y := held.sq h.sq
        (h.planned = false ∨ (s.sq h.sq).ph ≠ f 0 2 → exec (.arrayRelease m) s = .next (s.mbDone m 0 []))
        ∧ (h.planned = true → (s.sq h.sq).ph = f 0 2 →
            exec (.arrayRelease m) s = .next (State.mbDone (if y.st = .captured ∧ y.job = none then held.setSq h.sq { y with st := .idle } else held) m 0 [])))
    ∧ (s.runs m 0x0601 = true → exec (.rindSet m) s = .next (if rindAllows (f 2 1) (f 3 1) = true then (s.rcfgSet (f 0 2) (f 2 1) (f 3 1)).mbDone m 0 [] else s.mbDone m 0x0601 []))
    ∧ (s.runs m 0x0602 = true → let es := s.rind.logFrom (f 0 4) (f 4 1)
        exec (.rindLog m) s = .next (s.mbDone m 0 (leBytes 8 es.length ++ es.flatMap (fun e => e.flatMap (fun w => leBytes 8 w.toNat)))))
    ∧ (s.runs m 0x0701 = true → p.trial = false → p.spareSlot = some b → f 0 4 = 0 ∨ p.staged = some (f 0 4) →
        exec (.fwStage m) s = .next (({ s with pup := { staged with staged := some (f 0 4 + f 4 4), preA := staged.preA && b, preB := staged.preB && !b } } : State).mbDone m 0 []))
    ∧ (s.runs m 0x0702 = true → p.live = none → p.trial = false → p.spareSlot = some b → p.staged ≠ none →
        (s.imgRefusal b = some st → exec (.fwActivate m) s = .next (s.mbDone m st []))
        ∧ (s.imgRefusal b = none → (f 0 1 = 0 → exec (.fwActivate m) s = .next (trial.mbDone m 0 []))
            ∧ (f 0 1 = 1 → exec (.fwActivate m) s = .next { trial with pup := { trial.pup with live := some m, st := .restart } })))
    ∧ (s.runs m 0x0703 = true → (p.trial = false → exec (.fwCommit m) s = .next (s.mbDone m 0x0704 []))
        ∧ (p.trial = true → exec (.fwCommit m) s =
            .next (State.mbDone (if f 0 1 = 1 then { kept with fuse := { s.fuse with svnFloor := Nat.max s.fuse.svnFloor (s.imgSvn p.slot) } } else kept) m 0 [])))
    ∧ (s.runs m 0x0704 = true → (p.maint = false → exec (.fuseCommit m) s = .next (s.mbDone m 0x0007 []))
        ∧ (p.maint = true → exec (.fuseCommit m) s =
            .next (({ s with mem := { s.mem with committed := s.mem.committed ++ s.mem.softFuse, softFuse := [] } } : State).mbDone m 0 (leBytes 4 s.mem.softFuse.length))))

/-- 16 R738 to R742: a flit in order is taken, acknowledged, and its room is owed back; a damaged one or a gap is answered with a negative
acknowledgement; what is not acknowledged is sent again, and goes to the other bundle once its own has been down for 1 ms; a bundle that
comes up carries traffic again. -/
def Obligations.TheTwinLinkDelivers : Prop :=
  ∀ (s : State) (b : Nat) (f : Flit),
    let d := s.dpx
    let x := d.bnd b
    let reply := fun (t : BitVec 4) (n : Nat) =>
      ({ typ := t, vc := 0, seq := 0, ackseq := BitVec.ofNat 12 (n + 4095), ackv := true, crvc := 0, crcnt := 0, payload := [] } : Flit)
    let again := { d.setBnd b { x with replays := x.replays + 1 } with replay := satTo 65535 (d.replay + x.unacked.length) }
    let downs := ({ s with dpx := d.setBnd b { x with st := 0 } } : State).report (1128 + b) (pay 1)
    b < 2 →
      (x.st = 2 →
        exec (.twinFlitReceived b f false) s = .next { s with dpx := d.setBnd b { x with answer := some (reply 3 x.rxNext) } }
        ∧ (f.typ = 1 → f.ackv = false → x.rxNext < 4096 → f.seq.toNat = x.rxNext →
            let n := (x.rxNext + 1) % 4096
            ∃ e, exec (.twinFlitReceived b f true) s = .next (State.twinPump { s with dpx := e }) ∧ e.bnd b = { x with rxNext := n, answer := some (reply 2 n) }
              ∧ Tab.get 0 e.rxCredits f.vc.toNat = Tab.get 0 d.rxCredits f.vc.toNat + 1 ∧ e.credit f.crvc.toNat = Nat.min (vcBuffer f.crvc.toNat) (d.credit f.crvc.toNat + f.crcnt.toNat))
        ∧ (f.typ = 1 → f.ackv = false → x.rxNext < 4096 → f.seq.toNat = (x.rxNext + 1) % 4096 →
            ∃ e, exec (.twinFlitReceived b f true) s = .next (State.twinPump { s with dpx := e }) ∧ e.bnd b = { x with answer := some (reply 3 x.rxNext) })
        ∧ (x.unacked = [] → exec (.flitReplayTimeout b) s = .next s) ∧ (x.unacked ≠ [] → exec (.flitReplayTimeout b) s = .next { s with dpx := again })
        ∧ (8 ≤ x.replays → exec (.bundleRetrain b) s = .next (({ s with dpx := d.setBnd b { x with st := 1, replays := 0 } } : State).report (1128 + b) (pay 0))))
      ∧ (d.linked = true →
          exec (.bundleDownTimeout b) s = .next (State.twinPump { downs with dpx := downs.dpx.moveOver b })
          ∧ (x.st ≠ 2 → exec (.bundleTrained b) s =
              .next (State.twinPump { s with dpx := { d.setBnd b { x with st := 2, moved := false, replays := 0 } with linkLost := false, paused := false, hbin := true } })))

/-- 16 R744 to R768: marks, agreed inputs, delivered two tick boundaries after they came, and compared batches keep two modules in step; when the link is lost with the heartbeat, the module survives
alone; the follower is fenced while its leader lives; a batch that differs fences the suspect side; a new peer is copied into and, once every
core has halted, takes over; firmware that differs too long, and the commands that pair and part the modules. -/
def Obligations.DuplexPairsRun : Prop :=
  ∀ (s : State) (m k : Nat) (i : AgreedIn) (t0 : Nat) (t1 t2 t3 t4 : Int) (same ue : Bool),
    let d := s.dpx
    let f := s.mbP m
    let sent := s.transmit (d.marks - d.lag)
    let lost := { (d.setBnd 0 { d.bnd 0 with st := 0 }).setBnd 1 { (d.setBnd 0 { d.bnd 0 with st := 0 }).bnd 1 with st := 0 } with linkLost := true, hbin := ue }
    let own := 256 * s.pup.filmaj + s.pup.filmin
    let freed := ((s.cores.map (·.1)).foldl (fun t l => t.modCore l (fun c => c.withdraw 0)) s).cleanAll
    let copied := freed.openLeds.foldl (fun t l => t.setLed l { t.led l with mirrored := true }) freed
    (d.st = .paired →
      (d.leadSt = true → s.moduleStopped = false →
        (d.marked = false → exec .batchMark s = .next (({ s with dpx := ({ d with lastMark := s.time.dtime, marked := true, marks := d.marks + 1 } : DpxSub).setLag (d.lag + 1) } : State).twinSend 1 [] none))
        ∧ (d.marked = true → exec .batchMark s = .next s))
      ∧ (exec (.batchCompare true ue same) s = .next { sent with dpx := ({ sent.dpx with sent := sent.dpx.sent + 1 } : DpxSub).setLag (sent.dpx.lag - 1) })
      ∧ (∀ (n lp : Nat) (bs : List Byte), d.outs = [(n, lp, bs)] → ∃ u, exec (.batchCompare true ue same) s = .next u
          ∧ u.chan.tx = (if n ≤ d.marks - d.lag ∧ s.peerPort lp = false then Tab.set [] s.chan.tx lp bs else s.chan.tx)
          ∧ u.dpx.outs = (if n ≤ d.marks - d.lag then [] else d.outs))
      ∧ (exec (.batchCompare false true false) s = .next (s.report 1130 (pay 4)))
      ∧ exec (.batchCompare false false true) s = .next (s.report 1130 (pay 1)).survive ∧ (d.leadSt = true → exec (.batchCompare false ue ue) s = .next (s.report 1130 (pay 1)).survive)
      ∧ (d.leadSt = false → exec (.batchCompare false ue ue) s = .next (s.report 1130 (pay 4)))
      ∧ (s.moduleStopped = false →
          (ue = false → exec (.twinLinkLoss ue) s = .next (State.survive { s with dpx := lost }))
          ∧ (ue = true → d.leadSt = false → exec (.twinLinkLoss ue) s = .next (State.fenceModule { s with dpx := lost }))
          ∧ (ue = true → d.leadSt = true → exec (.twinLinkLoss ue) s = .next { s with dpx := lost })
          ∧ (d.linkLost = true → exec .heartbeatLoss s = .next (State.survive { s with dpx := { d with hbin := false } })))
      ∧ (d.leadSt = true → d.linkLost = true → d.hbin = true → exec .followerHeartbeatPersists s = .next s.stopModule)
      ∧ (s.mixed = true → exec .mixedVersionWarning s = .next (s.report 1131 (pay 1)) ∧ exec .mixedVersionLimit s = .next (if d.leadSt then s.survive else s.fenceModule)))
    ∧ (d.inputs[k]? = some (t0, i) → s.moduleStopped = false →
        (t0 + 2 ≤ s.time.ticks → exec (.agreedInputDelivery k) s =
          .next (({ s with dpx := { d with inputs := (d.inputs.eraseIdx k).map (fun x => (x.1, i.after x.2)) } } : State).applyInput i))
        ∧ (s.time.ticks < t0 + 2 → exec (.agreedInputDelivery k) s = .next s))
    ∧ (d.linked = true → s.time.lock = false → (t2 - t1) - (t4 - t3) = 0 → 0 ≤ (t4 - t1) - (t3 - t2) → (t4 - t1) - (t3 - t2) ≤ 131070 → ((t4 - t1) - (t3 - t2)) % 2 = 0 →
        ∃ u, exec (.skewProbe t1 t2 t3 t4) s = .next u ∧ u.dpx.offset = 0 ∧ (u.dpx.delay.toNat : Int) * 2 = (t4 - t1) - (t3 - t2) ∧ u.dpx.bigOff = 0)
    ∧ (d.st = .repair → d.paused = false → s.moduleStopped = false → d.bnds.any (fun e => e.2.st = 2) = true →
        (s.time.atEpoch = true → d.copied = false →
          (d.cursor < s.copyEnd → exec .repairCopyStep s = .next { s with dpx := { d with cursor := copyOn s.copySegs d.cursor 3072, copied := true } })
          ∧ (s.copyEnd ≤ d.cursor → exec .repairCopyStep s = .next { s with dpx := { d with bitmap := bitmapPass d.bitmap 3072, copied := true } }))
        ∧ (s.time.atEpoch = true → s.copyEnd ≤ d.cursor → d.bitmap = [] → s.coresIn .running ≠ [] → exec .repairHandover s =
            .next ((s.coresIn .running).foldl (fun t l => t.modCore l (fun c => c.askHalt 0)) s))
        ∧ (s.time.atEpoch = true ∨ s.coresIn .halted ≠ [] → s.copyEnd ≤ d.cursor → d.bitmap = [] → s.coresIn .running = [] → exec .repairHandover s =
            .next ((State.askEntropy { copied with dpx := { copied.dpx with st := .paired, leadSt := true, bitmap := [], lag := 0, frozen := false, hbOut := true } }).report 1131 (pay 0))))
    ∧ (s.runs m 0x0801 = true → d.st = .standalone → exec (.dpxPair m) s =
        .next (if s.time.unsync = true then s.mbDone m 0x0801 [] else if s.pairable (f 0 1 = 1) = true then s.startPairing m (f 0 1 = 1) (f 0 1 ≠ 1 ∧ d.peerSimplex = false) else s.mbDone m 0x0802 []))
    ∧ (s.runs m 0x0802 = true → d.st ≠ .standalone → d.sideB = false → exec (.dpxStatus m) s =
        .next (({ s with freeCtr := s.freeCtr + 1 } : State).mbDone m 0 (leBytes 1 d.st.code ++ [0] ++ leBytes 2 own ++ leBytes 2 (2304 + d.peerFil) ++ [0, 0] ++ leBytes 8 d.cursor)))
    ∧ (s.runs m 0x0803 = true → (d.st = .simplex → exec (.dpxRepair m) s = .next (s.startPairing m d.sideB true))
        ∧ (d.st = .paired → exec (.dpxRepair m) s = .next (s.mbDone m 0x0802 [])))
    ∧ (s.runs m 0x0804 = true → (d.leadSt = false → exec (.dpxUnpair m) s = .next (s.mbDone m 0x0802 []))
        ∧ (d.leadSt = true → d.st = .simplex → ∃ u, exec (.dpxUnpair m) s = .next ((State.report u 1131 (pay 0)).mbDone m 0 []) ∧ u.dpx.st = .standalone ∧ u.dpx.leadSt = false
            ∧ u.inst.keepFull = true ∧ u.pup.effmin = s.pup.filmin))
    ∧ (s.runs m 0x0805 = true → (d.st ≠ .paired → exec (.raiseLevel m) s = .next (s.mbDone m 0x0802 []))
        ∧ (d.st = .paired → s.mixed = false → f 0 2 ≤ own → f 0 2 ≤ 2304 + d.peerFil → 256 * s.pup.effmaj + s.pup.effmin ≤ f 0 2 → exec (.raiseLevel m) s =
            .next (({ s with pup := { s.pup with effmaj := f 0 2 / 256, effmin := f 0 2 % 256 } } : State).mbDone m 0 []))
        ∧ (d.st = .paired → s.mixed = true → exec (.raiseLevel m) s = .next (s.mbDone m 0x0803 [])))

/-- 18 R789 to R809: rails, the wake latch, the two resets, bring-up, the training of near memory that starts every core, and the thermal pins: a
cold reset keeps the logs, the flash and the fuses; a warm reset keeps near memory, the Rind log and the ledger as well, and needs good rails. -/
def Obligations.PowerAndResets : Prop :=
  ∀ (s : State) (j chip deg : Nat) (hot : Bool) (loader : List Byte),
    let p := s.pwr
    let bad := p.badRails.filter (· ≠ j)
    let failed : State := { s with pwr := { p with badRails := j :: p.badRails, safe := true, faulted := true } }
    let low : State := { s with pwr := { p with badRails := 9 :: p.badRails, wake := false, pwrReq := false } }
    let warn : State := { s with pwr := { p with therm := true } }
    let trip : State := { s with pwr := { p with tripped := true } }
    let heat := fun c : BitVec 3 => { pay c with synd := BitVec.ofNat 128 (chip % 256 + deg % 65536 * 256) }
    (bad ≠ [] → exec (.railGood j) s = .next { s with pwr := { p with badRails := bad } })
    ∧ (bad = [] → p.coldLow = false → p.warmLow = false → p.faulted = false → s.moduleStopped = false →
        exec (.railGood j) s = .next { s with pwr := { p with badRails := [], wake := false, pwrReq := false, safe := false } })
    ∧ (j < 9 → p.badRails.contains j = false → p.coldLow = false → p.faulted = false →
        (j ≠ 3 → j ≠ 8 → exec (.railFault j) s = .next (failed.report (1112 + j) (pay 4))) ∧ (j = 3 ∨ j = 8 → exec (.railFault j) s = .next failed.stopModule))
    ∧ (p.badRails = [] → exec .vstbyLoss s = .next (low.report 1121 (pay 1)))
    ∧ (p.badRails ≠ [] → p.badRails.contains 9 = false → exec .wake s = .next { s with pwr := { p with wake := true, pwrReq := true } })
    ∧ (∃ u, exec .coldReset s = .next u ∧ u.pwr.coldLow = true ∧ u.pwr.safe = true ∧ u.mem.near = [] ∧ u.cores = [] ∧ u.rind.log = [] ∧ u.chan.led = [] ∧ u.time = {} ∧ u.inst = {}
        ∧ u.eng = {} ∧ u.fuse = s.fuse ∧ u.mem.far = s.mem.far ∧ u.mem.committed = s.mem.committed ∧ u.pup.imgA = s.pup.imgA ∧ u.pup.imgB = s.pup.imgB ∧ u.pup.active = s.pup.active
        ∧ u.pup.st = .boot ∧ u.pending = s.pending)
    ∧ (p.badRails = [] → p.coldLow = false → s.mem.trained = true →
        ∃ u, exec .warmReset s = .next u ∧ u.pwr.warmLow = true ∧ u.pwr.selfRefresh = true ∧ u.mem.near = s.mem.near ∧ u.mem.far = s.mem.far ∧ u.rind.log = s.rind.log ∧ u.cores = []
          ∧ u.chan.led.map (·.1) = s.chan.led.map (·.1) ∧ u.perf.seq = s.perf.seq ∧ u.time = {} ∧ u.inst = {} ∧ u.pup.st = .boot ∧ u.fuse = s.fuse)
    ∧ (p.badRails = [] → p.coldLow = true → exec (.bringup hot) s =
        .next { s with time := {}, pwr := { p with coldLow := false, warmLow := false, faulted := false, tripped := p.tripped && hot, safe := false } })
    ∧ (s.pup.st = .bringup → s.mem.trained = false → p.coldLow = false → p.warmLow = false → s.moduleStopped = false → loader.length ≤ 2 ^ 20 →
        ∃ u, exec (.nearMemoryTrained [] loader) s = .next u ∧ u.mem.trained = true ∧ u.mem.scrubOn = true ∧ u.pup.st = .serving
          ∧ (∀ a, Tab.get 0 u.mem.near a = if a < 2 ^ 20 then loader.getD a 0 else Tab.get 0 s.mem.near a)
          ∧ ∀ n, s.slotExists n = true → n < 64 → (u.core (2 * n)).run = .running ∧ (u.core (2 * n)).arch = {})
    ∧ (p.therm = false → exec (.thermalWarning chip deg) s = .next (warn.report 1122 (heat 1)))
    ∧ exec .thermalWarningRelease s = .next { s with pwr := { p with therm := false } }
    ∧ (p.tripped = false → exec (.thermalTrip chip deg) s = .next (trip.report 1123 (heat 4)))

/-- The model's step (log entries 1 and 2, basis: the block's commands come from outside): with command c at the front of its queue it is exec of c on the
state with the queue's rest; on an empty queue it is one tick of device time. -/
def Obligations.StepTakesTheFront : Prop :=
  ∀ (s : State) (c : Instr) (q : List Instr),
    step { s with pending := c :: q } = exec c { s with pending := q } ∧ step { s with pending := [] } = .next (State.tick { s with pending := [] })

/-- 00, 01 R29, 05 R252 to R254, 12 R583, 15 R700, 18 R798, R804: what the release of a cold reset leaves, of what the spec gives: device time 0 and unset, no core
started, every bank register of the RISC state as the programming model gives it, memory that lists nothing, instance 0 alone, the Puppeteer
about to boot, a module that stands alone. -/
def Obligations.ResetLeaves : Prop :=
  let s := State.reset
  s.time.dtime = 0 ∧ s.time.unsync = true ∧ s.time.phsrc = 0 ∧ s.time.lock = false
    ∧ (∀ l, (s.core l).run = .notStarted ∧ (s.core l).arch.bank = 0 ∧ (s.core l).arch.pc = 0 ∧ (s.core l).arch.bk.priv = 2 ∧ (s.core l).arch.bk.ie = false
        ∧ (s.core l).arch.vpend = 0 ∧ (s.core l).sb = [] ∧ (s.core l).misses = [])
    ∧ s.mem.wf = true ∧ (∀ a, Tab.get 0 s.mem.near a = 0 ∧ Tab.get 0 s.mem.far a = 0) ∧ s.mem.trained = false ∧ (∀ n, (s.vat n).st = .uncfg ∧ (s.sq n).st = .unused)
    ∧ (s.ins 0).st = .running ∧ (∀ i, i ≠ 0 → (s.ins i).st = .none) ∧ s.inst.tableSize = 8192 ∧ (∀ q, (s.qp q).made = false) ∧ (∀ k, s.key k = none)
    ∧ s.pup.st = .boot ∧ (∀ m, (s.mb m).st = .idle) ∧ s.dpx.st = .standalone ∧ s.rind.log = [] ∧ (∀ n, (s.src n).pend = false ∧ s.rcfg n = rcfgGeneric.toNat)
    ∧ (∀ l, (s.led l).st = .free) ∧ s.pending = []

/-- 02 R77, 03 R116 to R168: a word of a core instruction and the instruction that it names say the same: every well-formed core instruction has one
word, which names it with every operand, and a word that names an instruction is that instruction's word. -/
def Obligations.CoreWordsAndInstructionsAgree : Prop :=
  (∀ (i : Instr) (w : CWord), encodeCore i = some w → coreWord i = true → decodeCore (coreAt i).1 (coreAt i).2 w = some i)
  ∧ (∀ (lc n : Nat) (w : CWord) (i : Instr), decodeCore lc n w = some i → encodeCore i = some w ∧ coreWord i = true)

/-- 09 R450, R456 to R458: the same of the array instruction words, with the sequencer that runs them. -/
def Obligations.ArrayWordsAndInstructionsAgree : Prop :=
  ∀ (i : Instr) (q : Nat) (w : AWord), encodeArray i = some (q, w) ↔ decodeArray q w = some i

/-- 04 R182 to R188: however DSTEP and DSTEP.F are mixed, in either timing mode, once the count is 0 DFIN gives the quotient truncated toward
zero and the remainder with the sign of the dividend, on the width and the signedness of the DINIT, and the edge results of R188 for a
divisor of 0; no instruction of a division on a legal register traps or sets a flag. -/
def Obligations.IntegerDivisionIsExact : Prop :=
  ∀ (w sgn : Bool) (a b : Word) (steps : List (Bool × Bool)),
    let n := if w then 32 else 64
    let x : Int := if sgn then sx n a.toNat else (a.toNat % 2 ^ n : Nat)
    let y : Int := if sgn then sx n b.toNat else (b.toNat % 2 ^ n : Nat)
    let t := steps.foldl (fun t f => if f.1 then dStepF f.2 t else dStep t) (dInit w sgn a.toNat b.toNat)
    let word := fun v : Int => let m := (v % (2 ^ n : Nat)).toNat; if w && sgn && bit m 31 then m + (2 ^ 64 - 2 ^ 32) else m
    (fld t.c 0 7 = 0 → dFin t = if y = 0 then (word (-1), word x) else (word (x.tdiv y), word (x.tmod y)))
    ∧ (fld t.c 0 7 ≠ 0 → dFin t = (2 ^ 64 - 1, 0))
    ∧ (n ≤ steps.length → fld t.c 0 7 = 0)
    ∧ (∀ (r : RF) (c : Core) (op : SlotOp), r.d.toNat % 4 = 0 → 4 ≤ r.d.toNat →
        (dinitSlot r w sgn c).trap = none ∧ (dinitSlot r w sgn c).results.all (fun f => f.flags = 0) = true
        ∧ (r.a = 0 → r.b = 0 → (dstepSlot r op c).trap = none ∧ (dfinSlot r c).trap = none ∧ (dfinSlot r c).results.all (fun f => f.flags = 0) = true))
    ∧ (∀ d e, (dstRes d e).all (fun f => f.flags = 0) = true)

/-- 02 R56, R90 to R92, R99: when a group of register results has issued, each register whose result is due has the value of the last one due,
and nothing else changes: no other register, no flag without a result that sets it, no control register, no other core, no memory. In
RX7-compatible mode E leads by one beat more, of at most 4,096, and the log keeps what O has still to meet (06 R298, R299); a capture that the group makes or lets be made changes only the marks of what it
covers (06 R268, R300). -/
def Obligations.RegisterResultsLandAndChangeNothingElse : Prop :=
  ∀ (s : State) (l r : Nat) (z : Slot) (ys zs : List Flight) (f : Flight),
    let t := s.regIssued l z
    let c := s.core l
    let d := t.core l
    let fs := c.arch.infl ++ (c.group ++ [z]).flatMap Slot.results
    let lead := Nat.min 4096 ((s.pair (pairOf l)).lead + 1)
    let later := fun (x : Dst) => ∀ e ∈ fs, e.dst = x → 1 < e.left
    t = { s with cores := t.cores, pairs := t.pairs } ∧ (∀ k, k ≠ l → t.core k = s.core k)
    ∧ (∀ n, t.pair n = if n = pairOf l ∧ s.isRx7 l = true then { s.pair n with lead := lead } else s.pair n)
    ∧ d.sb.map (·.kind) = c.sb.map (·.kind) ∧ d.once.map (fun e => (e.key, e.val, e.again)) = c.once.map (fun e => (e.key, e.val, e.again))
    ∧ (d.run, d.misses, d.barrier, d.bitram, d.sealed, d.lctx, d.lctxCur, d.tlb, d.devOut, d.mchk, d.waiting)
        = (c.run, c.misses, c.barrier, c.bitram, c.sealed, c.lctx, c.lctxCur, c.tlb, c.devOut, c.mchk, c.waiting)
    ∧ d.rlog = (if s.isRx7 l then c.rlog.filter (fun e => decide (c.arch.pos + 1 - lead < e.1)) else c.rlog)
    ∧ (d.arch.bank, d.arch.fpu, d.arch.cvbar, d.arch.hvbar, d.arch.ssp, d.arch.hsp, d.arch.vpend, d.arch.vmask)
        = (c.arch.bank, c.arch.fpu, c.arch.cvbar, c.arch.hvbar, c.arch.ssp, c.arch.hsp, c.arch.vpend, c.arch.vmask)
    ∧ (d.arch.bk.priv, d.arch.bk.ipl, d.arch.bk.ie, d.arch.bk.ct, d.arch.bk.cepc, d.arch.bk.ccause, d.arch.bk.cbada, d.arch.bk.cframe)
        = (c.arch.bk.priv, c.arch.bk.ipl, c.arch.bk.ie, c.arch.bk.ct, c.arch.bk.cepc, c.arch.bk.ccause, c.arch.bk.cbada, c.arch.bk.cframe)
    ∧ (later (.g r) → d.arch.rg r = c.arch.rg r) ∧ (later (.b r) → d.arch.bk.rb r = c.arch.bk.rb r) ∧ (later (.f r) → d.arch.rf r = c.arch.rf r) ∧ (later .lk → d.arch.bk.lk = c.arch.bk.lk)
    ∧ ((∀ e ∈ fs, e.left ≤ 1 → e.flags = 0) → d.arch.fstat = c.arch.fstat)
    ∧ (fs = ys ++ f :: zs → (∀ e ∈ fs, e.wait = none) → f.left ≤ 1 → f.dst = .g r → (∀ e ∈ zs, e.dst = .g r → 1 < e.left) → d.arch.rg r = if r = 0 then 0 else f.val)
end

