-- ==== Sys2Proof/Laws/Tab.lean ====
section
/-! SUPPORT. Laws of sparse tables: a read after a write, a write after a write, the canonical form, and the byte-order
helpers. -/

namespace Sys2Proof.Machine

variable {α : Type}

theorem Tab.get_del_self (d : α) (m : Tab α) (i : Nat) : Tab.get d (Tab.del i m) i = d := by
  induction m with
  | nil => rfl
  | cons e t ih =>
    obtain ⟨k, w⟩ := e
    by_cases h : k = i <;> simp [Tab.del, Tab.get, h, ih]

theorem Tab.get_del_ne (d : α) (m : Tab α) (i j : Nat) (h : j ≠ i) : Tab.get d (Tab.del i m) j = Tab.get d m j := by
  induction m with
  | nil => rfl
  | cons e t ih =>
    obtain ⟨k, w⟩ := e
    by_cases hk : k = i
    · have : k ≠ j := by omega
      simp [Tab.del, Tab.get, hk, ih]
      omega
    · simp [Tab.del, Tab.get, hk, ih]

theorem Tab.get_ins_self (d : α) (m : Tab α) (i : Nat) (v : α) (h : ∀ w, (i, w) ∉ m) : Tab.get d (Tab.ins i v m) i = v := by
  induction m with
  | nil => simp [Tab.ins, Tab.get]
  | cons e t ih =>
    obtain ⟨k, w⟩ := e
    have hk : k ≠ i := fun hc => h w (by simp [hc])
    have ht : ∀ w, (i, w) ∉ t := fun w hw => h w (List.mem_cons_of_mem _ hw)
    by_cases hl : i < k <;> simp [Tab.ins, Tab.get, hl, hk, ih ht]

theorem Tab.get_ins_ne (d : α) (m : Tab α) (i j : Nat) (v : α) (h : j ≠ i) : Tab.get d (Tab.ins i v m) j = Tab.get d m j := by
  induction m with
  | nil => simp [Tab.ins, Tab.get]; omega
  | cons e t ih =>
    obtain ⟨k, w⟩ := e
    have : i ≠ j := by omega
    by_cases hl : i < k <;> simp [Tab.ins, Tab.get, hl, ih, this]

theorem Tab.not_mem_del (m : Tab α) (i : Nat) (w : α) : (i, w) ∉ Tab.del i m := by
  induction m with
  | nil => simp [Tab.del]
  | cons e t ih =>
    obtain ⟨k, x⟩ := e
    by_cases hk : k = i
    · simp [Tab.del, hk, ih]
    · simp [Tab.del, hk, ih]
      omega

theorem Tab.del_ins (m : Tab α) (i : Nat) (v : α) : Tab.del i (Tab.ins i v m) = Tab.del i m := by
  induction m with
  | nil => simp [Tab.ins, Tab.del]
  | cons e t ih =>
    obtain ⟨k, w⟩ := e
    by_cases hl : i < k
    · simp [Tab.ins, hl, Tab.del]
    · by_cases hk : k = i <;> simp [Tab.ins, hl, Tab.del, hk, ih]

theorem Tab.del_del (m : Tab α) (i : Nat) : Tab.del i (Tab.del i m) = Tab.del i m := by
  induction m with
  | nil => rfl
  | cons e t ih =>
    obtain ⟨k, w⟩ := e
    by_cases hk : k = i <;> simp [Tab.del, hk, ih]

variable [DecidableEq α]

/-- A read of the entry just written gives the value written. -/
@[simp] theorem Tab.get_set_self (d : α) (m : Tab α) (i : Nat) (v : α) : Tab.get d (Tab.set d m i v) i = v := by
  unfold Tab.set
  split
  · next h => rw [Tab.get_del_self, h]
  · exact Tab.get_ins_self d _ i v (Tab.not_mem_del m i)

/-- A write leaves every other entry alone. -/
theorem Tab.get_set_ne (d : α) (m : Tab α) (i j : Nat) (v : α) (h : j ≠ i) : Tab.get d (Tab.set d m i v) j = Tab.get d m j := by
  unfold Tab.set
  split
  · exact Tab.get_del_ne d m i j h
  · rw [Tab.get_ins_ne d _ i j v h, Tab.get_del_ne d m i j h]

/-- A read after a write. -/
theorem Tab.get_set (d : α) (m : Tab α) (i j : Nat) (v : α) : Tab.get d (Tab.set d m i v) j = if j = i then v else Tab.get d m j := by
  split
  · next h => rw [h, Tab.get_set_self]
  · next h => exact Tab.get_set_ne d m i j v h

/-- The later of two writes of one entry stands. -/
@[simp] theorem Tab.set_set (d : α) (m : Tab α) (i : Nat) (v w : α) : Tab.set d (Tab.set d m i v) i w = Tab.set d m i w := by
  have h : Tab.del i (Tab.set d m i v) = Tab.del i m := by
    unfold Tab.set
    split
    · exact Tab.del_del m i
    · rw [Tab.del_ins, Tab.del_del]
  have hs : ∀ x : Tab α, Tab.set d x i w = if w = d then Tab.del i x else Tab.ins i w (Tab.del i x) := fun _ => rfl
  rw [hs, h, ← hs]

/-! ## The canonical form -/

theorem Tab.wfFrom_mono (d : α) (m : Tab α) (b c : Option Nat) (hbc : ∀ x, b = some x → ∃ y, c = some y ∧ x ≤ y) (h : Tab.wfFrom d c m = true) :
    Tab.wfFrom d b m = true := by
  cases m with
  | nil => rfl
  | cons e t =>
    obtain ⟨k, v⟩ := e
    simp only [Tab.wfFrom, Bool.and_eq_true, decide_eq_true_eq] at h ⊢
    refine ⟨⟨?_, h.1.2⟩, h.2⟩
    cases b with
    | none => rfl
    | some x =>
      obtain ⟨y, rfl, hy⟩ := hbc x rfl
      have := h.1.1
      simp only [decide_eq_true_eq] at this ⊢
      omega

theorem Tab.wfFrom_del (d : α) (m : Tab α) (b : Option Nat) (i : Nat) (h : Tab.wfFrom d b m = true) : Tab.wfFrom d b (Tab.del i m) = true := by
  induction m generalizing b with
  | nil => rfl
  | cons e t ih =>
    obtain ⟨k, v⟩ := e
    have h' := h
    simp only [Tab.wfFrom, Bool.and_eq_true, decide_eq_true_eq] at h
    by_cases hk : k = i
    · simp only [Tab.del, hk, if_true]
      apply ih
      refine Tab.wfFrom_mono d t b (some k) ?_ h.2
      intro x hx
      subst hx
      have := h.1.1
      simp only [decide_eq_true_eq] at this
      exact ⟨k, rfl, by omega⟩
    · simp only [Tab.del, hk, if_false, Tab.wfFrom, Bool.and_eq_true, decide_eq_true_eq]
      exact ⟨⟨h.1.1, h.1.2⟩, ih _ h.2⟩

theorem Tab.wfFrom_ins (d : α) (m : Tab α) (b : Option Nat) (i : Nat) (v : α) (hv : v ≠ d) (hb : ∀ x, b = some x → x < i) (hi : ∀ w, (i, w) ∉ m)
    (h : Tab.wfFrom d b m = true) : Tab.wfFrom d b (Tab.ins i v m) = true := by
  induction m generalizing b with
  | nil =>
    cases b with
    | none => simp [Tab.ins, Tab.wfFrom, hv]
    | some x => simp [Tab.ins, Tab.wfFrom, hv, hb x rfl]
  | cons e t ih =>
    obtain ⟨k, w⟩ := e
    have hk : k ≠ i := fun hc => hi w (by simp [hc])
    have ht : ∀ w, (i, w) ∉ t := fun w hw => hi w (List.mem_cons_of_mem _ hw)
    simp only [Tab.wfFrom, Bool.and_eq_true, decide_eq_true_eq] at h
    by_cases hl : i < k
    · simp only [Tab.ins, hl, if_true, Tab.wfFrom, Bool.and_eq_true, decide_eq_true_eq]
      refine ⟨⟨?_, hv⟩, ⟨trivial, h.1.2⟩, h.2⟩
      cases b with
      | none => rfl
      | some x => simpa using hb x rfl
    · simp only [Tab.ins, hl, if_false, Tab.wfFrom, Bool.and_eq_true, decide_eq_true_eq]
      refine ⟨h.1, ih (some k) ?_ ht h.2⟩
      intro x hx
      cases hx
      omega

/-- A write keeps the canonical form. -/
theorem Tab.wf_set (d : α) (m : Tab α) (i : Nat) (v : α) (h : Tab.wf d m = true) : Tab.wf d (Tab.set d m i v) = true := by
  unfold Tab.wf at h ⊢
  unfold Tab.set
  split
  · exact Tab.wfFrom_del d m none i h
  · next hv => exact Tab.wfFrom_ins d _ none i v hv (by simp) (Tab.not_mem_del m i) (Tab.wfFrom_del d m none i h)

/-- A write of several entries keeps the canonical form. -/
theorem Tab.wf_setMany (d : α) (vs : List α) : ∀ (m : Tab α) (i : Nat), Tab.wf d m = true → Tab.wf d (Tab.setMany d m i vs) = true := by
  induction vs with
  | nil => intro m i h; exact h
  | cons v vs ih => intro m i h; exact ih _ _ (Tab.wf_set d m i v h)

/-- Every key of a table after a write is an earlier key or the one written. -/
theorem Tab.all_set (d : α) (m : Tab α) (i : Nat) (v : α) (p : Nat → Bool) (hp : p i = true) (h : m.all (fun e => p e.1) = true) :
    (Tab.set d m i v).all (fun e => p e.1) = true := by
  have hdel : ∀ m : Tab α, m.all (fun e => p e.1) = true → (Tab.del i m).all (fun e => p e.1) = true := by
    intro m hm
    induction m with
    | nil => rfl
    | cons e t ih =>
      obtain ⟨k, w⟩ := e
      simp only [List.all_cons, Bool.and_eq_true] at hm
      by_cases hk : k = i <;> simp [Tab.del, hk, ih hm.2, hm.1]
  have hins : ∀ m : Tab α, m.all (fun e => p e.1) = true → (Tab.ins i v m).all (fun e => p e.1) = true := by
    intro m hm
    induction m with
    | nil => simp [Tab.ins, hp]
    | cons e t ih =>
      obtain ⟨k, w⟩ := e
      simp only [List.all_cons, Bool.and_eq_true] at hm
      by_cases hk : i < k <;> simp only [Tab.ins, hk, if_true, if_false, List.all_cons, Bool.and_eq_true, hp, hm.1, hm.2, ih hm.2, and_self]
  unfold Tab.set
  split
  · exact hdel m h
  · exact hins _ (hdel m h)

/-- A read after a write of several entries. -/
theorem Tab.get_setMany (d : α) (vs : List α) : ∀ (m : Tab α) (i j : Nat),
    Tab.get d (Tab.setMany d m i vs) j = if i ≤ j ∧ j < i + vs.length then vs.getD (j - i) d else Tab.get d m j := by
  induction vs with
  | nil =>
    intro m i j
    have : ¬ (i ≤ j ∧ j < i + ([] : List α).length) := by simp
    rw [if_neg this]; rfl
  | cons v vs ih =>
    intro m i j
    simp only [Tab.setMany, ih, List.length_cons]
    by_cases h1 : i + 1 ≤ j ∧ j < i + 1 + vs.length
    · have h2 : i ≤ j ∧ j < i + (vs.length + 1) := by omega
      have h3 : j - i = (j - (i + 1)) + 1 := by omega
      rw [if_pos h1, if_pos h2, h3]
      simp
    · rw [if_neg h1]
      by_cases h4 : j = i
      · subst h4
        simp
      · have h2 : ¬ (i ≤ j ∧ j < i + (vs.length + 1)) := by omega
        rw [if_neg h2, Tab.get_set_ne d m i j v h4]

omit [DecidableEq α] in
@[simp] theorem Tab.getMany_length (d : α) (m : Tab α) (i n : Nat) : (Tab.getMany d m i n).length = n := by simp [Tab.getMany]

/-! ## Bytes -/

@[simp] theorem leBytes_length (n x : Nat) : (leBytes n x).length = n := by
  induction n generalizing x with
  | zero => rfl
  | succ n ih => simp [leBytes, ih]

/-- Little-endian bytes spell the number back (R70). -/
theorem ofLe_leBytes (n x : Nat) : ofLe (leBytes n x) = x % 256 ^ n := by
  induction n generalizing x with
  | zero => simp [leBytes, ofLe, Nat.mod_one]
  | succ n ih =>
    have h : (BitVec.ofNat 8 x).toNat = x % 256 := by simp
    simp only [leBytes, ofLe, ih, h]
    rw [Nat.pow_succ', Nat.mod_mul]

end Sys2Proof.Machine
end

