-- ==== Sys2Proof/Laws/State.lean ====
section
/-! SUPPORT. Laws of the state: what each replacement of one numbered resource leaves alone, field by field, and what a read
after it gives. -/

namespace Sys2Proof.Machine

variable (s : State)

/-! ### State.setCore -/

@[simp] theorem State.setCore_time (l : Nat) (x : Core) : (s.setCore l x).time = s.time := rfl
@[simp] theorem State.setCore_pairs (l : Nat) (x : Core) : (s.setCore l x).pairs = s.pairs := rfl
@[simp] theorem State.setCore_chips (l : Nat) (x : Core) : (s.setCore l x).chips = s.chips := rfl
@[simp] theorem State.setCore_router (l : Nat) (x : Core) : (s.setCore l x).router = s.router := rfl
@[simp] theorem State.setCore_mem (l : Nat) (x : Core) : (s.setCore l x).mem = s.mem := rfl
@[simp] theorem State.setCore_bits (l : Nat) (x : Core) : (s.setCore l x).bits = s.bits := rfl
@[simp] theorem State.setCore_arr (l : Nat) (x : Core) : (s.setCore l x).arr = s.arr := rfl
@[simp] theorem State.setCore_chan (l : Nat) (x : Core) : (s.setCore l x).chan = s.chan := rfl
@[simp] theorem State.setCore_eng (l : Nat) (x : Core) : (s.setCore l x).eng = s.eng := rfl
@[simp] theorem State.setCore_inst (l : Nat) (x : Core) : (s.setCore l x).inst = s.inst := rfl
@[simp] theorem State.setCore_rind (l : Nat) (x : Core) : (s.setCore l x).rind = s.rind := rfl
@[simp] theorem State.setCore_pup (l : Nat) (x : Core) : (s.setCore l x).pup = s.pup := rfl
@[simp] theorem State.setCore_fuse (l : Nat) (x : Core) : (s.setCore l x).fuse = s.fuse := rfl
@[simp] theorem State.setCore_dpx (l : Nat) (x : Core) : (s.setCore l x).dpx = s.dpx := rfl
@[simp] theorem State.setCore_perf (l : Nat) (x : Core) : (s.setCore l x).perf = s.perf := rfl
@[simp] theorem State.setCore_pwr (l : Nat) (x : Core) : (s.setCore l x).pwr = s.pwr := rfl
@[simp] theorem State.setCore_freeCtr (l : Nat) (x : Core) : (s.setCore l x).freeCtr = s.freeCtr := rfl
@[simp] theorem State.setCore_pending (l : Nat) (x : Core) : (s.setCore l x).pending = s.pending := rfl
@[simp] theorem State.core_setCore_self (l : Nat) (x : Core) : (s.setCore l x).core l = x := Tab.get_set_self _ _ _ _
theorem State.core_setCore_ne (l o : Nat) (x : Core) (h : o ≠ l) : (s.setCore l x).core o = s.core o := Tab.get_set_ne _ _ _ _ _ h

/-! ### State.setPair -/

@[simp] theorem State.setPair_time (n : Nat) (x : Pair) : (s.setPair n x).time = s.time := rfl
@[simp] theorem State.setPair_cores (n : Nat) (x : Pair) : (s.setPair n x).cores = s.cores := rfl
@[simp] theorem State.setPair_chips (n : Nat) (x : Pair) : (s.setPair n x).chips = s.chips := rfl
@[simp] theorem State.setPair_router (n : Nat) (x : Pair) : (s.setPair n x).router = s.router := rfl
@[simp] theorem State.setPair_mem (n : Nat) (x : Pair) : (s.setPair n x).mem = s.mem := rfl
@[simp] theorem State.setPair_bits (n : Nat) (x : Pair) : (s.setPair n x).bits = s.bits := rfl
@[simp] theorem State.setPair_arr (n : Nat) (x : Pair) : (s.setPair n x).arr = s.arr := rfl
@[simp] theorem State.setPair_chan (n : Nat) (x : Pair) : (s.setPair n x).chan = s.chan := rfl
@[simp] theorem State.setPair_eng (n : Nat) (x : Pair) : (s.setPair n x).eng = s.eng := rfl
@[simp] theorem State.setPair_inst (n : Nat) (x : Pair) : (s.setPair n x).inst = s.inst := rfl
@[simp] theorem State.setPair_rind (n : Nat) (x : Pair) : (s.setPair n x).rind = s.rind := rfl
@[simp] theorem State.setPair_pup (n : Nat) (x : Pair) : (s.setPair n x).pup = s.pup := rfl
@[simp] theorem State.setPair_fuse (n : Nat) (x : Pair) : (s.setPair n x).fuse = s.fuse := rfl
@[simp] theorem State.setPair_dpx (n : Nat) (x : Pair) : (s.setPair n x).dpx = s.dpx := rfl
@[simp] theorem State.setPair_perf (n : Nat) (x : Pair) : (s.setPair n x).perf = s.perf := rfl
@[simp] theorem State.setPair_pwr (n : Nat) (x : Pair) : (s.setPair n x).pwr = s.pwr := rfl
@[simp] theorem State.setPair_freeCtr (n : Nat) (x : Pair) : (s.setPair n x).freeCtr = s.freeCtr := rfl
@[simp] theorem State.setPair_pending (n : Nat) (x : Pair) : (s.setPair n x).pending = s.pending := rfl
@[simp] theorem State.pair_setPair_self (n : Nat) (x : Pair) : (s.setPair n x).pair n = x := Tab.get_set_self _ _ _ _
theorem State.pair_setPair_ne (n o : Nat) (x : Pair) (h : o ≠ n) : (s.setPair n x).pair o = s.pair o := Tab.get_set_ne _ _ _ _ _ h

/-! ### State.setChip -/

@[simp] theorem State.setChip_time (c : Nat) (x : Chip) : (s.setChip c x).time = s.time := rfl
@[simp] theorem State.setChip_cores (c : Nat) (x : Chip) : (s.setChip c x).cores = s.cores := rfl
@[simp] theorem State.setChip_pairs (c : Nat) (x : Chip) : (s.setChip c x).pairs = s.pairs := rfl
@[simp] theorem State.setChip_router (c : Nat) (x : Chip) : (s.setChip c x).router = s.router := rfl
@[simp] theorem State.setChip_mem (c : Nat) (x : Chip) : (s.setChip c x).mem = s.mem := rfl
@[simp] theorem State.setChip_bits (c : Nat) (x : Chip) : (s.setChip c x).bits = s.bits := rfl
@[simp] theorem State.setChip_arr (c : Nat) (x : Chip) : (s.setChip c x).arr = s.arr := rfl
@[simp] theorem State.setChip_chan (c : Nat) (x : Chip) : (s.setChip c x).chan = s.chan := rfl
@[simp] theorem State.setChip_eng (c : Nat) (x : Chip) : (s.setChip c x).eng = s.eng := rfl
@[simp] theorem State.setChip_inst (c : Nat) (x : Chip) : (s.setChip c x).inst = s.inst := rfl
@[simp] theorem State.setChip_rind (c : Nat) (x : Chip) : (s.setChip c x).rind = s.rind := rfl
@[simp] theorem State.setChip_pup (c : Nat) (x : Chip) : (s.setChip c x).pup = s.pup := rfl
@[simp] theorem State.setChip_fuse (c : Nat) (x : Chip) : (s.setChip c x).fuse = s.fuse := rfl
@[simp] theorem State.setChip_dpx (c : Nat) (x : Chip) : (s.setChip c x).dpx = s.dpx := rfl
@[simp] theorem State.setChip_perf (c : Nat) (x : Chip) : (s.setChip c x).perf = s.perf := rfl
@[simp] theorem State.setChip_pwr (c : Nat) (x : Chip) : (s.setChip c x).pwr = s.pwr := rfl
@[simp] theorem State.setChip_freeCtr (c : Nat) (x : Chip) : (s.setChip c x).freeCtr = s.freeCtr := rfl
@[simp] theorem State.setChip_pending (c : Nat) (x : Chip) : (s.setChip c x).pending = s.pending := rfl
@[simp] theorem State.chip_setChip_self (c : Nat) (x : Chip) : (s.setChip c x).chip c = x := Tab.get_set_self _ _ _ _
theorem State.chip_setChip_ne (c o : Nat) (x : Chip) (h : o ≠ c) : (s.setChip c x).chip o = s.chip o := Tab.get_set_ne _ _ _ _ _ h

/-! ### State.setVat -/

@[simp] theorem State.setVat_time (v : Nat) (x : Vat) : (s.setVat v x).time = s.time := rfl
@[simp] theorem State.setVat_cores (v : Nat) (x : Vat) : (s.setVat v x).cores = s.cores := rfl
@[simp] theorem State.setVat_pairs (v : Nat) (x : Vat) : (s.setVat v x).pairs = s.pairs := rfl
@[simp] theorem State.setVat_chips (v : Nat) (x : Vat) : (s.setVat v x).chips = s.chips := rfl
@[simp] theorem State.setVat_router (v : Nat) (x : Vat) : (s.setVat v x).router = s.router := rfl
@[simp] theorem State.setVat_mem (v : Nat) (x : Vat) : (s.setVat v x).mem = s.mem := rfl
@[simp] theorem State.setVat_bits (v : Nat) (x : Vat) : (s.setVat v x).bits = s.bits := rfl
@[simp] theorem State.setVat_chan (v : Nat) (x : Vat) : (s.setVat v x).chan = s.chan := rfl
@[simp] theorem State.setVat_eng (v : Nat) (x : Vat) : (s.setVat v x).eng = s.eng := rfl
@[simp] theorem State.setVat_inst (v : Nat) (x : Vat) : (s.setVat v x).inst = s.inst := rfl
@[simp] theorem State.setVat_rind (v : Nat) (x : Vat) : (s.setVat v x).rind = s.rind := rfl
@[simp] theorem State.setVat_pup (v : Nat) (x : Vat) : (s.setVat v x).pup = s.pup := rfl
@[simp] theorem State.setVat_fuse (v : Nat) (x : Vat) : (s.setVat v x).fuse = s.fuse := rfl
@[simp] theorem State.setVat_dpx (v : Nat) (x : Vat) : (s.setVat v x).dpx = s.dpx := rfl
@[simp] theorem State.setVat_perf (v : Nat) (x : Vat) : (s.setVat v x).perf = s.perf := rfl
@[simp] theorem State.setVat_pwr (v : Nat) (x : Vat) : (s.setVat v x).pwr = s.pwr := rfl
@[simp] theorem State.setVat_freeCtr (v : Nat) (x : Vat) : (s.setVat v x).freeCtr = s.freeCtr := rfl
@[simp] theorem State.setVat_pending (v : Nat) (x : Vat) : (s.setVat v x).pending = s.pending := rfl
@[simp] theorem State.vat_setVat_self (v : Nat) (x : Vat) : (s.setVat v x).vat v = x := Tab.get_set_self _ _ _ _
theorem State.vat_setVat_ne (v o : Nat) (x : Vat) (h : o ≠ v) : (s.setVat v x).vat o = s.vat o := Tab.get_set_ne _ _ _ _ _ h

/-! ### State.setSq -/

@[simp] theorem State.setSq_time (q : Nat) (x : Sequencer) : (s.setSq q x).time = s.time := rfl
@[simp] theorem State.setSq_cores (q : Nat) (x : Sequencer) : (s.setSq q x).cores = s.cores := rfl
@[simp] theorem State.setSq_pairs (q : Nat) (x : Sequencer) : (s.setSq q x).pairs = s.pairs := rfl
@[simp] theorem State.setSq_chips (q : Nat) (x : Sequencer) : (s.setSq q x).chips = s.chips := rfl
@[simp] theorem State.setSq_router (q : Nat) (x : Sequencer) : (s.setSq q x).router = s.router := rfl
@[simp] theorem State.setSq_mem (q : Nat) (x : Sequencer) : (s.setSq q x).mem = s.mem := rfl
@[simp] theorem State.setSq_bits (q : Nat) (x : Sequencer) : (s.setSq q x).bits = s.bits := rfl
@[simp] theorem State.setSq_chan (q : Nat) (x : Sequencer) : (s.setSq q x).chan = s.chan := rfl
@[simp] theorem State.setSq_eng (q : Nat) (x : Sequencer) : (s.setSq q x).eng = s.eng := rfl
@[simp] theorem State.setSq_inst (q : Nat) (x : Sequencer) : (s.setSq q x).inst = s.inst := rfl
@[simp] theorem State.setSq_rind (q : Nat) (x : Sequencer) : (s.setSq q x).rind = s.rind := rfl
@[simp] theorem State.setSq_pup (q : Nat) (x : Sequencer) : (s.setSq q x).pup = s.pup := rfl
@[simp] theorem State.setSq_fuse (q : Nat) (x : Sequencer) : (s.setSq q x).fuse = s.fuse := rfl
@[simp] theorem State.setSq_dpx (q : Nat) (x : Sequencer) : (s.setSq q x).dpx = s.dpx := rfl
@[simp] theorem State.setSq_perf (q : Nat) (x : Sequencer) : (s.setSq q x).perf = s.perf := rfl
@[simp] theorem State.setSq_pwr (q : Nat) (x : Sequencer) : (s.setSq q x).pwr = s.pwr := rfl
@[simp] theorem State.setSq_freeCtr (q : Nat) (x : Sequencer) : (s.setSq q x).freeCtr = s.freeCtr := rfl
@[simp] theorem State.setSq_pending (q : Nat) (x : Sequencer) : (s.setSq q x).pending = s.pending := rfl
@[simp] theorem State.sq_setSq_self (q : Nat) (x : Sequencer) : (s.setSq q x).sq q = x := Tab.get_set_self _ _ _ _
theorem State.sq_setSq_ne (q o : Nat) (x : Sequencer) (h : o ≠ q) : (s.setSq q x).sq o = s.sq o := Tab.get_set_ne _ _ _ _ _ h

/-! ### State.setPart -/

@[simp] theorem State.setPart_time (p : Nat) (x : PartH) : (s.setPart p x).time = s.time := rfl
@[simp] theorem State.setPart_cores (p : Nat) (x : PartH) : (s.setPart p x).cores = s.cores := rfl
@[simp] theorem State.setPart_pairs (p : Nat) (x : PartH) : (s.setPart p x).pairs = s.pairs := rfl
@[simp] theorem State.setPart_chips (p : Nat) (x : PartH) : (s.setPart p x).chips = s.chips := rfl
@[simp] theorem State.setPart_router (p : Nat) (x : PartH) : (s.setPart p x).router = s.router := rfl
@[simp] theorem State.setPart_mem (p : Nat) (x : PartH) : (s.setPart p x).mem = s.mem := rfl
@[simp] theorem State.setPart_bits (p : Nat) (x : PartH) : (s.setPart p x).bits = s.bits := rfl
@[simp] theorem State.setPart_chan (p : Nat) (x : PartH) : (s.setPart p x).chan = s.chan := rfl
@[simp] theorem State.setPart_eng (p : Nat) (x : PartH) : (s.setPart p x).eng = s.eng := rfl
@[simp] theorem State.setPart_inst (p : Nat) (x : PartH) : (s.setPart p x).inst = s.inst := rfl
@[simp] theorem State.setPart_rind (p : Nat) (x : PartH) : (s.setPart p x).rind = s.rind := rfl
@[simp] theorem State.setPart_pup (p : Nat) (x : PartH) : (s.setPart p x).pup = s.pup := rfl
@[simp] theorem State.setPart_fuse (p : Nat) (x : PartH) : (s.setPart p x).fuse = s.fuse := rfl
@[simp] theorem State.setPart_dpx (p : Nat) (x : PartH) : (s.setPart p x).dpx = s.dpx := rfl
@[simp] theorem State.setPart_perf (p : Nat) (x : PartH) : (s.setPart p x).perf = s.perf := rfl
@[simp] theorem State.setPart_pwr (p : Nat) (x : PartH) : (s.setPart p x).pwr = s.pwr := rfl
@[simp] theorem State.setPart_freeCtr (p : Nat) (x : PartH) : (s.setPart p x).freeCtr = s.freeCtr := rfl
@[simp] theorem State.setPart_pending (p : Nat) (x : PartH) : (s.setPart p x).pending = s.pending := rfl
@[simp] theorem State.part_setPart_self (p : Nat) (x : PartH) : (s.setPart p x).part p = x := Tab.get_set_self _ _ _ _
theorem State.part_setPart_ne (p o : Nat) (x : PartH) (h : o ≠ p) : (s.setPart p x).part o = s.part o := Tab.get_set_ne _ _ _ _ _ h

/-! ### State.setCap -/

@[simp] theorem State.setCap_time (q : Nat) (x : Option Capture) : (s.setCap q x).time = s.time := rfl
@[simp] theorem State.setCap_cores (q : Nat) (x : Option Capture) : (s.setCap q x).cores = s.cores := rfl
@[simp] theorem State.setCap_pairs (q : Nat) (x : Option Capture) : (s.setCap q x).pairs = s.pairs := rfl
@[simp] theorem State.setCap_chips (q : Nat) (x : Option Capture) : (s.setCap q x).chips = s.chips := rfl
@[simp] theorem State.setCap_router (q : Nat) (x : Option Capture) : (s.setCap q x).router = s.router := rfl
@[simp] theorem State.setCap_mem (q : Nat) (x : Option Capture) : (s.setCap q x).mem = s.mem := rfl
@[simp] theorem State.setCap_bits (q : Nat) (x : Option Capture) : (s.setCap q x).bits = s.bits := rfl
@[simp] theorem State.setCap_chan (q : Nat) (x : Option Capture) : (s.setCap q x).chan = s.chan := rfl
@[simp] theorem State.setCap_eng (q : Nat) (x : Option Capture) : (s.setCap q x).eng = s.eng := rfl
@[simp] theorem State.setCap_inst (q : Nat) (x : Option Capture) : (s.setCap q x).inst = s.inst := rfl
@[simp] theorem State.setCap_rind (q : Nat) (x : Option Capture) : (s.setCap q x).rind = s.rind := rfl
@[simp] theorem State.setCap_pup (q : Nat) (x : Option Capture) : (s.setCap q x).pup = s.pup := rfl
@[simp] theorem State.setCap_fuse (q : Nat) (x : Option Capture) : (s.setCap q x).fuse = s.fuse := rfl
@[simp] theorem State.setCap_dpx (q : Nat) (x : Option Capture) : (s.setCap q x).dpx = s.dpx := rfl
@[simp] theorem State.setCap_perf (q : Nat) (x : Option Capture) : (s.setCap q x).perf = s.perf := rfl
@[simp] theorem State.setCap_pwr (q : Nat) (x : Option Capture) : (s.setCap q x).pwr = s.pwr := rfl
@[simp] theorem State.setCap_freeCtr (q : Nat) (x : Option Capture) : (s.setCap q x).freeCtr = s.freeCtr := rfl
@[simp] theorem State.setCap_pending (q : Nat) (x : Option Capture) : (s.setCap q x).pending = s.pending := rfl
@[simp] theorem State.cap_setCap_self (q : Nat) (x : Option Capture) : (s.setCap q x).cap q = x := Tab.get_set_self _ _ _ _
theorem State.cap_setCap_ne (q o : Nat) (x : Option Capture) (h : o ≠ q) : (s.setCap q x).cap o = s.cap o := Tab.get_set_ne _ _ _ _ _ h

/-! ### State.setEp -/

@[simp] theorem State.setEp_time (e : Nat) (x : Endp) : (s.setEp e x).time = s.time := rfl
@[simp] theorem State.setEp_cores (e : Nat) (x : Endp) : (s.setEp e x).cores = s.cores := rfl
@[simp] theorem State.setEp_pairs (e : Nat) (x : Endp) : (s.setEp e x).pairs = s.pairs := rfl
@[simp] theorem State.setEp_chips (e : Nat) (x : Endp) : (s.setEp e x).chips = s.chips := rfl
@[simp] theorem State.setEp_router (e : Nat) (x : Endp) : (s.setEp e x).router = s.router := rfl
@[simp] theorem State.setEp_mem (e : Nat) (x : Endp) : (s.setEp e x).mem = s.mem := rfl
@[simp] theorem State.setEp_bits (e : Nat) (x : Endp) : (s.setEp e x).bits = s.bits := rfl
@[simp] theorem State.setEp_arr (e : Nat) (x : Endp) : (s.setEp e x).arr = s.arr := rfl
@[simp] theorem State.setEp_eng (e : Nat) (x : Endp) : (s.setEp e x).eng = s.eng := rfl
@[simp] theorem State.setEp_inst (e : Nat) (x : Endp) : (s.setEp e x).inst = s.inst := rfl
@[simp] theorem State.setEp_rind (e : Nat) (x : Endp) : (s.setEp e x).rind = s.rind := rfl
@[simp] theorem State.setEp_pup (e : Nat) (x : Endp) : (s.setEp e x).pup = s.pup := rfl
@[simp] theorem State.setEp_fuse (e : Nat) (x : Endp) : (s.setEp e x).fuse = s.fuse := rfl
@[simp] theorem State.setEp_dpx (e : Nat) (x : Endp) : (s.setEp e x).dpx = s.dpx := rfl
@[simp] theorem State.setEp_perf (e : Nat) (x : Endp) : (s.setEp e x).perf = s.perf := rfl
@[simp] theorem State.setEp_pwr (e : Nat) (x : Endp) : (s.setEp e x).pwr = s.pwr := rfl
@[simp] theorem State.setEp_freeCtr (e : Nat) (x : Endp) : (s.setEp e x).freeCtr = s.freeCtr := rfl
@[simp] theorem State.setEp_pending (e : Nat) (x : Endp) : (s.setEp e x).pending = s.pending := rfl
@[simp] theorem State.ep_setEp_self (e : Nat) (x : Endp) : (s.setEp e x).ep e = x := Tab.get_set_self _ _ _ _
theorem State.ep_setEp_ne (e o : Nat) (x : Endp) (h : o ≠ e) : (s.setEp e x).ep o = s.ep o := Tab.get_set_ne _ _ _ _ _ h

/-! ### State.setPort -/

@[simp] theorem State.setPort_time (p : Nat) (x : Port) : (s.setPort p x).time = s.time := rfl
@[simp] theorem State.setPort_cores (p : Nat) (x : Port) : (s.setPort p x).cores = s.cores := rfl
@[simp] theorem State.setPort_pairs (p : Nat) (x : Port) : (s.setPort p x).pairs = s.pairs := rfl
@[simp] theorem State.setPort_chips (p : Nat) (x : Port) : (s.setPort p x).chips = s.chips := rfl
@[simp] theorem State.setPort_router (p : Nat) (x : Port) : (s.setPort p x).router = s.router := rfl
@[simp] theorem State.setPort_mem (p : Nat) (x : Port) : (s.setPort p x).mem = s.mem := rfl
@[simp] theorem State.setPort_bits (p : Nat) (x : Port) : (s.setPort p x).bits = s.bits := rfl
@[simp] theorem State.setPort_arr (p : Nat) (x : Port) : (s.setPort p x).arr = s.arr := rfl
@[simp] theorem State.setPort_eng (p : Nat) (x : Port) : (s.setPort p x).eng = s.eng := rfl
@[simp] theorem State.setPort_inst (p : Nat) (x : Port) : (s.setPort p x).inst = s.inst := rfl
@[simp] theorem State.setPort_rind (p : Nat) (x : Port) : (s.setPort p x).rind = s.rind := rfl
@[simp] theorem State.setPort_pup (p : Nat) (x : Port) : (s.setPort p x).pup = s.pup := rfl
@[simp] theorem State.setPort_fuse (p : Nat) (x : Port) : (s.setPort p x).fuse = s.fuse := rfl
@[simp] theorem State.setPort_dpx (p : Nat) (x : Port) : (s.setPort p x).dpx = s.dpx := rfl
@[simp] theorem State.setPort_perf (p : Nat) (x : Port) : (s.setPort p x).perf = s.perf := rfl
@[simp] theorem State.setPort_pwr (p : Nat) (x : Port) : (s.setPort p x).pwr = s.pwr := rfl
@[simp] theorem State.setPort_freeCtr (p : Nat) (x : Port) : (s.setPort p x).freeCtr = s.freeCtr := rfl
@[simp] theorem State.setPort_pending (p : Nat) (x : Port) : (s.setPort p x).pending = s.pending := rfl
@[simp] theorem State.port_setPort_self (p : Nat) (x : Port) : (s.setPort p x).port p = x := Tab.get_set_self _ _ _ _
theorem State.port_setPort_ne (p o : Nat) (x : Port) (h : o ≠ p) : (s.setPort p x).port o = s.port o := Tab.get_set_ne _ _ _ _ _ h

/-! ### State.setGroup -/

@[simp] theorem State.setGroup_time (g : Nat) (x : PortGroup) : (s.setGroup g x).time = s.time := rfl
@[simp] theorem State.setGroup_cores (g : Nat) (x : PortGroup) : (s.setGroup g x).cores = s.cores := rfl
@[simp] theorem State.setGroup_pairs (g : Nat) (x : PortGroup) : (s.setGroup g x).pairs = s.pairs := rfl
@[simp] theorem State.setGroup_chips (g : Nat) (x : PortGroup) : (s.setGroup g x).chips = s.chips := rfl
@[simp] theorem State.setGroup_router (g : Nat) (x : PortGroup) : (s.setGroup g x).router = s.router := rfl
@[simp] theorem State.setGroup_mem (g : Nat) (x : PortGroup) : (s.setGroup g x).mem = s.mem := rfl
@[simp] theorem State.setGroup_bits (g : Nat) (x : PortGroup) : (s.setGroup g x).bits = s.bits := rfl
@[simp] theorem State.setGroup_arr (g : Nat) (x : PortGroup) : (s.setGroup g x).arr = s.arr := rfl
@[simp] theorem State.setGroup_eng (g : Nat) (x : PortGroup) : (s.setGroup g x).eng = s.eng := rfl
@[simp] theorem State.setGroup_inst (g : Nat) (x : PortGroup) : (s.setGroup g x).inst = s.inst := rfl
@[simp] theorem State.setGroup_rind (g : Nat) (x : PortGroup) : (s.setGroup g x).rind = s.rind := rfl
@[simp] theorem State.setGroup_pup (g : Nat) (x : PortGroup) : (s.setGroup g x).pup = s.pup := rfl
@[simp] theorem State.setGroup_fuse (g : Nat) (x : PortGroup) : (s.setGroup g x).fuse = s.fuse := rfl
@[simp] theorem State.setGroup_dpx (g : Nat) (x : PortGroup) : (s.setGroup g x).dpx = s.dpx := rfl
@[simp] theorem State.setGroup_perf (g : Nat) (x : PortGroup) : (s.setGroup g x).perf = s.perf := rfl
@[simp] theorem State.setGroup_pwr (g : Nat) (x : PortGroup) : (s.setGroup g x).pwr = s.pwr := rfl
@[simp] theorem State.setGroup_freeCtr (g : Nat) (x : PortGroup) : (s.setGroup g x).freeCtr = s.freeCtr := rfl
@[simp] theorem State.setGroup_pending (g : Nat) (x : PortGroup) : (s.setGroup g x).pending = s.pending := rfl
@[simp] theorem State.group_setGroup_self (g : Nat) (x : PortGroup) : (s.setGroup g x).group g = x := Tab.get_set_self _ _ _ _
theorem State.group_setGroup_ne (g o : Nat) (x : PortGroup) (h : o ≠ g) : (s.setGroup g x).group o = s.group o := Tab.get_set_ne _ _ _ _ _ h

/-! ### State.setLed -/

@[simp] theorem State.setLed_time (l : Nat) (x : Led) : (s.setLed l x).time = s.time := rfl
@[simp] theorem State.setLed_cores (l : Nat) (x : Led) : (s.setLed l x).cores = s.cores := rfl
@[simp] theorem State.setLed_pairs (l : Nat) (x : Led) : (s.setLed l x).pairs = s.pairs := rfl
@[simp] theorem State.setLed_chips (l : Nat) (x : Led) : (s.setLed l x).chips = s.chips := rfl
@[simp] theorem State.setLed_router (l : Nat) (x : Led) : (s.setLed l x).router = s.router := rfl
@[simp] theorem State.setLed_mem (l : Nat) (x : Led) : (s.setLed l x).mem = s.mem := rfl
@[simp] theorem State.setLed_bits (l : Nat) (x : Led) : (s.setLed l x).bits = s.bits := rfl
@[simp] theorem State.setLed_arr (l : Nat) (x : Led) : (s.setLed l x).arr = s.arr := rfl
@[simp] theorem State.setLed_eng (l : Nat) (x : Led) : (s.setLed l x).eng = s.eng := rfl
@[simp] theorem State.setLed_inst (l : Nat) (x : Led) : (s.setLed l x).inst = s.inst := rfl
@[simp] theorem State.setLed_rind (l : Nat) (x : Led) : (s.setLed l x).rind = s.rind := rfl
@[simp] theorem State.setLed_pup (l : Nat) (x : Led) : (s.setLed l x).pup = s.pup := rfl
@[simp] theorem State.setLed_fuse (l : Nat) (x : Led) : (s.setLed l x).fuse = s.fuse := rfl
@[simp] theorem State.setLed_dpx (l : Nat) (x : Led) : (s.setLed l x).dpx = s.dpx := rfl
@[simp] theorem State.setLed_perf (l : Nat) (x : Led) : (s.setLed l x).perf = s.perf := rfl
@[simp] theorem State.setLed_pwr (l : Nat) (x : Led) : (s.setLed l x).pwr = s.pwr := rfl
@[simp] theorem State.setLed_freeCtr (l : Nat) (x : Led) : (s.setLed l x).freeCtr = s.freeCtr := rfl
@[simp] theorem State.setLed_pending (l : Nat) (x : Led) : (s.setLed l x).pending = s.pending := rfl
@[simp] theorem State.led_setLed_self (l : Nat) (x : Led) : (s.setLed l x).led l = x := Tab.get_set_self _ _ _ _
theorem State.led_setLed_ne (l o : Nat) (x : Led) (h : o ≠ l) : (s.setLed l x).led o = s.led o := Tab.get_set_ne _ _ _ _ _ h

/-! ### State.setWin -/

@[simp] theorem State.setWin_time (w : Nat) (x : DevWin) : (s.setWin w x).time = s.time := rfl
@[simp] theorem State.setWin_cores (w : Nat) (x : DevWin) : (s.setWin w x).cores = s.cores := rfl
@[simp] theorem State.setWin_pairs (w : Nat) (x : DevWin) : (s.setWin w x).pairs = s.pairs := rfl
@[simp] theorem State.setWin_chips (w : Nat) (x : DevWin) : (s.setWin w x).chips = s.chips := rfl
@[simp] theorem State.setWin_router (w : Nat) (x : DevWin) : (s.setWin w x).router = s.router := rfl
@[simp] theorem State.setWin_mem (w : Nat) (x : DevWin) : (s.setWin w x).mem = s.mem := rfl
@[simp] theorem State.setWin_bits (w : Nat) (x : DevWin) : (s.setWin w x).bits = s.bits := rfl
@[simp] theorem State.setWin_arr (w : Nat) (x : DevWin) : (s.setWin w x).arr = s.arr := rfl
@[simp] theorem State.setWin_eng (w : Nat) (x : DevWin) : (s.setWin w x).eng = s.eng := rfl
@[simp] theorem State.setWin_inst (w : Nat) (x : DevWin) : (s.setWin w x).inst = s.inst := rfl
@[simp] theorem State.setWin_rind (w : Nat) (x : DevWin) : (s.setWin w x).rind = s.rind := rfl
@[simp] theorem State.setWin_pup (w : Nat) (x : DevWin) : (s.setWin w x).pup = s.pup := rfl
@[simp] theorem State.setWin_fuse (w : Nat) (x : DevWin) : (s.setWin w x).fuse = s.fuse := rfl
@[simp] theorem State.setWin_dpx (w : Nat) (x : DevWin) : (s.setWin w x).dpx = s.dpx := rfl
@[simp] theorem State.setWin_perf (w : Nat) (x : DevWin) : (s.setWin w x).perf = s.perf := rfl
@[simp] theorem State.setWin_pwr (w : Nat) (x : DevWin) : (s.setWin w x).pwr = s.pwr := rfl
@[simp] theorem State.setWin_freeCtr (w : Nat) (x : DevWin) : (s.setWin w x).freeCtr = s.freeCtr := rfl
@[simp] theorem State.setWin_pending (w : Nat) (x : DevWin) : (s.setWin w x).pending = s.pending := rfl
@[simp] theorem State.win_setWin_self (w : Nat) (x : DevWin) : (s.setWin w x).win w = x := Tab.get_set_self _ _ _ _
theorem State.win_setWin_ne (w o : Nat) (x : DevWin) (h : o ≠ w) : (s.setWin w x).win o = s.win o := Tab.get_set_ne _ _ _ _ _ h

/-! ### State.setIns -/

@[simp] theorem State.setIns_time (i : Nat) (x : Inst) : (s.setIns i x).time = s.time := rfl
@[simp] theorem State.setIns_cores (i : Nat) (x : Inst) : (s.setIns i x).cores = s.cores := rfl
@[simp] theorem State.setIns_pairs (i : Nat) (x : Inst) : (s.setIns i x).pairs = s.pairs := rfl
@[simp] theorem State.setIns_chips (i : Nat) (x : Inst) : (s.setIns i x).chips = s.chips := rfl
@[simp] theorem State.setIns_router (i : Nat) (x : Inst) : (s.setIns i x).router = s.router := rfl
@[simp] theorem State.setIns_mem (i : Nat) (x : Inst) : (s.setIns i x).mem = s.mem := rfl
@[simp] theorem State.setIns_bits (i : Nat) (x : Inst) : (s.setIns i x).bits = s.bits := rfl
@[simp] theorem State.setIns_arr (i : Nat) (x : Inst) : (s.setIns i x).arr = s.arr := rfl
@[simp] theorem State.setIns_chan (i : Nat) (x : Inst) : (s.setIns i x).chan = s.chan := rfl
@[simp] theorem State.setIns_eng (i : Nat) (x : Inst) : (s.setIns i x).eng = s.eng := rfl
@[simp] theorem State.setIns_rind (i : Nat) (x : Inst) : (s.setIns i x).rind = s.rind := rfl
@[simp] theorem State.setIns_pup (i : Nat) (x : Inst) : (s.setIns i x).pup = s.pup := rfl
@[simp] theorem State.setIns_fuse (i : Nat) (x : Inst) : (s.setIns i x).fuse = s.fuse := rfl
@[simp] theorem State.setIns_dpx (i : Nat) (x : Inst) : (s.setIns i x).dpx = s.dpx := rfl
@[simp] theorem State.setIns_perf (i : Nat) (x : Inst) : (s.setIns i x).perf = s.perf := rfl
@[simp] theorem State.setIns_pwr (i : Nat) (x : Inst) : (s.setIns i x).pwr = s.pwr := rfl
@[simp] theorem State.setIns_freeCtr (i : Nat) (x : Inst) : (s.setIns i x).freeCtr = s.freeCtr := rfl
@[simp] theorem State.setIns_pending (i : Nat) (x : Inst) : (s.setIns i x).pending = s.pending := rfl
@[simp] theorem State.ins_setIns_self (i : Nat) (x : Inst) : (s.setIns i x).ins i = x := Tab.get_set_self _ _ _ _
theorem State.ins_setIns_ne (i o : Nat) (x : Inst) (h : o ≠ i) : (s.setIns i x).ins o = s.ins o := Tab.get_set_ne _ _ _ _ _ h

/-! ### State.setQp -/

@[simp] theorem State.setQp_time (q : Nat) (x : Qp) : (s.setQp q x).time = s.time := rfl
@[simp] theorem State.setQp_cores (q : Nat) (x : Qp) : (s.setQp q x).cores = s.cores := rfl
@[simp] theorem State.setQp_pairs (q : Nat) (x : Qp) : (s.setQp q x).pairs = s.pairs := rfl
@[simp] theorem State.setQp_chips (q : Nat) (x : Qp) : (s.setQp q x).chips = s.chips := rfl
@[simp] theorem State.setQp_router (q : Nat) (x : Qp) : (s.setQp q x).router = s.router := rfl
@[simp] theorem State.setQp_mem (q : Nat) (x : Qp) : (s.setQp q x).mem = s.mem := rfl
@[simp] theorem State.setQp_bits (q : Nat) (x : Qp) : (s.setQp q x).bits = s.bits := rfl
@[simp] theorem State.setQp_arr (q : Nat) (x : Qp) : (s.setQp q x).arr = s.arr := rfl
@[simp] theorem State.setQp_chan (q : Nat) (x : Qp) : (s.setQp q x).chan = s.chan := rfl
@[simp] theorem State.setQp_eng (q : Nat) (x : Qp) : (s.setQp q x).eng = s.eng := rfl
@[simp] theorem State.setQp_rind (q : Nat) (x : Qp) : (s.setQp q x).rind = s.rind := rfl
@[simp] theorem State.setQp_pup (q : Nat) (x : Qp) : (s.setQp q x).pup = s.pup := rfl
@[simp] theorem State.setQp_fuse (q : Nat) (x : Qp) : (s.setQp q x).fuse = s.fuse := rfl
@[simp] theorem State.setQp_dpx (q : Nat) (x : Qp) : (s.setQp q x).dpx = s.dpx := rfl
@[simp] theorem State.setQp_perf (q : Nat) (x : Qp) : (s.setQp q x).perf = s.perf := rfl
@[simp] theorem State.setQp_pwr (q : Nat) (x : Qp) : (s.setQp q x).pwr = s.pwr := rfl
@[simp] theorem State.setQp_freeCtr (q : Nat) (x : Qp) : (s.setQp q x).freeCtr = s.freeCtr := rfl
@[simp] theorem State.setQp_pending (q : Nat) (x : Qp) : (s.setQp q x).pending = s.pending := rfl
@[simp] theorem State.qp_setQp_self (q : Nat) (x : Qp) : (s.setQp q x).qp q = x := Tab.get_set_self _ _ _ _
theorem State.qp_setQp_ne (q o : Nat) (x : Qp) (h : o ≠ q) : (s.setQp q x).qp o = s.qp o := Tab.get_set_ne _ _ _ _ _ h

/-! ### State.setVv -/

@[simp] theorem State.setVv_time (v : Nat) (x : Vv) : (s.setVv v x).time = s.time := rfl
@[simp] theorem State.setVv_cores (v : Nat) (x : Vv) : (s.setVv v x).cores = s.cores := rfl
@[simp] theorem State.setVv_pairs (v : Nat) (x : Vv) : (s.setVv v x).pairs = s.pairs := rfl
@[simp] theorem State.setVv_chips (v : Nat) (x : Vv) : (s.setVv v x).chips = s.chips := rfl
@[simp] theorem State.setVv_router (v : Nat) (x : Vv) : (s.setVv v x).router = s.router := rfl
@[simp] theorem State.setVv_mem (v : Nat) (x : Vv) : (s.setVv v x).mem = s.mem := rfl
@[simp] theorem State.setVv_bits (v : Nat) (x : Vv) : (s.setVv v x).bits = s.bits := rfl
@[simp] theorem State.setVv_arr (v : Nat) (x : Vv) : (s.setVv v x).arr = s.arr := rfl
@[simp] theorem State.setVv_chan (v : Nat) (x : Vv) : (s.setVv v x).chan = s.chan := rfl
@[simp] theorem State.setVv_eng (v : Nat) (x : Vv) : (s.setVv v x).eng = s.eng := rfl
@[simp] theorem State.setVv_rind (v : Nat) (x : Vv) : (s.setVv v x).rind = s.rind := rfl
@[simp] theorem State.setVv_pup (v : Nat) (x : Vv) : (s.setVv v x).pup = s.pup := rfl
@[simp] theorem State.setVv_fuse (v : Nat) (x : Vv) : (s.setVv v x).fuse = s.fuse := rfl
@[simp] theorem State.setVv_dpx (v : Nat) (x : Vv) : (s.setVv v x).dpx = s.dpx := rfl
@[simp] theorem State.setVv_perf (v : Nat) (x : Vv) : (s.setVv v x).perf = s.perf := rfl
@[simp] theorem State.setVv_pwr (v : Nat) (x : Vv) : (s.setVv v x).pwr = s.pwr := rfl
@[simp] theorem State.setVv_freeCtr (v : Nat) (x : Vv) : (s.setVv v x).freeCtr = s.freeCtr := rfl
@[simp] theorem State.setVv_pending (v : Nat) (x : Vv) : (s.setVv v x).pending = s.pending := rfl
@[simp] theorem State.vv_setVv_self (v : Nat) (x : Vv) : (s.setVv v x).vv v = x := Tab.get_set_self _ _ _ _
theorem State.vv_setVv_ne (v o : Nat) (x : Vv) (h : o ≠ v) : (s.setVv v x).vv o = s.vv o := Tab.get_set_ne _ _ _ _ _ h

/-! ### State.setJob -/

@[simp] theorem State.setJob_time (j : Nat) (x : EngJob) : (s.setJob j x).time = s.time := rfl
@[simp] theorem State.setJob_cores (j : Nat) (x : EngJob) : (s.setJob j x).cores = s.cores := rfl
@[simp] theorem State.setJob_pairs (j : Nat) (x : EngJob) : (s.setJob j x).pairs = s.pairs := rfl
@[simp] theorem State.setJob_chips (j : Nat) (x : EngJob) : (s.setJob j x).chips = s.chips := rfl
@[simp] theorem State.setJob_router (j : Nat) (x : EngJob) : (s.setJob j x).router = s.router := rfl
@[simp] theorem State.setJob_mem (j : Nat) (x : EngJob) : (s.setJob j x).mem = s.mem := rfl
@[simp] theorem State.setJob_bits (j : Nat) (x : EngJob) : (s.setJob j x).bits = s.bits := rfl
@[simp] theorem State.setJob_arr (j : Nat) (x : EngJob) : (s.setJob j x).arr = s.arr := rfl
@[simp] theorem State.setJob_chan (j : Nat) (x : EngJob) : (s.setJob j x).chan = s.chan := rfl
@[simp] theorem State.setJob_inst (j : Nat) (x : EngJob) : (s.setJob j x).inst = s.inst := rfl
@[simp] theorem State.setJob_rind (j : Nat) (x : EngJob) : (s.setJob j x).rind = s.rind := rfl
@[simp] theorem State.setJob_pup (j : Nat) (x : EngJob) : (s.setJob j x).pup = s.pup := rfl
@[simp] theorem State.setJob_fuse (j : Nat) (x : EngJob) : (s.setJob j x).fuse = s.fuse := rfl
@[simp] theorem State.setJob_dpx (j : Nat) (x : EngJob) : (s.setJob j x).dpx = s.dpx := rfl
@[simp] theorem State.setJob_perf (j : Nat) (x : EngJob) : (s.setJob j x).perf = s.perf := rfl
@[simp] theorem State.setJob_pwr (j : Nat) (x : EngJob) : (s.setJob j x).pwr = s.pwr := rfl
@[simp] theorem State.setJob_freeCtr (j : Nat) (x : EngJob) : (s.setJob j x).freeCtr = s.freeCtr := rfl
@[simp] theorem State.setJob_pending (j : Nat) (x : EngJob) : (s.setJob j x).pending = s.pending := rfl
@[simp] theorem State.job_setJob_self (j : Nat) (x : EngJob) : (s.setJob j x).job j = x := Tab.get_set_self _ _ _ _
theorem State.job_setJob_ne (j o : Nat) (x : EngJob) (h : o ≠ j) : (s.setJob j x).job o = s.job o := Tab.get_set_ne _ _ _ _ _ h

/-! ### State.setKey -/

@[simp] theorem State.setKey_time (k : Nat) (x : Option Key) : (s.setKey k x).time = s.time := rfl
@[simp] theorem State.setKey_cores (k : Nat) (x : Option Key) : (s.setKey k x).cores = s.cores := rfl
@[simp] theorem State.setKey_pairs (k : Nat) (x : Option Key) : (s.setKey k x).pairs = s.pairs := rfl
@[simp] theorem State.setKey_chips (k : Nat) (x : Option Key) : (s.setKey k x).chips = s.chips := rfl
@[simp] theorem State.setKey_router (k : Nat) (x : Option Key) : (s.setKey k x).router = s.router := rfl
@[simp] theorem State.setKey_mem (k : Nat) (x : Option Key) : (s.setKey k x).mem = s.mem := rfl
@[simp] theorem State.setKey_bits (k : Nat) (x : Option Key) : (s.setKey k x).bits = s.bits := rfl
@[simp] theorem State.setKey_arr (k : Nat) (x : Option Key) : (s.setKey k x).arr = s.arr := rfl
@[simp] theorem State.setKey_chan (k : Nat) (x : Option Key) : (s.setKey k x).chan = s.chan := rfl
@[simp] theorem State.setKey_inst (k : Nat) (x : Option Key) : (s.setKey k x).inst = s.inst := rfl
@[simp] theorem State.setKey_rind (k : Nat) (x : Option Key) : (s.setKey k x).rind = s.rind := rfl
@[simp] theorem State.setKey_pup (k : Nat) (x : Option Key) : (s.setKey k x).pup = s.pup := rfl
@[simp] theorem State.setKey_fuse (k : Nat) (x : Option Key) : (s.setKey k x).fuse = s.fuse := rfl
@[simp] theorem State.setKey_dpx (k : Nat) (x : Option Key) : (s.setKey k x).dpx = s.dpx := rfl
@[simp] theorem State.setKey_perf (k : Nat) (x : Option Key) : (s.setKey k x).perf = s.perf := rfl
@[simp] theorem State.setKey_pwr (k : Nat) (x : Option Key) : (s.setKey k x).pwr = s.pwr := rfl
@[simp] theorem State.setKey_freeCtr (k : Nat) (x : Option Key) : (s.setKey k x).freeCtr = s.freeCtr := rfl
@[simp] theorem State.setKey_pending (k : Nat) (x : Option Key) : (s.setKey k x).pending = s.pending := rfl
@[simp] theorem State.key_setKey_self (k : Nat) (x : Option Key) : (s.setKey k x).key k = x := Tab.get_set_self _ _ _ _
theorem State.key_setKey_ne (k o : Nat) (x : Option Key) (h : o ≠ k) : (s.setKey k x).key o = s.key o := Tab.get_set_ne _ _ _ _ _ h

/-! ### State.setSrc -/

@[simp] theorem State.setSrc_time (n : Nat) (x : RSrc) : (s.setSrc n x).time = s.time := rfl
@[simp] theorem State.setSrc_cores (n : Nat) (x : RSrc) : (s.setSrc n x).cores = s.cores := rfl
@[simp] theorem State.setSrc_pairs (n : Nat) (x : RSrc) : (s.setSrc n x).pairs = s.pairs := rfl
@[simp] theorem State.setSrc_chips (n : Nat) (x : RSrc) : (s.setSrc n x).chips = s.chips := rfl
@[simp] theorem State.setSrc_router (n : Nat) (x : RSrc) : (s.setSrc n x).router = s.router := rfl
@[simp] theorem State.setSrc_mem (n : Nat) (x : RSrc) : (s.setSrc n x).mem = s.mem := rfl
@[simp] theorem State.setSrc_bits (n : Nat) (x : RSrc) : (s.setSrc n x).bits = s.bits := rfl
@[simp] theorem State.setSrc_arr (n : Nat) (x : RSrc) : (s.setSrc n x).arr = s.arr := rfl
@[simp] theorem State.setSrc_chan (n : Nat) (x : RSrc) : (s.setSrc n x).chan = s.chan := rfl
@[simp] theorem State.setSrc_eng (n : Nat) (x : RSrc) : (s.setSrc n x).eng = s.eng := rfl
@[simp] theorem State.setSrc_inst (n : Nat) (x : RSrc) : (s.setSrc n x).inst = s.inst := rfl
@[simp] theorem State.setSrc_pup (n : Nat) (x : RSrc) : (s.setSrc n x).pup = s.pup := rfl
@[simp] theorem State.setSrc_fuse (n : Nat) (x : RSrc) : (s.setSrc n x).fuse = s.fuse := rfl
@[simp] theorem State.setSrc_dpx (n : Nat) (x : RSrc) : (s.setSrc n x).dpx = s.dpx := rfl
@[simp] theorem State.setSrc_perf (n : Nat) (x : RSrc) : (s.setSrc n x).perf = s.perf := rfl
@[simp] theorem State.setSrc_pwr (n : Nat) (x : RSrc) : (s.setSrc n x).pwr = s.pwr := rfl
@[simp] theorem State.setSrc_freeCtr (n : Nat) (x : RSrc) : (s.setSrc n x).freeCtr = s.freeCtr := rfl
@[simp] theorem State.setSrc_pending (n : Nat) (x : RSrc) : (s.setSrc n x).pending = s.pending := rfl
@[simp] theorem State.src_setSrc_self (n : Nat) (x : RSrc) : (s.setSrc n x).src n = x := Tab.get_set_self _ _ _ _
theorem State.src_setSrc_ne (n o : Nat) (x : RSrc) (h : o ≠ n) : (s.setSrc n x).src o = s.src o := Tab.get_set_ne _ _ _ _ _ h

/-! ### State.setEr -/

@[simp] theorem State.setEr_time (n : Nat) (x : ErSrc) : (s.setEr n x).time = s.time := rfl
@[simp] theorem State.setEr_cores (n : Nat) (x : ErSrc) : (s.setEr n x).cores = s.cores := rfl
@[simp] theorem State.setEr_pairs (n : Nat) (x : ErSrc) : (s.setEr n x).pairs = s.pairs := rfl
@[simp] theorem State.setEr_chips (n : Nat) (x : ErSrc) : (s.setEr n x).chips = s.chips := rfl
@[simp] theorem State.setEr_mem (n : Nat) (x : ErSrc) : (s.setEr n x).mem = s.mem := rfl
@[simp] theorem State.setEr_bits (n : Nat) (x : ErSrc) : (s.setEr n x).bits = s.bits := rfl
@[simp] theorem State.setEr_arr (n : Nat) (x : ErSrc) : (s.setEr n x).arr = s.arr := rfl
@[simp] theorem State.setEr_chan (n : Nat) (x : ErSrc) : (s.setEr n x).chan = s.chan := rfl
@[simp] theorem State.setEr_eng (n : Nat) (x : ErSrc) : (s.setEr n x).eng = s.eng := rfl
@[simp] theorem State.setEr_inst (n : Nat) (x : ErSrc) : (s.setEr n x).inst = s.inst := rfl
@[simp] theorem State.setEr_rind (n : Nat) (x : ErSrc) : (s.setEr n x).rind = s.rind := rfl
@[simp] theorem State.setEr_pup (n : Nat) (x : ErSrc) : (s.setEr n x).pup = s.pup := rfl
@[simp] theorem State.setEr_fuse (n : Nat) (x : ErSrc) : (s.setEr n x).fuse = s.fuse := rfl
@[simp] theorem State.setEr_dpx (n : Nat) (x : ErSrc) : (s.setEr n x).dpx = s.dpx := rfl
@[simp] theorem State.setEr_perf (n : Nat) (x : ErSrc) : (s.setEr n x).perf = s.perf := rfl
@[simp] theorem State.setEr_pwr (n : Nat) (x : ErSrc) : (s.setEr n x).pwr = s.pwr := rfl
@[simp] theorem State.setEr_freeCtr (n : Nat) (x : ErSrc) : (s.setEr n x).freeCtr = s.freeCtr := rfl
@[simp] theorem State.setEr_pending (n : Nat) (x : ErSrc) : (s.setEr n x).pending = s.pending := rfl
@[simp] theorem State.er_setEr_self (n : Nat) (x : ErSrc) : (s.setEr n x).er n = x := Tab.get_set_self _ _ _ _
theorem State.er_setEr_ne (n o : Nat) (x : ErSrc) (h : o ≠ n) : (s.setEr n x).er o = s.er o := Tab.get_set_ne _ _ _ _ _ h

/-! ### State.setMb -/

@[simp] theorem State.setMb_time (m : Nat) (x : Mailbox) : (s.setMb m x).time = s.time := rfl
@[simp] theorem State.setMb_cores (m : Nat) (x : Mailbox) : (s.setMb m x).cores = s.cores := rfl
@[simp] theorem State.setMb_pairs (m : Nat) (x : Mailbox) : (s.setMb m x).pairs = s.pairs := rfl
@[simp] theorem State.setMb_chips (m : Nat) (x : Mailbox) : (s.setMb m x).chips = s.chips := rfl
@[simp] theorem State.setMb_router (m : Nat) (x : Mailbox) : (s.setMb m x).router = s.router := rfl
@[simp] theorem State.setMb_mem (m : Nat) (x : Mailbox) : (s.setMb m x).mem = s.mem := rfl
@[simp] theorem State.setMb_bits (m : Nat) (x : Mailbox) : (s.setMb m x).bits = s.bits := rfl
@[simp] theorem State.setMb_arr (m : Nat) (x : Mailbox) : (s.setMb m x).arr = s.arr := rfl
@[simp] theorem State.setMb_chan (m : Nat) (x : Mailbox) : (s.setMb m x).chan = s.chan := rfl
@[simp] theorem State.setMb_eng (m : Nat) (x : Mailbox) : (s.setMb m x).eng = s.eng := rfl
@[simp] theorem State.setMb_inst (m : Nat) (x : Mailbox) : (s.setMb m x).inst = s.inst := rfl
@[simp] theorem State.setMb_rind (m : Nat) (x : Mailbox) : (s.setMb m x).rind = s.rind := rfl
@[simp] theorem State.setMb_fuse (m : Nat) (x : Mailbox) : (s.setMb m x).fuse = s.fuse := rfl
@[simp] theorem State.setMb_dpx (m : Nat) (x : Mailbox) : (s.setMb m x).dpx = s.dpx := rfl
@[simp] theorem State.setMb_perf (m : Nat) (x : Mailbox) : (s.setMb m x).perf = s.perf := rfl
@[simp] theorem State.setMb_pwr (m : Nat) (x : Mailbox) : (s.setMb m x).pwr = s.pwr := rfl
@[simp] theorem State.setMb_freeCtr (m : Nat) (x : Mailbox) : (s.setMb m x).freeCtr = s.freeCtr := rfl
@[simp] theorem State.setMb_pending (m : Nat) (x : Mailbox) : (s.setMb m x).pending = s.pending := rfl
@[simp] theorem State.mb_setMb_self (m : Nat) (x : Mailbox) : (s.setMb m x).mb m = x := Tab.get_set_self _ _ _ _
theorem State.mb_setMb_ne (m o : Nat) (x : Mailbox) (h : o ≠ m) : (s.setMb m x).mb o = s.mb o := Tab.get_set_ne _ _ _ _ _ h

/-! ### State.setBundle -/

@[simp] theorem State.setBundle_time (b : Nat) (x : Bundle) : (s.setBundle b x).time = s.time := rfl
@[simp] theorem State.setBundle_cores (b : Nat) (x : Bundle) : (s.setBundle b x).cores = s.cores := rfl
@[simp] theorem State.setBundle_pairs (b : Nat) (x : Bundle) : (s.setBundle b x).pairs = s.pairs := rfl
@[simp] theorem State.setBundle_chips (b : Nat) (x : Bundle) : (s.setBundle b x).chips = s.chips := rfl
@[simp] theorem State.setBundle_router (b : Nat) (x : Bundle) : (s.setBundle b x).router = s.router := rfl
@[simp] theorem State.setBundle_mem (b : Nat) (x : Bundle) : (s.setBundle b x).mem = s.mem := rfl
@[simp] theorem State.setBundle_bits (b : Nat) (x : Bundle) : (s.setBundle b x).bits = s.bits := rfl
@[simp] theorem State.setBundle_arr (b : Nat) (x : Bundle) : (s.setBundle b x).arr = s.arr := rfl
@[simp] theorem State.setBundle_chan (b : Nat) (x : Bundle) : (s.setBundle b x).chan = s.chan := rfl
@[simp] theorem State.setBundle_eng (b : Nat) (x : Bundle) : (s.setBundle b x).eng = s.eng := rfl
@[simp] theorem State.setBundle_inst (b : Nat) (x : Bundle) : (s.setBundle b x).inst = s.inst := rfl
@[simp] theorem State.setBundle_rind (b : Nat) (x : Bundle) : (s.setBundle b x).rind = s.rind := rfl
@[simp] theorem State.setBundle_pup (b : Nat) (x : Bundle) : (s.setBundle b x).pup = s.pup := rfl
@[simp] theorem State.setBundle_fuse (b : Nat) (x : Bundle) : (s.setBundle b x).fuse = s.fuse := rfl
@[simp] theorem State.setBundle_perf (b : Nat) (x : Bundle) : (s.setBundle b x).perf = s.perf := rfl
@[simp] theorem State.setBundle_pwr (b : Nat) (x : Bundle) : (s.setBundle b x).pwr = s.pwr := rfl
@[simp] theorem State.setBundle_freeCtr (b : Nat) (x : Bundle) : (s.setBundle b x).freeCtr = s.freeCtr := rfl
@[simp] theorem State.setBundle_pending (b : Nat) (x : Bundle) : (s.setBundle b x).pending = s.pending := rfl
@[simp] theorem State.bundle_setBundle_self (b : Nat) (x : Bundle) : (s.setBundle b x).bundle b = x := Tab.get_set_self _ _ _ _
theorem State.bundle_setBundle_ne (b o : Nat) (x : Bundle) (h : o ≠ b) : (s.setBundle b x).bundle o = s.bundle o := Tab.get_set_ne _ _ _ _ _ h

/-! ### State.setNmdev -/

@[simp] theorem State.setNmdev_time (d : Nat) (x : NmDev) : (s.setNmdev d x).time = s.time := rfl
@[simp] theorem State.setNmdev_cores (d : Nat) (x : NmDev) : (s.setNmdev d x).cores = s.cores := rfl
@[simp] theorem State.setNmdev_pairs (d : Nat) (x : NmDev) : (s.setNmdev d x).pairs = s.pairs := rfl
@[simp] theorem State.setNmdev_chips (d : Nat) (x : NmDev) : (s.setNmdev d x).chips = s.chips := rfl
@[simp] theorem State.setNmdev_router (d : Nat) (x : NmDev) : (s.setNmdev d x).router = s.router := rfl
@[simp] theorem State.setNmdev_bits (d : Nat) (x : NmDev) : (s.setNmdev d x).bits = s.bits := rfl
@[simp] theorem State.setNmdev_arr (d : Nat) (x : NmDev) : (s.setNmdev d x).arr = s.arr := rfl
@[simp] theorem State.setNmdev_chan (d : Nat) (x : NmDev) : (s.setNmdev d x).chan = s.chan := rfl
@[simp] theorem State.setNmdev_eng (d : Nat) (x : NmDev) : (s.setNmdev d x).eng = s.eng := rfl
@[simp] theorem State.setNmdev_inst (d : Nat) (x : NmDev) : (s.setNmdev d x).inst = s.inst := rfl
@[simp] theorem State.setNmdev_rind (d : Nat) (x : NmDev) : (s.setNmdev d x).rind = s.rind := rfl
@[simp] theorem State.setNmdev_pup (d : Nat) (x : NmDev) : (s.setNmdev d x).pup = s.pup := rfl
@[simp] theorem State.setNmdev_fuse (d : Nat) (x : NmDev) : (s.setNmdev d x).fuse = s.fuse := rfl
@[simp] theorem State.setNmdev_dpx (d : Nat) (x : NmDev) : (s.setNmdev d x).dpx = s.dpx := rfl
@[simp] theorem State.setNmdev_perf (d : Nat) (x : NmDev) : (s.setNmdev d x).perf = s.perf := rfl
@[simp] theorem State.setNmdev_pwr (d : Nat) (x : NmDev) : (s.setNmdev d x).pwr = s.pwr := rfl
@[simp] theorem State.setNmdev_freeCtr (d : Nat) (x : NmDev) : (s.setNmdev d x).freeCtr = s.freeCtr := rfl
@[simp] theorem State.setNmdev_pending (d : Nat) (x : NmDev) : (s.setNmdev d x).pending = s.pending := rfl
@[simp] theorem State.nmdev_setNmdev_self (d : Nat) (x : NmDev) : (s.setNmdev d x).nmdev d = x := Tab.get_set_self _ _ _ _
theorem State.nmdev_setNmdev_ne (d o : Nat) (x : NmDev) (h : o ≠ d) : (s.setNmdev d x).nmdev o = s.nmdev o := Tab.get_set_ne _ _ _ _ _ h

/-! ### State.setFarSlot -/

@[simp] theorem State.setFarSlot_time (f : Nat) (x : FarSlot) : (s.setFarSlot f x).time = s.time := rfl
@[simp] theorem State.setFarSlot_cores (f : Nat) (x : FarSlot) : (s.setFarSlot f x).cores = s.cores := rfl
@[simp] theorem State.setFarSlot_pairs (f : Nat) (x : FarSlot) : (s.setFarSlot f x).pairs = s.pairs := rfl
@[simp] theorem State.setFarSlot_chips (f : Nat) (x : FarSlot) : (s.setFarSlot f x).chips = s.chips := rfl
@[simp] theorem State.setFarSlot_router (f : Nat) (x : FarSlot) : (s.setFarSlot f x).router = s.router := rfl
@[simp] theorem State.setFarSlot_bits (f : Nat) (x : FarSlot) : (s.setFarSlot f x).bits = s.bits := rfl
@[simp] theorem State.setFarSlot_arr (f : Nat) (x : FarSlot) : (s.setFarSlot f x).arr = s.arr := rfl
@[simp] theorem State.setFarSlot_chan (f : Nat) (x : FarSlot) : (s.setFarSlot f x).chan = s.chan := rfl
@[simp] theorem State.setFarSlot_eng (f : Nat) (x : FarSlot) : (s.setFarSlot f x).eng = s.eng := rfl
@[simp] theorem State.setFarSlot_inst (f : Nat) (x : FarSlot) : (s.setFarSlot f x).inst = s.inst := rfl
@[simp] theorem State.setFarSlot_rind (f : Nat) (x : FarSlot) : (s.setFarSlot f x).rind = s.rind := rfl
@[simp] theorem State.setFarSlot_pup (f : Nat) (x : FarSlot) : (s.setFarSlot f x).pup = s.pup := rfl
@[simp] theorem State.setFarSlot_fuse (f : Nat) (x : FarSlot) : (s.setFarSlot f x).fuse = s.fuse := rfl
@[simp] theorem State.setFarSlot_dpx (f : Nat) (x : FarSlot) : (s.setFarSlot f x).dpx = s.dpx := rfl
@[simp] theorem State.setFarSlot_perf (f : Nat) (x : FarSlot) : (s.setFarSlot f x).perf = s.perf := rfl
@[simp] theorem State.setFarSlot_pwr (f : Nat) (x : FarSlot) : (s.setFarSlot f x).pwr = s.pwr := rfl
@[simp] theorem State.setFarSlot_freeCtr (f : Nat) (x : FarSlot) : (s.setFarSlot f x).freeCtr = s.freeCtr := rfl
@[simp] theorem State.setFarSlot_pending (f : Nat) (x : FarSlot) : (s.setFarSlot f x).pending = s.pending := rfl
@[simp] theorem State.farSlot_setFarSlot_self (f : Nat) (x : FarSlot) : (s.setFarSlot f x).farSlot f = x := Tab.get_set_self _ _ _ _
theorem State.farSlot_setFarSlot_ne (f o : Nat) (x : FarSlot) (h : o ≠ f) : (s.setFarSlot f x).farSlot o = s.farSlot o := Tab.get_set_ne _ _ _ _ _ h

/-! ### State.setCv -/

@[simp] theorem State.setCv_time (l v : Nat) (x : CoreVec) : (s.setCv l v x).time = s.time := rfl
@[simp] theorem State.setCv_cores (l v : Nat) (x : CoreVec) : (s.setCv l v x).cores = s.cores := rfl
@[simp] theorem State.setCv_pairs (l v : Nat) (x : CoreVec) : (s.setCv l v x).pairs = s.pairs := rfl
@[simp] theorem State.setCv_chips (l v : Nat) (x : CoreVec) : (s.setCv l v x).chips = s.chips := rfl
@[simp] theorem State.setCv_mem (l v : Nat) (x : CoreVec) : (s.setCv l v x).mem = s.mem := rfl
@[simp] theorem State.setCv_bits (l v : Nat) (x : CoreVec) : (s.setCv l v x).bits = s.bits := rfl
@[simp] theorem State.setCv_arr (l v : Nat) (x : CoreVec) : (s.setCv l v x).arr = s.arr := rfl
@[simp] theorem State.setCv_chan (l v : Nat) (x : CoreVec) : (s.setCv l v x).chan = s.chan := rfl
@[simp] theorem State.setCv_eng (l v : Nat) (x : CoreVec) : (s.setCv l v x).eng = s.eng := rfl
@[simp] theorem State.setCv_inst (l v : Nat) (x : CoreVec) : (s.setCv l v x).inst = s.inst := rfl
@[simp] theorem State.setCv_rind (l v : Nat) (x : CoreVec) : (s.setCv l v x).rind = s.rind := rfl
@[simp] theorem State.setCv_pup (l v : Nat) (x : CoreVec) : (s.setCv l v x).pup = s.pup := rfl
@[simp] theorem State.setCv_fuse (l v : Nat) (x : CoreVec) : (s.setCv l v x).fuse = s.fuse := rfl
@[simp] theorem State.setCv_dpx (l v : Nat) (x : CoreVec) : (s.setCv l v x).dpx = s.dpx := rfl
@[simp] theorem State.setCv_perf (l v : Nat) (x : CoreVec) : (s.setCv l v x).perf = s.perf := rfl
@[simp] theorem State.setCv_pwr (l v : Nat) (x : CoreVec) : (s.setCv l v x).pwr = s.pwr := rfl
@[simp] theorem State.setCv_freeCtr (l v : Nat) (x : CoreVec) : (s.setCv l v x).freeCtr = s.freeCtr := rfl
@[simp] theorem State.setCv_pending (l v : Nat) (x : CoreVec) : (s.setCv l v x).pending = s.pending := rfl
@[simp] theorem State.cv_setCv_self (l v : Nat) (x : CoreVec) : (s.setCv l v x).cv l v = x := Tab.get_set_self _ _ _ _

/-! ### State.draw -/

@[simp] theorem State.draw_time : s.draw.2.time = s.time := rfl
@[simp] theorem State.draw_cores : s.draw.2.cores = s.cores := rfl
@[simp] theorem State.draw_pairs : s.draw.2.pairs = s.pairs := rfl
@[simp] theorem State.draw_chips : s.draw.2.chips = s.chips := rfl
@[simp] theorem State.draw_router : s.draw.2.router = s.router := rfl
@[simp] theorem State.draw_mem : s.draw.2.mem = s.mem := rfl
@[simp] theorem State.draw_bits : s.draw.2.bits = s.bits := rfl
@[simp] theorem State.draw_arr : s.draw.2.arr = s.arr := rfl
@[simp] theorem State.draw_chan : s.draw.2.chan = s.chan := rfl
@[simp] theorem State.draw_eng : s.draw.2.eng = s.eng := rfl
@[simp] theorem State.draw_inst : s.draw.2.inst = s.inst := rfl
@[simp] theorem State.draw_rind : s.draw.2.rind = s.rind := rfl
@[simp] theorem State.draw_pup : s.draw.2.pup = s.pup := rfl
@[simp] theorem State.draw_fuse : s.draw.2.fuse = s.fuse := rfl
@[simp] theorem State.draw_dpx : s.draw.2.dpx = s.dpx := rfl
@[simp] theorem State.draw_perf : s.draw.2.perf = s.perf := rfl
@[simp] theorem State.draw_pwr : s.draw.2.pwr = s.pwr := rfl
@[simp] theorem State.draw_pending : s.draw.2.pending = s.pending := rfl
@[simp] theorem State.draw_freeCtr : s.draw.2.freeCtr = s.freeCtr + 1 := rfl

/-! ### State.withPending -/

@[simp] theorem State.withPending_time (q : List Instr) : (s.withPending q).time = s.time := rfl
@[simp] theorem State.withPending_cores (q : List Instr) : (s.withPending q).cores = s.cores := rfl
@[simp] theorem State.withPending_pairs (q : List Instr) : (s.withPending q).pairs = s.pairs := rfl
@[simp] theorem State.withPending_chips (q : List Instr) : (s.withPending q).chips = s.chips := rfl
@[simp] theorem State.withPending_router (q : List Instr) : (s.withPending q).router = s.router := rfl
@[simp] theorem State.withPending_mem (q : List Instr) : (s.withPending q).mem = s.mem := rfl
@[simp] theorem State.withPending_bits (q : List Instr) : (s.withPending q).bits = s.bits := rfl
@[simp] theorem State.withPending_arr (q : List Instr) : (s.withPending q).arr = s.arr := rfl
@[simp] theorem State.withPending_chan (q : List Instr) : (s.withPending q).chan = s.chan := rfl
@[simp] theorem State.withPending_eng (q : List Instr) : (s.withPending q).eng = s.eng := rfl
@[simp] theorem State.withPending_inst (q : List Instr) : (s.withPending q).inst = s.inst := rfl
@[simp] theorem State.withPending_rind (q : List Instr) : (s.withPending q).rind = s.rind := rfl
@[simp] theorem State.withPending_pup (q : List Instr) : (s.withPending q).pup = s.pup := rfl
@[simp] theorem State.withPending_fuse (q : List Instr) : (s.withPending q).fuse = s.fuse := rfl
@[simp] theorem State.withPending_dpx (q : List Instr) : (s.withPending q).dpx = s.dpx := rfl
@[simp] theorem State.withPending_perf (q : List Instr) : (s.withPending q).perf = s.perf := rfl
@[simp] theorem State.withPending_pwr (q : List Instr) : (s.withPending q).pwr = s.pwr := rfl
@[simp] theorem State.withPending_freeCtr (q : List Instr) : (s.withPending q).freeCtr = s.freeCtr := rfl
@[simp] theorem State.withPending_pending (q : List Instr) : (s.withPending q).pending = q := rfl

/-- A replacement of two resources of one kind: the later stands. -/
@[simp] theorem State.setCore_setCore (l : Nat) (c d : Core) : (s.setCore l c).setCore l d = s.setCore l d := by
  simp [State.setCore]
@[simp] theorem State.setPair_setPair (n : Nat) (p q : Pair) : (s.setPair n p).setPair n q = s.setPair n q := by
  simp [State.setPair]
@[simp] theorem State.setSq_setSq (q : Nat) (x y : Sequencer) : (s.setSq q x).setSq q y = s.setSq q y := by
  simp [State.setSq]

/-! ### What goes on only while the module lives, what it outputs, and reads that find nothing -/

theorem State.live_of_running (t : State) (h : s.moduleStopped = false) : s.live t = t := by simp [State.live, h]
theorem State.live_of_stopped (t : State) (h : s.moduleStopped = true) : s.live t = s := by simp [State.live, h]

/-- Bytes that leave by a port change what it has sent last, and nothing else. -/
theorem State.emit_frame (lp : Nat) (bs : List Byte) :
    s.emit lp bs = { s with chan := { s.chan with tx := (s.emit lp bs).chan.tx } } ∧ Tab.get [] (s.emit lp bs).chan.tx lp = bs := ⟨rfl, Tab.get_set_self _ _ _ _⟩

/-- A read of a line in which nothing is in error reports nothing. -/
theorem State.seeLine_of_quiet (num : Nat) (p : BitVec 3 → Nat → Payload) (h : s.quiet num = true) : s.seeLine num p = s := by simp [State.seeLine, h]
theorem State.coreFinds_of_quiet (l a atype : Nat) (unit : BitVec 8) (h : s.quiet (a / 128) = true) : s.coreFinds l a atype unit = s := by simp [State.coreFinds, h]
theorem State.coreSees_of_quiet (l a atype : Nat) (h : s.quiet (a / 128) = true) : s.coreSees l a atype = s := s.coreFinds_of_quiet l a atype 1 h
theorem State.walkSees_of_quiet (l a : Nat) (h : s.quiet (a / 128) = true) : s.walkSees l a = s := s.coreFinds_of_quiet l a 0x05 2 h
theorem State.flushFound_of_none (h : s.mem.found = []) : s.flushFound = s := by simp [State.flushFound, h]

end Sys2Proof.Machine
end

