-- ==== Sys2Proof/Laws/Beats.lean ====
section
/-! SUPPORT. Laws of beats (02 R90 to R97): what the passing of beats can change, and the value that a register then holds. -/

namespace Sys2Proof.Machine

@[simp] theorem Arch.bk_setBk (a : Arch) (b : Bank) : (a.setBk b).bk = b := by simp [Arch.setBk, Arch.setBkOf, Arch.bk]
@[simp] theorem Arch.setBk_setBk (a : Arch) (b d : Bank) : (a.setBk b).setBk d = a.setBk d := by simp [Arch.setBk, Arch.setBkOf]

/-- What beats do not change: a part of the core that no landing changes and that does not name the results in flight, the poison
or the beats owed. -/
theorem Core.beats_keeps {α : Type} (P : Core → α) (hl : ∀ c f, P (Core.land c f) = P c)
    (hi : ∀ (c : Core) fs, P { c with arch := { c.arch with infl := fs } } = P c) (ho : ∀ (c : Core) n, P { c with owed := n } = P c) :
    ∀ (n : Nat) (c : Core), P (Core.beats n c) = P c := by
  have hf : ∀ (fs : List Flight) (c : Core), P (fs.foldl Core.land c) = P c := by
    intro fs
    induction fs with
    | nil => intro c; rfl
    | cons f fs ih => intro c; rw [List.foldl_cons, ih, hl]
  have hd : ∀ c : Core, P c.landDue = P c := by
    intro c
    unfold Core.landDue
    split
    · rfl
    · rw [hf, hi]
  intro n
  induction n with
  | zero => intro c; rfl
  | succ n ih =>
    intro c
    unfold Core.beats
    split
    · exact ho c _
    · rw [ih]
      unfold Core.beat
      rw [hd, hi]

/-- What a landing does not change. -/
theorem Core.land_keeps {α : Type} (P : Core → α) (ha : ∀ (c : Core) f, P { c with arch := c.arch.land f } = P c)
    (hp : ∀ (c : Core) pa, P { c with poisoned := some pa } = P c) (c : Core) (f : Flight) : P (c.land f) = P c := by
  unfold Core.land
  split
  · exact hp c _
  · exact ha c f

variable (c : Core) (n : Nat)

/-- The parts of a core outside its architectural state, but for the beats owed and a poison landed. -/
theorem Core.beats_outside {α : Type} (P : Core → α) (h : ∀ (c : Core) (a : Arch) (p : Option Nat) (o : Nat), P { c with arch := a, poisoned := p, owed := o } = P c) :
    P (Core.beats n c) = P c :=
  Core.beats_keeps P (Core.land_keeps P (fun c f => h c (c.arch.land f) c.poisoned c.owed) (fun c pa => h c c.arch (some pa) c.owed))
    (fun c fs => h c { c.arch with infl := fs } c.poisoned c.owed) (fun c o => h c c.arch c.poisoned o) n c

@[simp] theorem Core.beats_run : (Core.beats n c).run = c.run := Core.beats_outside c n (·.run) (fun _ _ _ _ => rfl)
@[simp] theorem Core.beats_misses : (Core.beats n c).misses = c.misses := Core.beats_outside c n (·.misses) (fun _ _ _ _ => rfl)
@[simp] theorem Core.beats_group : (Core.beats n c).group = c.group := Core.beats_outside c n (·.group) (fun _ _ _ _ => rfl)
@[simp] theorem Core.beats_entryWait : (Core.beats n c).entryWait = c.entryWait := Core.beats_outside c n (·.entryWait) (fun _ _ _ _ => rfl)
@[simp] theorem Core.beats_freezes : (Core.beats n c).freezes = c.freezes := Core.beats_outside c n (·.freezes) (fun _ _ _ _ => rfl)
@[simp] theorem Core.beats_sb : (Core.beats n c).sb = c.sb := Core.beats_outside c n (·.sb) (fun _ _ _ _ => rfl)
@[simp] theorem Core.beats_barrier : (Core.beats n c).barrier = c.barrier := Core.beats_outside c n (·.barrier) (fun _ _ _ _ => rfl)
@[simp] theorem Core.beats_waiting : (Core.beats n c).waiting = c.waiting := Core.beats_outside c n (·.waiting) (fun _ _ _ _ => rfl)
@[simp] theorem Core.beats_bitram : (Core.beats n c).bitram = c.bitram := Core.beats_outside c n (·.bitram) (fun _ _ _ _ => rfl)
@[simp] theorem Core.beats_sealed : (Core.beats n c).sealed = c.sealed := Core.beats_outside c n (·.sealed) (fun _ _ _ _ => rfl)
@[simp] theorem Core.beats_lctx : (Core.beats n c).lctx = c.lctx := Core.beats_outside c n (·.lctx) (fun _ _ _ _ => rfl)
@[simp] theorem Core.beats_lctxCur : (Core.beats n c).lctxCur = c.lctxCur := Core.beats_outside c n (·.lctxCur) (fun _ _ _ _ => rfl)
@[simp] theorem Core.beats_tlb : (Core.beats n c).tlb = c.tlb := Core.beats_outside c n (·.tlb) (fun _ _ _ _ => rfl)
@[simp] theorem Core.beats_once : (Core.beats n c).once = c.once := Core.beats_outside c n (·.once) (fun _ _ _ _ => rfl)

/-- A part of the architectural state that no landing changes: all but the bank in use, F, FSTAT and the results in flight. -/
theorem Core.beats_arch {α : Type} (P : Arch → α)
    (h : ∀ (a : Arch) (k : Bank) (f : Tab Word) (w : Word) (fs : List Flight), P { a.setBk k with f := f, fstat := w, infl := fs } = P a)
    (h0 : ∀ (a : Arch) (f : Tab Word) (w : Word) (fs : List Flight), P { a with f := f, fstat := w, infl := fs } = P a) :
    P (Core.beats n c).arch = P c.arch := by
  refine Core.beats_keeps (fun c => P c.arch) ?_ (fun c fs => h0 c.arch c.arch.f c.arch.fstat fs) (fun _ _ => rfl) n c
  refine Core.land_keeps (fun c => P c.arch) ?_ (fun _ _ => rfl)
  intro c f
  show P (c.arch.land f) = P c.arch
  unfold Arch.land
  split
  · exact h c.arch _ _ _ _
  · exact h c.arch _ _ _ _
  · exact h0 c.arch _ _ _
  · exact h c.arch _ _ _ _
  all_goals exact h0 c.arch _ _ _

@[simp] theorem Core.beats_pc : (Core.beats n c).arch.pc = c.arch.pc := Core.beats_arch c n (·.pc) (fun _ _ _ _ _ => rfl) (fun _ _ _ _ => rfl)
@[simp] theorem Core.beats_bank : (Core.beats n c).arch.bank = c.arch.bank := Core.beats_arch c n (·.bank) (fun _ _ _ _ _ => rfl) (fun _ _ _ _ => rfl)
@[simp] theorem Core.beats_fpu : (Core.beats n c).arch.fpu = c.arch.fpu := Core.beats_arch c n (·.fpu) (fun _ _ _ _ _ => rfl) (fun _ _ _ _ => rfl)
@[simp] theorem Core.beats_rest : (Core.beats n c).arch.rest = c.arch.rest := Core.beats_arch c n (·.rest) (fun _ _ _ _ _ => rfl) (fun _ _ _ _ => rfl)
@[simp] theorem Core.beats_pos : (Core.beats n c).arch.pos = c.arch.pos := Core.beats_arch c n (·.pos) (fun _ _ _ _ _ => rfl) (fun _ _ _ _ => rfl)
@[simp] theorem Core.beats_tas : (Core.beats n c).arch.tas = c.arch.tas := Core.beats_arch c n (·.tas) (fun _ _ _ _ _ => rfl) (fun _ _ _ _ => rfl)
@[simp] theorem Core.beats_repLeft : (Core.beats n c).arch.repLeft = c.arch.repLeft := Core.beats_arch c n (·.repLeft) (fun _ _ _ _ _ => rfl) (fun _ _ _ _ => rfl)
@[simp] theorem Core.beats_vpend : (Core.beats n c).arch.vpend = c.arch.vpend := Core.beats_arch c n (·.vpend) (fun _ _ _ _ _ => rfl) (fun _ _ _ _ => rfl)
@[simp] theorem Core.beats_vmask : (Core.beats n c).arch.vmask = c.arch.vmask := Core.beats_arch c n (·.vmask) (fun _ _ _ _ _ => rfl) (fun _ _ _ _ => rfl)
@[simp] theorem Core.beats_ssp : (Core.beats n c).arch.ssp = c.arch.ssp := Core.beats_arch c n (·.ssp) (fun _ _ _ _ _ => rfl) (fun _ _ _ _ => rfl)
@[simp] theorem Core.beats_hsp : (Core.beats n c).arch.hsp = c.arch.hsp := Core.beats_arch c n (·.hsp) (fun _ _ _ _ _ => rfl) (fun _ _ _ _ => rfl)
@[simp] theorem Core.beats_cvbar : (Core.beats n c).arch.cvbar = c.arch.cvbar := Core.beats_arch c n (·.cvbar) (fun _ _ _ _ _ => rfl) (fun _ _ _ _ => rfl)
@[simp] theorem Core.beats_hvbar : (Core.beats n c).arch.hvbar = c.arch.hvbar := Core.beats_arch c n (·.hvbar) (fun _ _ _ _ _ => rfl) (fun _ _ _ _ => rfl)

/-- A part of the bank in use that no landing changes: all but G, B and LK. -/
theorem Core.beats_bk {α : Type} (P : Bank → α) (h : ∀ (b : Bank) (g : Tab Word) (bb : Tab Bool) (lk : Word), P { b with g := g, b := bb, lk := lk } = P b) :
    P (Core.beats n c).arch.bk = P c.arch.bk := by
  refine Core.beats_keeps (fun c => P c.arch.bk) ?_ (fun _ _ => rfl) (fun _ _ => rfl) n c
  refine Core.land_keeps (fun c => P c.arch.bk) ?_ (fun _ _ => rfl)
  intro c f
  show P (c.arch.land f).bk = P c.arch.bk
  unfold Arch.land
  split
  · show P (c.arch.setBk (c.arch.bk.setG _ f.val)).bk = _
    rw [Arch.bk_setBk]; unfold Bank.setG; split
    · rfl
    · exact h c.arch.bk _ c.arch.bk.b c.arch.bk.lk
  · show P (c.arch.setBk (c.arch.bk.setB _ _)).bk = _
    rw [Arch.bk_setBk]; unfold Bank.setB; split
    · rfl
    · exact h c.arch.bk c.arch.bk.g _ c.arch.bk.lk
  · rfl
  · show P (c.arch.setBk { c.arch.bk with lk := f.val }).bk = _
    rw [Arch.bk_setBk]; exact h c.arch.bk c.arch.bk.g c.arch.bk.b _
  all_goals rfl

@[simp] theorem Core.beats_priv : (Core.beats n c).arch.bk.priv = c.arch.bk.priv := Core.beats_bk c n (·.priv) (fun _ _ _ _ => rfl)
@[simp] theorem Core.beats_ccause : (Core.beats n c).arch.bk.ccause = c.arch.bk.ccause := Core.beats_bk c n (·.ccause) (fun _ _ _ _ => rfl)
@[simp] theorem Core.beats_cepc : (Core.beats n c).arch.bk.cepc = c.arch.bk.cepc := Core.beats_bk c n (·.cepc) (fun _ _ _ _ => rfl)
@[simp] theorem Core.beats_dly : (Core.beats n c).arch.bk.dly = c.arch.bk.dly := Core.beats_bk c n (·.dly) (fun _ _ _ _ => rfl)

end Sys2Proof.Machine
end

