-- ==== Sys2Proof/Laws/Blocks.lean ====
section
/-! SUPPORT. The blocks of a capture image have the lengths that 08 R436 gives them. -/

namespace Sys2Proof.Machine

theorem length_flatMap_leBytes (n m : Nat) (f : Nat → Nat) : ((List.range n).flatMap (fun k => leBytes m (f k))).length = n * m := by
  induction n with
  | zero => simp
  | succ n ih => rw [List.range_succ, List.flatMap_append, List.length_append, ih]; simp; rw [Nat.succ_mul]

/-- A sequencer's block fills its place. -/
theorem Sequencer.block_length (x : Sequencer) (st : SqSt) : (x.block st).length = seqBlockLen := by
  simp only [Sequencer.block, List.length_append, length_flatMap_leBytes, leBytes_length, seqBlockLen]

/-- A Vat's block fills its place. -/
theorem State.vatBlock_length (s : State) (v w : Nat) : (s.vatBlock v w).length = vatBlockLen := by
  simp only [State.vatBlock, peRows, List.length_append, length_flatMap_leBytes, leBytes_length, List.length_replicate, vatBlockLen]

end Sys2Proof.Machine
end

