-- ==== Sys2Proof/Laws/Translate.lean ====
section
/-! SUPPORT. Laws of translation and of the check of an access: neither reads the cores, and of the core at hand each reads only its TLB and
its translation context. -/

namespace Sys2Proof.Machine

/-! ## No core is read -/

@[simp] theorem State.backed_setCore (s : State) (l : Nat) (c : Core) (a : Nat) : (s.setCore l c).backed a = s.backed a := rfl
@[simp] theorem State.cohLine_setCore (s : State) (l : Nat) (c : Core) (n : Nat) : (s.setCore l c).cohLine n = s.cohLine n := rfl

theorem State.cohReadN_setCore (s : State) (l : Nat) (c : Core) : ∀ n a len, State.cohReadN n (s.setCore l c) a len = State.cohReadN n s a len := by
  intro n
  induction n with
  | zero => intro a len; rfl
  | succ n ih => intro a len; simp only [State.cohReadN, ih, State.backed_setCore, State.cohLine_setCore]
@[simp] theorem State.readEntry_setCore (s : State) (l : Nat) (c : Core) (a : Nat) : (s.setCore l c).readEntry a = s.readEntry a := by
  simp only [State.readEntry, State.cohRead, State.cohReadN_setCore]

theorem State.walkPhys_setCore (s : State) (l : Nat) (c : Core) (hyp : Bool) (held : Nat → Option Nat) :
    ∀ n tab a, State.walkPhys (s.setCore l c) hyp held n tab a = State.walkPhys s hyp held n tab a := by
  intro n
  induction n with
  | zero => intro tab a; simp only [State.walkPhys, State.readEntry_setCore]
  | succ n ih => intro tab a; simp only [State.walkPhys, State.readEntry_setCore, ih]

/-- Two cores with one TLB and one translation context. -/
def Core.sameMap (c d : Core) : Prop := c.tlb = d.tlb ∧ c.lctxCur = d.lctxCur

theorem State.hypOf_setCore (s : State) (l : Nat) (c d e : Core) (h : d.sameMap e) (ipa : Nat) : (s.setCore l c).hypOf d ipa = s.hypOf e ipa := by
  simp only [State.hypOf, State.hypStage, State.walkPhys_setCore, h.1, h.2]
theorem State.walkGuest_setCore (s : State) (l : Nat) (c d e : Core) (h : d.sameMap e) (vaw : Nat) :
    ∀ n tab va, State.walkGuest (s.setCore l c) d vaw n tab va = State.walkGuest s e vaw n tab va := by
  intro n
  induction n with
  | zero => intro tab va; simp only [State.walkGuest, State.readEntry_setCore, State.hypOf_setCore s l c d e h]
  | succ n ih => intro tab va; simp only [State.walkGuest, State.readEntry_setCore, State.hypOf_setCore s l c d e h, ih, h.1, h.2]
theorem State.guestOf_setCore (s : State) (l : Nat) (c d e : Core) (h : d.sameMap e) (va : Nat) : (s.setCore l c).guestOf d va = s.guestOf e va := by
  simp only [State.guestOf, State.walkGuest_setCore s l c d e h, h.1, h.2]

/-- A translation reads no core but the TLB and the context of the one at hand. -/
theorem State.translate_setCore (s : State) (l : Nat) (c d e : Core) (h : d.sameMap e) (priv : BitVec 2) (need : Need) (va : Nat) :
    (s.setCore l c).translate d priv need va = s.translate e priv need va := by
  simp only [State.translate, State.walkPhys_setCore, State.guestOf_setCore s l c d e h, State.hypOf_setCore s l c d e h, h.1, h.2]

/-- Nor does the check of an access. -/
theorem State.access_setCore (s : State) (k l : Nat) (c d e : Core) (h : d.sameMap e) (priv : BitVec 2) (q : Req) :
    (s.setCore k c).access l d priv q = s.access l e priv q := by
  have hp : (s.setCore k c).pair (pairOf l) = s.pair (pairOf l) := rfl
  simp only [State.access, State.translate_setCore s k c d e h, hp]

end Sys2Proof.Machine
end

