-- ==== Sys2Proof/Laws/Group.lean ====
section
/-! SUPPORT. Laws of issue groups: what a word that joins a group does, what a group of register results does, and what an
instruction alone in its group does (02 R82 to R95). -/

namespace Sys2Proof.Machine

/-- A word without the stop bit joins a group of fewer than three words, and nothing else changes (R82). -/
theorem State.coreOp_joins (s : State) (x : At) (f : Core → Slot) (hr : s.ready x.lc = true) (hs : x.stop = false)
    (hl : (s.core x.lc).group.length < 3) (ha : (s.core x.lc).arch.badPc = false) :
    s.coreOp x f = s.setCore x.lc { s.core x.lc with group := (s.core x.lc).group ++ [f (s.core x.lc)] } := by
  have h4 : ¬ (4 ≤ ((s.core x.lc).group ++ [f (s.core x.lc)]).length) := by simp; omega
  simp only [State.coreOp, hr, Bool.not_true, Bool.false_eq_true, if_false, hs, Bool.false_or, decide_eq_true_eq, if_neg h4, ha]

/-- A core that cannot take an instruction leaves everything as it is (R95, R97). -/
theorem State.coreOp_notReady (s : State) (x : At) (f : Core → Slot) (hr : s.ready x.lc = false) : s.coreOp x f = s := by
  simp [State.coreOp, hr]

/-- An access that finds nothing leaves the state as it is (13 R634). -/
theorem State.coreSees_quiet (s : State) (l a atype : Nat) (h : s.quiet (a / 128) = true) : s.coreSees l a atype = s := by
  simp [State.coreSees, State.coreFinds, h]

/-- Words whose fetch makes no record change nothing as they are fetched (07 R333, 13 R634). -/
theorem State.fetchUe_backed (s : State) (l : Nat) (ws : List Nat) (h : s.fetchQuiet (s.core l) ws = true) : s.fetchUe l ws = (s, false) := by
  simp only [State.fetchQuiet, Bool.and_eq_true, Option.isNone_iff_eq_none] at h
  have hs : s.fetchSees l ws = s := by
    have hq := h.2
    unfold State.fetchSees
    clear h
    induction ws with
    | nil => rfl
    | cons a as ih =>
      simp only [List.all_cons, Bool.and_eq_true] at hq
      rw [List.foldl_cons]
      have h1 := hq.1
      cases he : s.translate (s.core l) (s.core l).priv .x (a % 2 ^ 64) with
      | ok pa mt =>
        simp only [he] at h1 ⊢
        rw [s.coreSees_quiet l pa 0x03 h1]; exact ih hq.2
      | fault x y z => exact ih hq.2
      | poison pa => exact ih hq.2
  simp [State.fetchUe, h.1, hs]
theorem State.fetched_backed (s : State) (l : Nat) (b : Bool) (ws : List Nat) (h : s.fetchQuiet (s.core l) ws = true) :
    (if b = true then s.fetchUe l ws else (s, false)) = (s, false) := by
  cases b <;> simp [State.fetchUe_backed, h]
/-- The check before a group that is no repeat. -/
theorem State.wordsCheck_group (s : State) (l : Nat) (g : List Slot) (b : Bool) (hw : (s.core l).arch.rest = []) (hn : repOf g = none) :
    s.wordsCheck l g b = s.groupCheck l (s.core l) g b := by
  unfold State.wordsCheck
  simp only [hw, List.isEmpty_nil, Bool.not_true, Bool.false_eq_true, if_false, hn]
  cases (s.core l).arch.repLeft <;> rfl

/-- The group at hand traps: the trap is taken at the pc, with nothing of the group done (R87, R89). -/
theorem State.coreOp_traps (s : State) (x : At) (f : Core → Slot) (t : Trap) (hr : s.ready x.lc = true) (hs : x.stop = true)
    (ha : (s.core x.lc).arch.badPc = false) (hw : (s.core x.lc).arch.rest = []) (hn : repOf ((s.core x.lc).group ++ [f (s.core x.lc)]) = none)
    (hb : s.fetchQuiet (s.core x.lc) (fetchWords (s.core x.lc).arch.pc.toNat ((s.core x.lc).group ++ [f (s.core x.lc)])) = true)
    (ht : s.groupCheck x.lc (s.core x.lc) ((s.core x.lc).group ++ [f (s.core x.lc)]) true = .trap t) :
    s.coreOp x f = (s.setCore x.lc ((s.core x.lc).repTrap ((s.core x.lc).group ++ [f (s.core x.lc)]) t)).take x.lc t (s.core x.lc).arch.pc := by
  simp only [State.coreOp, hr, hs, ha, State.closeGroup, s.fetched_backed _ _ _ hb, s.wordsCheck_group _ _ _ hw hn, ht, Bool.not_true, Bool.false_eq_true, if_false, Bool.true_or,
    if_true]

@[simp] theorem Core.fly_nil (c : Core) : c.fly [] = c := by simp [Core.fly]
@[simp] theorem Core.fly_fly (c : Core) (fs gs : List Flight) : (c.fly fs).fly gs = c.fly (fs ++ gs) := by simp [Core.fly, List.append_assoc]

/-- Advancing past a group leaves the results in flight, and does not depend on them. -/
@[simp] theorem Arch.advance_infl (a : Arch) (k : Nat) (br : Option (Bool × Word)) : (a.advance k br).infl = a.infl := by
  cases br <;> rfl
theorem Arch.advance_with_infl (a : Arch) (k : Nat) (br : Option (Bool × Word)) (fs : List Flight) :
    { a with infl := fs }.advance k br = { a.advance k br with infl := fs } := by
  cases br <;> rfl

/-- Slots with register results only, with their numbers. -/
def landOps (ops : List (Nat × SlotOp)) : List Flight := ops.flatMap (fun p => match p.2 with | .land fs => fs | _ => [])

/-- Issuing register results puts them in flight in slot order, and does nothing else (R90, R92). -/
theorem State.issueAll_regs (l : Nat) (sb : List SbEntry) (ops : List (Nat × SlotOp)) (hall : ∀ p ∈ ops, ∃ fs, p.2 = .land fs) (s : State) (c : Core)
    (hc : s.core l = c) (hne : ops ≠ []) : s.issueAll l sb ops = s.setCore l (c.fly (landOps ops)) := by
  have hr : ∀ (a : Arch) (ops : List (Nat × SlotOp)) (t : State) (b : Bool), (∀ p ∈ ops, ∃ fs, p.2 = .land fs) → ops ≠ [] →
      (ops.foldl (fun (t : State × Bool) p => (t.1.issueRead l sb t.2 p.1 p.2, t.2 || isAtomicOp a p.2)) (t, b)).1 = t.setCore l ((t.core l).fly (landOps ops)) := by
    intro a ops
    induction ops with
    | nil => intro t b _ h; exact absurd rfl h
    | cons p ps ih =>
      intro t b h _
      obtain ⟨fs, hf⟩ := h p (by simp)
      have hp : landOps (p :: ps) = fs ++ landOps ps := by simp [landOps, hf]
      by_cases hps : ps = []
      · subst hps
        simp [State.issueRead, hf, landOps]
      · rw [List.foldl_cons, ih _ _ (fun q hq => h q (List.mem_cons_of_mem _ hq)) hps, hp]
        simp [State.issueRead, hf]
  have hw : ∀ (n : Nat) (ops : List (Nat × SlotOp)) (t : State), (∀ p ∈ ops, ∃ fs, p.2 = .land fs) → ops.foldl (fun t p => State.issueWrite t l n p.1 p.2) t = t := by
    intro n ops
    induction ops with
    | nil => intro t _; rfl
    | cons p ps ih =>
      intro t h
      obtain ⟨fs, hf⟩ := h p (by simp)
      rw [List.foldl_cons, show State.issueWrite t l n p.1 p.2 = t by simp [State.issueWrite, hf]]
      exact ih t (fun q hq => h q (List.mem_cons_of_mem _ hq))
  unfold State.issueAll
  simp only
  rw [hw _ _ _ hall, hr _ _ _ _ hall hne, hc]

theorem Slot.regOnly_iff (z : Slot) : z.regOnly = true ↔ (∃ fs, z.op = .land fs) ∧ z.mem = false := by
  unfold Slot.regOnly
  split <;> simp_all

/-- A core that can take an instruction may lead by a beat (06 R298). -/
theorem State.ready_lead (s : State) (l : Nat) (h : s.ready l = true) : s.rxRoom l 1 = true := by
  simp only [State.ready, Bool.and_eq_true] at h
  exact h.2

/-- No capture comes before a group that makes no DEV and no once-only access. -/
theorem State.bracket_none (s : State) (l : Nat) (g : List Slot) (h : g.any (fun y => s.bracketed l y.op) = false) : s.bracket l g = s := by
  simp [State.bracket, h]

/-- A capture changes the core alone, and of it neither the architectural state nor what the store buffer holds. -/
theorem State.capture_eq (s : State) (l : Nat) : s.capture l = s ∨ s.capture l = s.setCore l ((s.capture l).core l) := by
  unfold State.capture
  dsimp only
  split
  · exact .inl rfl
  · exact .inr (by simp)
theorem State.capture_keeps {α : Type} (P : Core → α) (s : State) (l : Nat)
    (h : ∀ (c : Core) (k : Option Ckpt) (sb : List SbEntry) (o : List OnceEnt) (n : Nat), P { c with capturing := k, sb := sb, once := o, capDue := false, groups := 0, exec := n } = P c) :
    P ((s.capture l).core l) = P (s.core l) := by
  unfold State.capture
  dsimp only
  split
  · rfl
  · rw [State.core_setCore_self]; exact h _ _ _ _ _
theorem State.capture_load (s : State) (l : Nat) : ((s.capture l).core l).sbLoad = (s.core l).sbLoad := by
  unfold State.capture
  dsimp only
  split
  · rfl
  · simp only [State.core_setCore_self, Core.sbLoad, List.map_map]
    congr 1
    apply List.map_congr_left
    intro e _
    simp only [Function.comp]
    split <;> rfl

/-- What a core is before a slot issues: as it was, but for a capture. -/
theorem State.bracket_keeps {α : Type} (P : Core → α) (s : State) (l : Nat) (g : List Slot)
    (h : ∀ (c : Core) (k : Option Ckpt) (sb : List SbEntry) (o : List OnceEnt) (n : Nat), P { c with capturing := k, sb := sb, once := o, capDue := false, groups := 0, exec := n } = P c) :
    P ((s.bracket l g).core l) = P (s.core l) := by
  unfold State.bracket
  split
  · exact s.capture_keeps P l h
  · rfl
theorem State.bracket_load (s : State) (l : Nat) (g : List Slot) : ((s.bracket l g).core l).sbLoad = (s.core l).sbLoad := by
  unfold State.bracket
  split
  · exact s.capture_load l
  · rfl

/-- The capture before a group replaces the core alone. -/
theorem State.bracket_setCore (s : State) (l : Nat) (g : List Slot) (d : Core) : (s.bracket l g).setCore l d = s.setCore l d := by
  unfold State.bracket
  split
  · rcases s.capture_eq l with h | h
    · rw [h]
    · rw [h]; simp
  · rfl
theorem State.piecesOf_bracket (s : State) (l : Nat) (g : List Slot) (q : Req) : (s.bracket l g).piecesOf l q = s.piecesOf l q := by
  have hm : ((s.capture l).core l).sameMap (s.core l) :=
    ⟨s.capture_keeps (·.tlb) l (fun _ _ _ _ _ => rfl), s.capture_keeps (·.lctxCur) l (fun _ _ _ _ _ => rfl)⟩
  have hp : ((s.capture l).core l).priv = (s.core l).priv := s.capture_keeps (·.priv) l (fun _ _ _ _ _ => rfl)
  unfold State.bracket
  split
  · unfold State.piecesOf
    rw [hp]
    rcases s.capture_eq l with h | h
    · rw [h]
    · have e := State.access_setCore s l l ((s.capture l).core l) ((s.capture l).core l) (s.core l) hm (s.core l).priv q
      rw [← h] at e
      rw [e]
  · rfl
theorem State.bracket_rest {α : Type} (P : State → α) (s : State) (l : Nat) (g : List Slot) (h : ∀ (t : State) c, P (t.setCore l c) = P t) : P (s.bracket l g) = P s := by
  unfold State.bracket
  split
  · rcases s.capture_eq l with e | e
    · rw [e]
    · rw [e, h]
  · rfl

/-- A capture changes nothing but the core. -/
theorem State.capture_frame (s : State) (l : Nat) : s.capture l = { s with cores := (s.capture l).cores } ∧ ∀ k, k ≠ l → (s.capture l).core k = s.core k := by
  rcases s.capture_eq l with h | h
  · rw [h]; exact ⟨rfl, fun _ _ => rfl⟩
  · rw [h]; exact ⟨rfl, fun k hk => State.core_setCore_ne _ _ _ _ hk⟩
/-- A boundary makes the capture that is due, or nothing. -/
theorem State.settle_or (s : State) (l : Nat) : s.settle l = s ∨ s.settle l = s.capture l := by
  unfold State.settle
  dsimp only
  split
  · exact .inr rfl
  · exact .inl rfl
/-- The state in which E has run n more beats and one more group. -/
def State.rxCounted (s : State) (l n : Nat) : State := (s.rxBeats l n).modCore l (fun c => { c with groups := c.groups + 1 })
theorem State.rxGroup_or (s : State) (l n : Nat) :
    s.isRx7 l = false ∧ s.rxGroup l n = s ∨ s.isRx7 l = true ∧ (s.rxGroup l n = s.rxCounted l n ∨ s.rxGroup l n = (s.rxCounted l n).capture l) := by
  unfold State.rxGroup
  cases h : s.isRx7 l
  · left; simp
  · right
    refine ⟨rfl, ?_⟩
    simp only [if_true, State.rxDue]
    split
    · exact .inr rfl
    · exact .inl rfl
@[simp] theorem State.core_setPair (s : State) (n l : Nat) (x : Pair) : (s.setPair n x).core l = s.core l := rfl
@[simp] theorem State.pair_setCore (s : State) (n l : Nat) (x : Core) : (s.setCore l x).pair n = s.pair n := rfl
theorem State.rxCounted_core (s : State) (l n : Nat) (h : s.isRx7 l = true) :
    ∃ r, (s.rxCounted l n).core l = { s.core l with arch := { (s.core l).arch with pos := (s.core l).arch.pos + n }, rlog := r, groups := (s.core l).groups + 1 } :=
  ⟨_, by simp only [State.rxCounted, State.rxBeats, h, State.modCore, State.core_setPair, State.core_setCore_self, if_true]; rfl⟩
/-- What the end of a group leaves of a core after its beats: a part that no capture, position or count of groups is. -/
theorem State.groupEnd_keeps {α : Type} (P : Core → α) (s : State) (l n : Nat) (d : Core)
    (h : ∀ (c : Core) (k : Option Ckpt) (sb : List SbEntry) (o : List OnceEnt) (n : Nat), P { c with capturing := k, sb := sb, once := o, capDue := false, groups := 0, exec := n } = P c)
    (hp : ∀ (c : Core) (p g : Nat) (r : List (Nat × Option Word)), P { c with arch := { c.arch with pos := p }, rlog := r, groups := g } = P c) :
    P ((s.groupEnd l n d).core l) = P (Core.beats n d) := by
  have e : P (((s.setCore l (Core.beats n d)).rxGroup l n).core l) = P (Core.beats n d) := by
    rcases State.rxGroup_or (s.setCore l (Core.beats n d)) l n with ⟨h7, e⟩ | ⟨h7, e | e⟩
    · rw [e, State.core_setCore_self]
    · obtain ⟨r, hr⟩ := State.rxCounted_core (s.setCore l (Core.beats n d)) l n h7
      rw [e, hr, hp, State.core_setCore_self]
    · obtain ⟨r, hr⟩ := State.rxCounted_core (s.setCore l (Core.beats n d)) l n h7
      rw [e, State.capture_keeps P _ _ h, hr, hp, State.core_setCore_self]
  unfold State.groupEnd
  rcases State.settle_or ((s.setCore l (Core.beats n d)).rxGroup l n) l with h1 | h1
  · rw [h1, e]
  · rw [h1, State.capture_keeps P _ _ h, e]

/-- The end of a group changes its core, its pair's lead and nothing else. -/
theorem State.groupEnd_frame (s : State) (l n : Nat) (d : Core) :
    s.groupEnd l n d = { s with cores := (s.groupEnd l n d).cores, pairs := (s.groupEnd l n d).pairs } ∧ (∀ k, k ≠ l → (s.groupEnd l n d).core k = s.core k)
    ∧ ∀ m, (s.groupEnd l n d).pair m = if m = pairOf l ∧ s.isRx7 l = true then { s.pair m with lead := Nat.min 4096 ((s.pair m).lead + n) } else s.pair m := by
  generalize hu : s.setCore l (Core.beats n d) = u
  have hup : ∀ m, u.pair m = s.pair m := fun m => by rw [← hu]; rfl
  have hu7 : u.isRx7 l = s.isRx7 l := by simp [State.isRx7, hup]
  have huc : ∀ k, k ≠ l → u.core k = s.core k := fun k hk => by rw [← hu]; exact State.core_setCore_ne _ _ _ _ hk
  have hus : u = { s with cores := u.cores } := by rw [← hu]; rfl
  have hcap : ∀ v : State, (v.capture l = { v with cores := (v.capture l).cores } ∧ (∀ k, k ≠ l → (v.capture l).core k = v.core k) ∧ ∀ m, (v.capture l).pair m = v.pair m) := by
    intro v
    obtain ⟨h1, h2⟩ := v.capture_frame l
    exact ⟨h1, h2, fun m => by rw [h1]; rfl⟩
  have hx : u.rxGroup l n = { u with cores := (u.rxGroup l n).cores, pairs := (u.rxGroup l n).pairs } ∧ (∀ k, k ≠ l → (u.rxGroup l n).core k = u.core k)
      ∧ ∀ m, (u.rxGroup l n).pair m = if m = pairOf l ∧ s.isRx7 l = true then { s.pair m with lead := Nat.min 4096 ((s.pair m).lead + n) } else s.pair m := by
    have hk : u.isRx7 l = true → (u.rxCounted l n = { u with cores := (u.rxCounted l n).cores, pairs := (u.rxCounted l n).pairs }
        ∧ (∀ k, k ≠ l → (u.rxCounted l n).core k = u.core k)
        ∧ ∀ m, (u.rxCounted l n).pair m = if m = pairOf l ∧ s.isRx7 l = true then { s.pair m with lead := Nat.min 4096 ((s.pair m).lead + n) } else s.pair m) := by
      intro h7
      refine ⟨by simp [State.rxCounted, State.rxBeats, h7, State.modCore, State.setCore, State.setPair], fun k hk => ?_, fun m => ?_⟩
      · simp [State.rxCounted, State.rxBeats, h7, State.modCore, State.core_setCore_ne, hk]
      · rw [← hu7, h7]
        by_cases hm : m = pairOf l
        · subst hm
          simp [State.rxCounted, State.rxBeats, h7, State.modCore, hup]
        · simp [State.rxCounted, State.rxBeats, h7, State.modCore, hm, State.pair_setPair_ne, hup]
    rcases u.rxGroup_or l n with ⟨h7, e⟩ | ⟨h7, e | e⟩
    · rw [e]; exact ⟨rfl, fun _ _ => rfl, fun m => by rw [← hu7, h7, hup]; simp⟩
    · rw [e]; exact hk h7
    · obtain ⟨k1, k2, k3⟩ := hk h7
      obtain ⟨c1, c2, c3⟩ := hcap (u.rxCounted l n)
      rw [e]
      refine ⟨?_, fun k hk => by rw [c2 k hk, k2 k hk], fun m => by rw [c3, k3]⟩
      rw [c1, k1]
  obtain ⟨x1, x2, x3⟩ := hx
  unfold State.groupEnd
  rw [hu]
  rcases (u.rxGroup l n).settle_or l with e | e
  · rw [e]; exact ⟨by rw [x1, hus], fun k hk => by rw [x2 k hk, huc k hk], x3⟩
  · obtain ⟨c1, c2, c3⟩ := hcap (u.rxGroup l n)
    rw [e]
    exact ⟨by rw [c1, x1, hus], fun k hk => by rw [c2 k hk, x2 k hk, huc k hk], fun m => by rw [c3, x3]⟩

/-- A group of register results issues as a whole: every result is in flight, one beat passes, and nothing outside the core
changes. -/
theorem State.coreOp_regs (s : State) (x : At) (f : Core → Slot) (hz : (f (s.core x.lc)).regOnly = true) (h : s.ClosesRegs x (f (s.core x.lc))) :
    s.coreOp x f = s.regIssued x.lc (f (s.core x.lc)) := by
  obtain ⟨⟨hr, hs, hf, ⟨ps, hc⟩, hn, hro, ht, hw, hh⟩, hg⟩ := h
  have hlead := s.ready_lead x.lc hr
  generalize hcz : s.core x.lc = c at *
  generalize hzz : f c = z at *
  have hall : ∀ y ∈ c.group ++ [z], (∃ fs, y.op = .land fs) ∧ y.mem = false := by
    intro y hy
    rw [List.mem_append] at hy
    rcases hy with hy | hy
    · exact (Slot.regOnly_iff y).1 (List.all_eq_true.1 hg y hy)
    · simp at hy; subst hy; exact (Slot.regOnly_iff y).1 hz
  generalize hgg : c.group ++ [z] = g at *
  have hgne : g ≠ [] := by rw [← hgg]; simp
  have hmem : g.any (fun y => y.mem) = false := by
    rw [List.any_eq_false]; intro y hy; simp [(hall y hy).2]
  have honce : g.any (fun y => s.onceOnly x.lc y.op) = false := by
    rw [List.any_eq_false]
    intro y hy
    obtain ⟨fs, hfs⟩ := (hall y hy).1
    simp [State.onceOnly, hfs, SlotOp.chks]
  have hbk : s.bracket x.lc g = s := by
    apply State.bracket_none
    rw [List.any_eq_false]
    intro y hy
    obtain ⟨fs, hfs⟩ := (hall y hy).1
    simp [State.bracketed, State.onceOnly, hfs, SlotOp.chks]
  have hrd : g.any Slot.isRdtime = false := by
    rw [List.any_eq_false]
    intro y hy
    obtain ⟨fs, hfs⟩ := (hall y hy).1
    simp [Slot.isRdtime, hfs]
  have hsmm : g.findSome? (fun y => y.op.smmOf) = none := by
    rw [List.findSome?_eq_none_iff]
    intro y hy
    obtain ⟨fs, hfs⟩ := (hall y hy).1
    simp [hfs, SlotOp.smmOf]
  have hbr : brOf g = none := by
    unfold brOf
    rw [List.findSome?_eq_none_iff]
    intro y hy
    obtain ⟨fs, hfs⟩ := (hall y hy).1
    simp [hfs]
  have hops : ∀ p ∈ g.zipIdx.map (fun p => (p.2, p.1.op)), ∃ fs, p.2 = .land fs := by
    intro p hp
    rw [List.mem_map] at hp
    obtain ⟨q, hq, rfl⟩ := hp
    exact (hall q.1 (List.fst_mem_of_mem_zipIdx hq)).1
  have hland : landOps (g.zipIdx.map (fun p => (p.2, p.1.op))) = g.flatMap Slot.results := by
    have : ∀ (g : List Slot) (k : Nat), landOps ((g.zipIdx k).map (fun p => (p.2, p.1.op))) = g.flatMap Slot.results := by
      intro g
      induction g with
      | nil => intro k; rfl
      | cons y ys ih => intro k; simp only [List.zipIdx_cons, List.map_cons, landOps, List.flatMap_cons] at ih ⊢; rw [ih]; rfl
    exact this g 0
  have hbeats : (g.map (fun y => y.op.beats c.arch)).foldl Nat.max 1 = 1 := by
    have : ∀ (g : List Slot), (∀ y ∈ g, (∃ fs, y.op = .land fs) ∧ y.mem = false) → (g.map (fun y => y.op.beats c.arch)).foldl Nat.max 1 = 1 := by
      intro g
      induction g with
      | nil => intro _; rfl
      | cons y ys ih =>
        intro hy
        obtain ⟨fs, hfs⟩ := (hy y (by simp)).1
        simp only [List.map_cons, List.foldl_cons, hfs, SlotOp.beats]
        exact ih (fun q hq => hy q (List.mem_cons_of_mem _ hq))
    exact this g hall
  have hne : g.zipIdx.map (fun p => (p.2, p.1.op)) ≠ [] := by
    cases g with
    | nil => exact absurd rfl hgne
    | cons y ys => simp [List.zipIdx_cons]
  have hissue : s.issueGroup x.lc g = some (s.regIssued x.lc z) := by
    unfold State.issueGroup
    simp only [hcz, hbeats, hbk, State.mayIssue, hlead, hw, hrd, List.isEmpty_nil, Bool.not_false, Bool.true_or, Bool.and_true,
      Bool.false_eq_true, if_false, hsmm, Bool.not_true, Option.isSome_none]
    rw [State.issueAll_regs x.lc c.sb _ hops s c hcz hne, hland]
    have hload : ¬ (32 < List.foldl (· + ·) 0 (List.map (fun e => e.kind.weight) (((s.setCore x.lc (c.fly (g.flatMap Slot.results))).core x.lc).sb))) := by
      simpa [Core.fly, Core.sbLoad] using hro
    rw [if_neg hload, hbr]
    simp only [State.regIssued, State.groupEnd, hcz, hgg]
    simp [Core.fly, Core.closed, Core.ct, Arch.advance_with_infl]
    rfl
  simp only [State.coreOp, hr, Bool.not_true, Bool.false_eq_true, if_false, hs, Bool.true_or, if_true]
  rw [hcz, hzz, hgg, ht]
  have hh2 : s.fetchQuiet (s.core x.lc) (fetchWords c.arch.pc.toNat g) = true := by rw [hcz]; exact hh
  have hk : s.wordsCheck x.lc g true = .ok ps := by rw [State.wordsCheck_group _ _ _ _ (by rw [hcz]; exact hw) hn, hcz]; exact hc
  simp only [State.closeGroup, hcz, s.fetched_backed _ _ _ hh2, hk, Bool.false_eq_true, if_false, hn, hissue, Option.getD_some]

/-- An instruction alone in its group, no SMM, issues when the store buffer has room for what it writes. -/
theorem State.coreOp_alone (s : State) (x : At) (f : Core → Slot) (h : s.Alone x (f (s.core x.lc))) (hsmm : (f (s.core x.lc)).op.smmOf = none)
    (hroom : let u := s.bracket x.lc [f (s.core x.lc)]
             ((u.issueAll x.lc (u.core x.lc).sb [(0, (f (s.core x.lc)).op)]).core x.lc).sbLoad ≤ 32) :
    s.coreOp x f = s.aloneDone x.lc (f (s.core x.lc)) := by
  obtain ⟨⟨hr, hs, hf, ⟨ps, hc⟩, hn, hro, ht, hw, hh⟩, hg, hlead, hturn⟩ := h
  have hct : ∀ z, ((s.bracket x.lc [z]).core x.lc).ct = (s.core x.lc).ct := fun z => s.bracket_keeps (·.ct) x.lc [z] (fun _ _ _ _ _ => rfl)
  generalize hcz : s.core x.lc = c at *
  generalize hzz : f c = z at *
  rw [hg, List.nil_append] at hc hn hh
  have hmay : s.mayIssue x.lc [z] (Nat.max 1 (z.op.beats c.arch)) = true := by
    simp only [State.mayIssue, hcz, List.any_cons, List.any_nil, Bool.or_false, Bool.true_and, hlead, hw, List.isEmpty_nil, Bool.true_or]
    rw [Bool.or_eq_true]
    cases ho : z.isRdtime
    · exact .inl rfl
    · exact .inr (hturn ho)
  have hissue : s.issueGroup x.lc [z] = some (s.aloneDone x.lc z) := by
    unfold State.issueGroup
    simp only [hcz, List.map_cons, List.map_nil, List.foldl_cons, List.foldl_nil, hmay, Bool.not_true, Bool.false_eq_true, if_false, List.findSome?_cons,
      List.findSome?_nil, hsmm, Option.isSome_none, List.zipIdx_cons, List.zipIdx_nil]
    have hl : ¬ (32 < List.foldl (fun x1 x2 => x1 + x2) 0
        (List.map (fun e => e.kind.weight) (((s.bracket x.lc [z]).issueAll x.lc ((s.bracket x.lc [z]).core x.lc).sb [(0, z.op)]).core x.lc).sb)) := by
      have := hroom
      unfold Core.sbLoad at this
      omega
    rw [if_neg hl]
    simp only [State.aloneDone, State.groupEnd, hcz, hct, List.length_cons, List.length_nil]
  simp only [State.coreOp, hr, Bool.not_true, Bool.false_eq_true, if_false, hs, Bool.true_or, if_true]
  rw [hcz, hg, List.nil_append, hzz, ht]
  have hh2 : s.fetchQuiet (s.core x.lc) (fetchWords c.arch.pc.toNat [z]) = true := by rw [hcz]; exact hh
  have hk : s.wordsCheck x.lc [z] true = .ok ps := by rw [State.wordsCheck_group _ _ _ _ (by rw [hcz]; exact hw) hn, hcz]; exact hc
  simp only [Bool.false_eq_true, if_false, State.closeGroup, hcz, s.fetched_backed _ _ _ hh2, hk, hn, hissue, Option.getD_some]

/-- An instruction whose meaning is its slot gives its register results. -/
theorem State.givesRegs_of (s : State) (x : At) (i : Instr) (f : Core → Slot) (z : Slot) (hi : exec i s = .next (s.coreOp x f)) (hf : f (s.core x.lc) = z)
    (hz : z.regOnly = true) : s.GivesRegs x i z := by
  intro h
  subst hf
  rw [hi, State.coreOp_regs s x f hz h]

/-- An instruction whose meaning is its slot, no SMM, issues alone when its entries take at most n. -/
theorem State.issuesAlone_of (s : State) (x : At) (i : Instr) (f : Core → Slot) (z : Slot) (n : Nat) (hi : exec i s = .next (s.coreOp x f)) (hf : f (s.core x.lc) = z)
    (hz : z.op.smmOf = none)
    (hn : ∀ u : State, u.core x.lc = s.before x.lc z → ((u.issueAll x.lc (u.core x.lc).sb [(0, z.op)]).core x.lc).sbLoad ≤ (u.core x.lc).sbLoad + n) :
    s.IssuesAlone x i z n := by
  intro h hroom
  subst hf
  rw [hi, State.coreOp_alone s x f h hz]
  have h1 := hn (s.bracket x.lc [f (s.core x.lc)]) rfl
  have h2 := s.bracket_load x.lc [f (s.core x.lc)]
  simp only
  omega

@[simp] theorem decTrap_ok (c : Core) : decTrap c false 0 false = none := by simp [decTrap]

/-- A serialising instruction that stands alone and passes its check has its effect after the idle beats. -/
theorem State.serialOp_runs (s : State) (x : At) (z : Slot) (run : State → State) (h : s.Serial x z) :
    s.serialOp x z run = run ((s.idled x.lc).capture x.lc) := by
  obtain ⟨hr, hs, hg, hm, ha, hw, hp, hb, ps, hc⟩ := h
  have hf := (s.idled x.lc).fetchUe_backed x.lc _ hb
  unfold State.idled at hp hc hf ⊢
  simp [State.serialOp, hr, hs, hg, hm, ha, hw, hp, hc, hf]

/-- An instruction alone whose issue replaces its core alone: by d, with results fs put in flight. -/
theorem State.alone_replaces (s : State) (x : At) (i : Instr) (g : Core → Slot) (z : Slot) (d : Core) (fs : List Flight)
    (hi : exec i s = .next (s.coreOp x g)) (hg : g (s.core x.lc) = z) (h : s.Alone x z) (hsmm : z.op.smmOf = none)
    (hst : (s.bracket x.lc [z]).issueAll x.lc (s.before x.lc z).sb [(0, z.op)] = s.setCore x.lc (d.fly fs)) (hroom : d.sbLoad ≤ 32)
    (hct : d.ct = (s.core x.lc).ct) (hb : Nat.max 1 (z.op.beats (s.core x.lc).arch) = 1) :
    exec i s = .next (s.groupEnd x.lc 1 (d.closed [z] fs (brOf [z]))) := by
  subst hg
  have e : s.coreOp x g = s.aloneDone x.lc (g (s.core x.lc)) := by
    apply State.coreOp_alone s x g h hsmm
    simp only
    rw [show ((s.bracket x.lc [g (s.core x.lc)]).core x.lc).sb = (s.before x.lc (g (s.core x.lc))).sb from rfl, hst]
    simpa [Core.fly, Core.sbLoad] using hroom
  rw [hi, e]
  simp only [State.aloneDone]
  rw [show ((s.bracket x.lc [g (s.core x.lc)]).core x.lc).sb = (s.before x.lc (g (s.core x.lc))).sb from rfl, hst, hb]
  simp [State.groupEnd, Core.closed, Core.fly, Arch.advance_with_infl, hct]

/-- An instruction alone whose issue begins nothing: it only advances the core. -/
theorem State.alone_advances (s : State) (x : At) (i : Instr) (g : Core → Slot) (z : Slot) (hi : exec i s = .next (s.coreOp x g))
    (hg : g (s.core x.lc) = z) (h : s.Alone x z) (hsmm : z.op.smmOf = none) (hbk : s.bracket x.lc [z] = s)
    (hst : s.issueAll x.lc (s.core x.lc).sb [(0, z.op)] = s) (hb : Nat.max 1 (z.op.beats (s.core x.lc).arch) = 1) :
    exec i s = .next (s.groupEnd x.lc 1 ((s.core x.lc).closed [z] [] (brOf [z]))) := by
  subst hg
  have e : s.coreOp x g = s.aloneDone x.lc (g (s.core x.lc)) := by
    apply State.coreOp_alone s x g h hsmm
    simp only [hbk, hst]
    exact h.room
  rw [hi, e]
  simp only [State.aloneDone, hbk, hst, hb]
  simp [State.groupEnd, Core.closed]

end Sys2Proof.Machine
end

