-- ==== Sys2Proof/Laws/Mem.lean ====
section
/-! SUPPORT. Laws of memory: every operation that changes memory keeps its canonical form within its ranges (07 R359), a read after a
write, and where an access of an agent in near memory ends. -/

namespace Sys2Proof.Machine

/-- The form depends on the listed bytes alone. -/
theorem MemSt.wf_congr {m n : MemSt} (hn : m.near = n.near) (hf : m.far = n.far) : m.wf = n.wf := by unfold MemSt.wf; rw [hn, hf]

theorem MemSt.wf_iff (m : MemSt) : m.wf = true ↔
    Tab.wf 0 m.near = true ∧ Tab.wf 0 m.far = true ∧ m.near.all (fun e => isNear e.1) = true ∧ m.far.all (fun e => !isNear e.1) = true := by
  unfold MemSt.wf
  simp only [Bool.and_eq_true]
  constructor
  · rintro ⟨⟨⟨a, b⟩, c⟩, d⟩; exact ⟨a, b, c, d⟩
  · rintro ⟨a, b, c, d⟩; exact ⟨⟨⟨a, b⟩, c⟩, d⟩

/-- Memory at reset has the form. -/
theorem reset_mem_wf : State.reset.mem.wf = true := by decide

theorem Tab.all_setMany (p : Nat → Bool) (vs : List Byte) : ∀ (m : Tab Byte) (i : Nat), (∀ k, k < vs.length → p (i + k) = true) →
    m.all (fun e => p e.1) = true → (Tab.setMany 0 m i vs).all (fun e => p e.1) = true := by
  induction vs with
  | nil => intro m i _ h; exact h
  | cons v vs ih =>
    intro m i hp h
    refine ih _ _ (fun k hk => ?_) (Tab.all_set 0 m i v p (by simpa using hp 0 (by simp)) h)
    have := hp (k + 1) (by simp; omega)
    rwa [show i + 1 + k = i + (k + 1) by omega]

/-! ## Bytes without caches -/

variable (s : State)

theorem State.setRaw_wf (a : Nat) (b : Byte) (h : s.mem.wf = true) : (s.setRaw a b).mem.wf = true := by
  rw [MemSt.wf_iff] at h ⊢
  obtain ⟨h1, h2, h3, h4⟩ := h
  unfold State.setRaw
  split
  · next hn => exact ⟨Tab.wf_set 0 _ a b h1, h2, Tab.all_set 0 _ a b isNear hn h3, h4⟩
  · next hn => exact ⟨h1, Tab.wf_set 0 _ a b h2, h3, Tab.all_set 0 _ a b (fun k => !isNear k) (by simpa using hn) h4⟩

/-- A write of consecutive bytes keeps the form when near bytes stay near. -/
theorem State.setRawMany_wf (a : Nat) (bs : List Byte) (ha : isNear a = true → a + bs.length ≤ nearTop) (h : s.mem.wf = true) : (s.setRawMany a bs).mem.wf = true := by
  rw [MemSt.wf_iff] at h ⊢
  obtain ⟨h1, h2, h3, h4⟩ := h
  unfold State.setRawMany
  split
  · next hn =>
    have := ha hn
    refine ⟨Tab.wf_setMany 0 bs _ a h1, h2, Tab.all_setMany isNear bs _ a (fun k hk => ?_) h3, h4⟩
    simp only [isNear, decide_eq_true_eq]; omega
  · next hn =>
    refine ⟨h1, Tab.wf_setMany 0 bs _ a h2, h3, Tab.all_setMany (fun k => !isNear k) bs _ a (fun k hk => ?_) h4⟩
    simp only [isNear, decide_eq_true_eq, Nat.not_lt] at hn
    simp only [isNear, Bool.not_eq_true', decide_eq_false_iff_not, Nat.not_lt]; omega

/-- A read after a write of one byte. -/
theorem State.rawByte_setRaw (a c : Nat) (b : Byte) : (s.setRaw a b).rawByte c = if c = a then b else s.rawByte c := by
  unfold State.rawByte State.setRaw
  by_cases ha : isNear a = true <;> by_cases hc : isNear c = true <;> by_cases h : c = a <;>
    simp_all [Tab.get_set]

/-- A read after a write of near bytes. -/
theorem State.rawByte_setRawMany (a c : Nat) (bs : List Byte) (hn : isNear a = true) (hc : isNear c = true) :
    (s.setRawMany a bs).rawByte c = if a ≤ c ∧ c < a + bs.length then bs.getD (c - a) 0 else s.rawByte c := by
  unfold State.rawByte State.setRawMany
  simp only [hn, hc, if_true]
  exact Tab.get_setMany 0 bs s.mem.near a c

/-! ## Lines -/

@[simp] theorem State.mirrorWrite_mem (a : Nat) : (s.mirrorWrite a).mem = s.mem := by
  unfold State.mirrorWrite
  split
  · rfl
  split
  · rfl
  dsimp only
  split
  · split <;> rfl
  · split <;> rfl

theorem nearLine (num : Nat) (h : isNear (128 * num) = true) : 128 * num + 128 ≤ nearTop := by
  have h2 : 128 * num < nearTop := of_decide_eq_true h
  unfold nearTop at *; omega

/-- A codeword's two corrected bytes stay in their stripe, which is near. -/
theorem fixed_wf (st : Nat) (hst : st < 2 ^ 27) (f : Nat × Nat → BitVec 16) (es : List (Nat × Nat)) : ∀ m : Tab Byte,
    Tab.wf 0 m = true ∧ m.all (fun e => isNear e.1) = true →
    Tab.wf 0 (es.foldl (fun (m : Tab Byte) (e : Nat × Nat) => if e.1 < 32 && e.2 < 10 then Tab.setMany 0 m (640 * st + 2 * (10 * e.1 + e.2)) (leBytes 2 (f e).toNat) else m) m) = true ∧
    (es.foldl (fun (m : Tab Byte) (e : Nat × Nat) => if e.1 < 32 && e.2 < 10 then Tab.setMany 0 m (640 * st + 2 * (10 * e.1 + e.2)) (leBytes 2 (f e).toNat) else m) m).all
      (fun e => isNear e.1) = true := by
  induction es with
  | nil => intro m h; exact h
  | cons e es ih =>
    intro m h
    refine ih _ ?_
    beta_reduce
    split
    · next hc =>
      simp only [Bool.and_eq_true, decide_eq_true_eq] at hc
      refine ⟨Tab.wf_setMany 0 _ _ _ h.1, Tab.all_setMany isNear _ _ _ (fun k hk => ?_) h.2⟩
      rw [leBytes_length] at hk
      refine decide_eq_true ?_
      unfold nearTop; omega
    · exact h

/-- What a decode writes back keeps the form. -/
theorem State.settleStripe_wf (st : Nat) (h : s.mem.wf = true) : (s.settleStripe st).mem.wf = true := by
  unfold State.settleStripe
  split
  · exact h
  · exact h
  · exact h
  · dsimp only
    rw [MemSt.wf_iff] at h ⊢
    obtain ⟨h1, h2, h3, h4⟩ := h
    dsimp only
    split
    · next hst =>
      have := fixed_wf st hst (fun e => Config.rsWrong st e.1 e.2) (s.wrongSyms st) s.mem.near ⟨h1, h3⟩
      exact ⟨this.1, h2, this.2, h4⟩
    · exact ⟨h1, h2, h3, h4⟩

/-- The read that a write makes first keeps the form. -/
theorem State.readBefore_wf (st : Nat) (h : s.mem.wf = true) : (s.readBefore st).mem.wf = true := by
  unfold State.readBefore
  split
  · exact h
  · have hs := s.settleStripe_wf st h
    rwa [MemSt.wf_congr (m := { (s.settleStripe st).mem with found := s.mem.found ++ [(st, s.errsOf st)] }) rfl rfl]

/-- A write of a whole line keeps the form. -/
theorem State.writeLine_wf (num : Nat) (bs : List Byte) (hb : bs.length ≤ 128) (h : s.mem.wf = true) : (s.writeLine num bs).mem.wf = true := by
  have hw : ∀ t : State, t.mem.wf = true → ((t.setRawMany (128 * num) bs).mirrorWrite (128 * num)).mem.wf = true := by
    intro t ht
    rw [State.mirrorWrite_mem]
    exact t.setRawMany_wf _ _ (fun hn => by have := nearLine num hn; omega) ht
  unfold State.writeLine
  dsimp only
  split
  · have h2 := hw _ (s.readBefore_wf (stripeOf (128 * num)) h)
    split
    · exact h2
    · exact h2
  · exact hw s h

/-- A write within one line keeps the form. -/
theorem State.writePart_wf (a : Nat) (bs : List Byte) (hb : a % 128 + bs.length ≤ 128) (h : s.mem.wf = true) : (s.writePart a bs).mem.wf = true := by
  have hw : ∀ t : State, t.mem.wf = true → ((t.setRawMany a bs).mirrorWrite a).mem.wf = true := by
    intro t ht
    rw [State.mirrorWrite_mem]
    refine t.setRawMany_wf _ _ (fun hn => ?_) ht
    have h2 : a < nearTop := of_decide_eq_true hn
    unfold nearTop at *; omega
  unfold State.writePart
  split
  · have h2 := s.readBefore_wf (stripeOf a) h
    dsimp only
    split
    · exact h2
    · exact hw _ h2
  · dsimp only
    refine hw _ ?_
    split
    · refine s.setRawMany_wf _ _ (fun hn => ?_) h
      have h2 : a / 128 * 128 < nearTop := of_decide_eq_true hn
      rw [List.length_map, List.length_range]
      unfold nearTop at *; omega
    · exact h

theorem State.poisonStripe_wf (st : Nat) (h : s.mem.wf = true) : (s.poisonStripe st).mem.wf = true := h

/-! ## Caches -/

theorem foldl_mem {α : Type} (f : State → α → State) (hf : ∀ t e, (f t e).mem = t.mem) (es : List α) : ∀ t : State, (es.foldl f t).mem = t.mem := by
  induction es with
  | nil => intro t; rfl
  | cons e es ih => intro t; rw [List.foldl_cons, ih, hf]

/-- Dropping a line from the caches changes no byte of memory. -/
@[simp] theorem State.dropLine_mem (num : Nat) : (s.dropLine num).mem = s.mem := by
  unfold State.dropLine
  dsimp only
  rw [foldl_mem _ (fun t e => by split <;> rfl), foldl_mem _ (fun t e => by split <;> rfl)]

@[simp] theorem lineBytes_length (d : BitVec 1024) : (lineBytes d).length = 128 := leBytes_length _ _

theorem State.cleanLine_wf (num : Nat) (h : s.mem.wf = true) : (s.cleanLine num).mem.wf = true := by
  unfold State.cleanLine
  split
  · exact h
  · next l _ =>
    dsimp only
    rw [foldl_mem _ (fun t e => by split <;> rfl), foldl_mem _ (fun t e => by split <;> rfl)]
    exact s.writeLine_wf num _ (by simp) h

theorem State.flushLine_wf (num : Nat) (h : s.mem.wf = true) : (s.flushLine num).mem.wf = true := by
  unfold State.flushLine
  rw [State.dropLine_mem]
  exact s.cleanLine_wf num h

/-! ## Agents -/

/-- A write of an agent within one line keeps the form. -/
theorem State.agentPart_wf (a : Nat) (bs : List Byte) (hb : a % 128 + bs.length ≤ 128) (h : s.mem.wf = true) : (s.agentPart a bs).mem.wf = true := by
  unfold State.agentPart
  split
  · exact h
  dsimp only
  have hf := s.flushLine_wf (a / 128) h
  split
  · exact State.writeLine_wf _ _ bs (by omega) hf
  · exact State.writePart_wf _ a bs hb hf

theorem State.agentWriteN_wf (n : Nat) : ∀ (s : State) (a : Nat) (bs : List Byte), s.mem.wf = true → (State.agentWriteN n s a bs).mem.wf = true := by
  induction n with
  | zero => intro s a bs h; exact h
  | succ n ih =>
    intro s a bs h
    unfold State.agentWriteN
    dsimp only
    split
    · exact h
    · refine ih _ _ _ (s.agentPart_wf a _ ?_ h)
      rw [List.length_take]; omega

/-- A write of any bytes by an agent keeps the form. -/
theorem State.agentWrite_wf (a : Nat) (bs : List Byte) (h : s.mem.wf = true) : (s.agentWrite a bs).mem.wf = true := State.agentWriteN_wf _ s a bs h

/-! ## Cores -/

theorem State.l3Put_wf (c : Nat) (l : Line) (h : s.mem.wf = true) : (s.l3Put c l).mem.wf = true := by
  unfold State.l3Put
  dsimp only
  split
  · split
    · exact State.writeLine_wf _ _ _ (by simp) h
    · exact h
  · exact h

theorem State.l2Put_wf (n : Nat) (l : Line) (h : s.mem.wf = true) : (s.l2Put n l).mem.wf = true := by
  unfold State.l2Put
  dsimp only
  split
  · exact h
  · exact State.l3Put_wf _ _ _ h

@[simp] theorem State.l1dPut_mem (n : Nat) (l : Line) : (s.l1dPut n l).mem = s.mem := by
  unfold State.l1dPut
  dsimp only
  split <;> rfl

@[simp] theorem State.l3Touch_mem (k num : Nat) : (s.l3Touch k num).mem = s.mem := by
  unfold State.l3Touch
  dsimp only
  split <;> rfl

theorem State.l2Get_wf (n : Nat) (l : Line) (h : s.mem.wf = true) : (s.l2Get n l).mem.wf = true := by
  unfold State.l2Get
  dsimp only
  split
  · exact h
  · refine State.l2Put_wf _ _ _ ?_
    rw [State.l3Touch_mem]; exact h

theorem State.fillData_wf (n num : Nat) (l1 : Bool) (h : s.mem.wf = true) : (s.fillData n num l1).mem.wf = true := by
  unfold State.fillData
  dsimp only
  split
  · exact h
  split
  · exact h
  · next bs _ =>
    split
    · exact h
    · split
      · rw [State.l1dPut_mem]; exact s.l2Get_wf n _ h
      · exact s.l2Get_wf n _ h

theorem State.fillFetch_wf (n num : Nat) (h : s.mem.wf = true) : (s.fillFetch n num).mem.wf = true := by
  unfold State.fillFetch
  dsimp only
  split
  · exact h
  split
  · exact h
  · rw [State.setPair_mem]
    split
    · exact h
    · exact s.l2Get_wf n _ h

/-- A store that a core releases keeps the form. -/
theorem State.coreStore_wf (n a : Nat) (bs : List Byte) (hb : a % 128 + bs.length ≤ 128) (h : s.mem.wf = true) : (s.coreStore n a bs).mem.wf = true := by
  unfold State.coreStore
  dsimp only
  split
  · exact h
  split
  · exact s.agentPart_wf a bs hb h
  generalize (if bs.length = 128 then some (List.replicate 128 0) else s.cohLine (a / 128)) = o
  cases o with
  | none => exact h
  | some d =>
    dsimp only
    have h2 : ∀ (p : Pair) (b : Bool), (((if b = true then s else s.l3Touch (n / 16) (a / 128)).dropLine (a / 128)).setPair n p).mem.wf = true := by
      intro p b
      rw [State.setPair_mem, State.dropLine_mem]
      cases b
      · simpa using h
      · exact h
    split
    · rw [State.l1dPut_mem]
      split
      · exact h2 _ _
      · exact State.l2Get_wf _ _ _ (h2 _ _)
    · exact State.l2Put_wf _ _ _ (h2 _ _)

/-! ## Where an agent's access in near memory ends -/

theorem State.agentPieces_near (n : Nat) : ∀ (a : Nat) (bs : List Byte), bs = [] ∨ a + bs.length ≤ nearTop → ∃ ps cs, s.agentPieces 0 n a bs = .ok ps cs := by
  induction n with
  | zero => intro a bs _; exact ⟨[], [], rfl⟩
  | succ n ih =>
    intro a bs h
    unfold State.agentPieces
    by_cases he : bs.isEmpty = true
    · rw [if_pos he]; exact ⟨[], [], rfl⟩
    rw [if_neg he]
    have hl : 0 < bs.length := by cases bs with | nil => exact absurd rfl he | cons _ _ => simp
    have ht : a + bs.length ≤ nearTop := h.resolve_left (fun hc => by rw [hc] at hl; simp at hl)
    have ha : s.agentAddr 0 true a = .ok a := by
      have : isMem a = true := by simp only [isMem, isNear, Bool.or_eq_true, decide_eq_true_eq]; left; omega
      simp only [State.agentAddr, if_true, this]
    obtain ⟨ps, cs, hr⟩ := ih (a + (128 - a % 128)) (bs.drop (128 - a % 128)) (by
      by_cases hk : bs.length ≤ 128 - a % 128
      · left; exact List.drop_eq_nil_of_le hk
      · right; rw [List.length_drop]; omega)
    simp only [ha, hr]
    split
    · exact ⟨_, _, rfl⟩
    · exact ⟨_, _, rfl⟩

/-- A write of instance 0 that lies in near memory is performed. -/
theorem State.agentStore_near (unit msub a : Nat) (bs : List Byte) (h : a + bs.length ≤ nearTop) : (s.agentStore unit msub 0 a bs).2 = .ok := by
  obtain ⟨ps, cs, hr⟩ := s.agentPieces_near (bs.length / 128 + 2) a bs (Or.inr h)
  simp only [State.agentStore, hr]

/-! ## Reset and the loader (18 R798, R805) -/

theorem Tab.wfFrom_append (m r : Tab Byte) (top : Nat) : ∀ b, Tab.wfFrom 0 b m = true → (∀ e ∈ m, e.1 < top) → (∀ x, b = some x → x < top) →
    r.all (fun e => decide (top ≤ e.1)) = true → Tab.wf 0 r = true → Tab.wfFrom 0 b (m ++ r) = true := by
  induction m with
  | nil =>
    intro b _ _ hb hr hw
    cases r with
    | nil => rfl
    | cons e t =>
      obtain ⟨k, v⟩ := e
      simp only [List.all_cons, Bool.and_eq_true, decide_eq_true_eq] at hr
      simp only [Tab.wf, Tab.wfFrom, Bool.and_eq_true, decide_eq_true_eq] at hw
      simp only [List.nil_append, Tab.wfFrom, Bool.and_eq_true, decide_eq_true_eq]
      refine ⟨⟨?_, hw.1.2⟩, hw.2⟩
      cases b with
      | none => rfl
      | some x => have := hb x rfl; simp only [decide_eq_true_eq]; omega
  | cons e t ih =>
    intro b hm hk hb hr hw
    obtain ⟨k, v⟩ := e
    simp only [List.cons_append, Tab.wfFrom, Bool.and_eq_true] at hm ⊢
    refine ⟨hm.1, ih (some k) hm.2 (fun e he => hk e (List.mem_cons_of_mem _ he)) (fun x hx => ?_) hr hw⟩
    cases hx
    exact hk (k, v) (by simp)

theorem Tab.wfFrom_filter (m : Tab Byte) (p : Nat → Bool) : ∀ b, Tab.wfFrom 0 b m = true → Tab.wfFrom 0 b (m.filter (fun e => p e.1)) = true := by
  induction m with
  | nil => intro b _; rfl
  | cons e t ih =>
    intro b h
    obtain ⟨k, v⟩ := e
    have h' := h
    simp only [Tab.wfFrom, Bool.and_eq_true, decide_eq_true_eq] at h
    by_cases hp : p k = true
    · simp only [List.filter_cons, hp, if_true, Tab.wfFrom, Bool.and_eq_true, decide_eq_true_eq]
      exact ⟨h.1, ih _ h.2⟩
    · simp only [List.filter_cons, hp]
      refine ih _ (Tab.wfFrom_mono 0 t b (some k) (fun x hx => ?_) h.2)
      subst hx
      have := h.1.1
      simp only [decide_eq_true_eq] at this
      exact ⟨k, rfl, by omega⟩

/-- The loader in the first MiB of near memory keeps the form. -/
theorem MemSt.loadHost_wf (m : MemSt) (loader : List Byte) (h : m.wf = true) : (m.loadHost loader).wf = true := by
  rw [MemSt.wf_iff] at h ⊢
  obtain ⟨h1, h2, h3, h4⟩ := h
  have hlen : (loader.take (2 ^ 20)).length ≤ 2 ^ 20 := by rw [List.length_take]; omega
  have hk : (Tab.setMany 0 [] 0 (loader.take (2 ^ 20))).all (fun e => decide (e.1 < 2 ^ 20)) = true :=
    Tab.all_setMany (fun k => decide (k < 2 ^ 20)) _ [] 0 (fun k hk => by simp only [decide_eq_true_eq]; omega) rfl
  have hs : Tab.wf 0 (Tab.setMany 0 [] 0 (loader.take (2 ^ 20))) = true := Tab.wf_setMany 0 _ [] 0 rfl
  refine ⟨?_, h2, ?_, h4⟩
  · refine Tab.wfFrom_append _ _ (2 ^ 20) none hs (fun e he => ?_) (by simp) ?_ (Tab.wfFrom_filter m.near (fun k => decide (2 ^ 20 ≤ k)) none h1)
    · have := List.all_eq_true.mp hk e he; simpa using this
    · exact List.all_eq_true.mpr (fun e he => (List.mem_filter.mp he).2)
  · show (Tab.setMany 0 [] 0 (loader.take (2 ^ 20)) ++ m.near.filter _).all _ = true
    rw [List.all_append, Bool.and_eq_true]
    constructor
    · refine List.all_eq_true.mpr (fun e he => ?_)
      have := List.all_eq_true.mp hk e he
      simp only [decide_eq_true_eq] at this
      have h5 : e.1 < nearTop := by unfold nearTop; omega
      exact decide_eq_true h5
    · exact List.all_eq_true.mpr (fun e he => List.all_eq_true.mp h3 e (List.mem_filter.mp he).1)

/-- What a reset keeps of memory has the form. -/
theorem MemSt.afterReset_wf (m : MemSt) (keep : Bool) (h : m.wf = true) : (m.afterReset keep).wf = true := by
  rw [MemSt.wf_iff] at h ⊢
  obtain ⟨h1, h2, h3, h4⟩ := h
  cases keep
  · exact ⟨rfl, h2, rfl, h4⟩
  · exact ⟨h1, h2, h3, h4⟩

end Sys2Proof.Machine
end

