-- ==== Sys2Proof/Laws/Vats.lean ====
section
/-! SUPPORT. Laws of a CELL cycle (08 R406, R407, 09 R450): what it can change of its sequencer, and the bound of a collision. -/

namespace Sys2Proof.Machine

/-- Each bit read in a collision is that of the old word or of the new one (R407). -/
theorem mixW_bit (m old new : Word) (k : Nat) : (mixW m old new).getLsbD k = old.getLsbD k ∨ (mixW m old new).getLsbD k = new.getLsbD k := by
  by_cases h : k < 64
  · have e : (mixW m old new).getLsbD k = ((new.getLsbD k && m.getLsbD k) || (old.getLsbD k && !m.getLsbD k)) := by
      simp only [mixW, BitVec.getLsbD_or, BitVec.getLsbD_and, BitVec.getLsbD_not, h, decide_true, Bool.true_and]
    rw [e]
    cases m.getLsbD k <;> simp
  · left
    rw [BitVec.getLsbD_of_ge _ _ (by omega), BitVec.getLsbD_of_ge _ _ (by omega)]

/-- Writing Vats leaves every sequencer as it is. -/
theorem State.foldl_setVat_sq {α : Type} (q : Nat) (f : State → α → Nat × Vat) :
    ∀ (l : List α) (t : State), (l.foldl (fun t a => t.setVat (f t a).1 (f t a).2) t).sq q = t.sq q := by
  intro l
  induction l with
  | nil => intro t; rfl
  | cons a l ih => intro t; exact ih _

/-- A CELL cycle writes Vats only. -/
theorem State.cellFrom_sq (s src : State) (n q : Nat) (o : CellOp) : (s.cellFrom src n o).st.sq q = s.sq q := by
  have h := State.foldl_setVat_sq (α := Nat × List (Word × Word)) q (fun _ e => (e.1, (s.vat e.1).afterCell o ((s.sq n).writePlane o) e.2))
  unfold State.cellFrom
  dsimp only
  split
  · exact h _ s
  · exact h _ s

theorem Meet.read_sq (k : Meet) (v p r q : Nat) (old : Word) : (k.read v p r old).base.sq q = k.base.sq q := rfl

/-- A bit-space write met in a cycle leaves the sequencers as they are. -/
theorem Meet.bitw_sq (q j : Nat) (o : CellOp) (k : Meet) (v : Nat) : (Meet.bitw q o k v).base.sq j = k.base.sq j := by
  unfold Meet.bitw
  dsimp only
  have hb : ∀ (us : List Nat) (a b : Nat) (s : State),
      (us.foldl (fun t u => match (k.base.vat u).mport with | some (_, w, _) => t.setVat u ((t.vat u).setPlane a b w) | none => t) s).sq j = s.sq j := by
    intro us a b
    induction us with
    | nil => intro s; rfl
    | cons u us ih =>
      intro s
      rw [List.foldl_cons, ih]
      split <;> rfl
  have hr : ∀ (us : List Nat) (a b : Nat) (f : Nat → Word) (m : Meet), (us.foldl (fun i u => i.read u a b (f u)) m).base.sq j = m.base.sq j := by
    intro us a b f
    induction us with
    | nil => intro m; rfl
    | cons u us ih => intro m; rw [List.foldl_cons, ih]; rfl
  split
  · rfl
  · split
    · rfl
    · split
      · rfl
      · split
        · exact hb _ _ _ _
        · exact hr _ _ _ _ _

/-- Writing plane words of a logical Vat leaves the sequencers as they are. -/
@[simp] theorem State.setPlaneW_sq (s : State) (v p r j : Nat) (w : Word) : (s.setPlaneW v p r w).sq j = s.sq j := by
  unfold State.setPlaneW
  dsimp only
  split <;> rfl

/-- A transfer's write met in a cycle changes of its sequencer no more than the progress of the transfer. -/
theorem Meet.mould_sq (q : Nat) (o : CellOp) (vs : List Nat) (k : Meet) (a : Nat) : ∃ f, (Meet.mould q o vs k a).base.sq q = { k.base.sq q with xfer := f } := by
  have hr : ∀ (us : List Nat) (p r : Nat) (f : Nat → Word) (m : Meet), (us.foldl (fun i u => i.read u p r (f u)) m).base.sq q = m.base.sq q := by
    intro us p r f
    induction us with
    | nil => intro m; rfl
    | cons u us ih => intro m; rw [List.foldl_cons, ih]; rfl
  have hw : ∀ (us : List Nat) (p r : Nat) (f : Nat → Word) (t : State), (us.foldl (fun z u => z.setVat u ((z.vat u).setPlane p r (f u))) t).sq q = t.sq q := by
    intro us p r f
    induction us with
    | nil => intro t; rfl
    | cons u us ih => intro t; rw [List.foldl_cons, ih]; rfl
  unfold Meet.mould
  dsimp only
  split
  · exact ⟨_, rfl⟩
  · split
    · exact ⟨_, rfl⟩
    · split
      · exact ⟨_, rfl⟩
      · split
        · exact ⟨_, rfl⟩
        · rw [hr, hw]
          exact ⟨_, by rw [State.sq_setSq_self]⟩

/-- The cycle of a CELL instruction leaves its sequencer as it is, but for the progress of its transfer. -/
theorem State.cellCycle_sq (s : State) (q : Nat) (o : CellOp) : ∃ f, (s.cellCycle q o).st.sq q = { s.sq q with xfer := f } := by
  have hb : ∀ (l : List Nat) (k : Meet), (l.foldl (Meet.bitw q o) k).base.sq q = k.base.sq q := by
    intro l
    induction l with
    | nil => intro k; rfl
    | cons v l ih => intro k; rw [List.foldl_cons, ih, Meet.bitw_sq]
  have hm : ∀ (vs l : List Nat) (k : Meet), ∃ f, (l.foldl (Meet.mould q o vs) k).base.sq q = { k.base.sq q with xfer := f } := by
    intro vs l
    induction l with
    | nil => intro k; exact ⟨_, rfl⟩
    | cons a l ih =>
      intro k
      obtain ⟨f, hf⟩ := Meet.mould_sq q o vs k a
      obtain ⟨g, hg⟩ := ih (Meet.mould q o vs k a)
      exact ⟨g, by rw [List.foldl_cons, hg, hf]⟩
  have hc : ∀ (l : List Nat) (t : State), (l.foldl (fun t v => if (t.vat v).mport.isSome then t.setVat v { t.vat v with mport := none } else t) t).sq q = t.sq q := by
    intro l
    induction l with
    | nil => intro t; rfl
    | cons v l ih => intro t; rw [List.foldl_cons, ih]; split <;> rfl
  have ha := State.foldl_setVat_sq (α := Nat × Nat × Nat × Option Bool) q (fun t w => (w.1, (t.vat w.1).putAgain w.2.1 w.2.2.1 w.2.2.2))
  unfold State.cellCycle
  dsimp only
  rw [hc, ha, State.cellFrom_sq]
  split
  · obtain ⟨f, hf⟩ := hm _ (List.range 4) ((s.partOrder q).foldl (Meet.bitw q o) { base := s, src := s })
    exact ⟨f, by rw [hf, hb]⟩
  · exact ⟨_, hb _ _⟩

/-- A CELL instruction makes no access at a Mould port. -/
theorem Vat.afterCell_mport (x : Vat) (o : CellOp) (pw : Nat) (rows : List (Word × Word)) : (x.afterCell o pw rows).mport = x.mport := by
  unfold Vat.afterCell
  have h : ∀ (f : Vat → (Word × Word) × Nat → Vat), (∀ y p, (f y p).mport = y.mport) → ∀ (l : List ((Word × Word) × Nat)) (y : Vat), (l.foldl f y).mport = y.mport := by
    intro f hf l
    induction l with
    | nil => intro y; rfl
    | cons p l ih => intro y; rw [List.foldl_cons, ih, hf]
  apply h
  intro y p
  dsimp only
  split <;> split <;> rfl

theorem State.cellFrom_mport (s src : State) (n : Nat) (o : CellOp) (h : ∀ v, (s.vat v).mport = none) (v : Nat) : ((s.cellFrom src n o).st.vat v).mport = none := by
  have hf : ∀ (l : List (Nat × List (Word × Word))) (t : State), (∀ v, (t.vat v).mport = none) →
      ((l.foldl (fun t e => t.setVat e.1 ((s.vat e.1).afterCell o ((s.sq n).writePlane o) e.2)) t).vat v).mport = none := by
    intro l
    induction l with
    | nil => intro t ht; exact ht v
    | cons e l ih =>
      intro t ht
      rw [List.foldl_cons]
      apply ih
      intro u
      by_cases hu : u = e.1
      · rw [hu, State.vat_setVat_self, Vat.afterCell_mport, h]
      · rw [State.vat_setVat_ne _ _ _ _ hu, ht]
  unfold State.cellFrom
  dsimp only
  split
  · exact hf _ s h
  · exact hf _ s h

/-- With no transfer in progress and no bit-space write since the last cycle, the cycle meets no Mould access. -/
theorem State.cellCycle_quiet (s : State) (q : Nat) (o : CellOp) (h : (s.sq q).xfer = none) (hv : ∀ v, (s.vat v).mport = none) :
    s.cellCycle q o = s.cellAll q o := by
  have hb : ∀ (l : List Nat), l.foldl (Meet.bitw q o) { base := s, src := s } = { base := s, src := s } := by
    intro l
    induction l with
    | nil => rfl
    | cons v l ih => rw [List.foldl_cons, show Meet.bitw q o { base := s, src := s } v = { base := s, src := s } by simp [Meet.bitw, hv], ih]
  have hc : ∀ (l : List Nat) (t : State), (∀ v, (t.vat v).mport = none) →
      l.foldl (fun t v => if (t.vat v).mport.isSome then t.setVat v { t.vat v with mport := none } else t) t = t := by
    intro l
    induction l with
    | nil => intro t _; rfl
    | cons v l ih =>
      intro t ht
      rw [List.foldl_cons, show (if (t.vat v).mport.isSome then t.setVat v { t.vat v with mport := none } else t) = t by simp [ht]]
      exact ih t ht
  unfold State.cellCycle
  simp only [hb, h, Option.bind_none, List.foldl_nil]
  rw [hc _ _ (s.cellFrom_mport s q o hv)]
  rfl

end Sys2Proof.Machine
end

