-- ==== Sys2Proof/Tests/Slice0.lean ====
section
/-! SUPPORT. The tests: a state and operands that meet the hypotheses of every statement, words of the spec's encodings, an
ill-formed term for each check of WellFormed, and small examples. -/

namespace Sys2Proof.Machine.Tests

set_option Elab.async false

/-! ## Witnesses: cores -/

/-- A module whose logical core 0 is c. -/
def onCore (c : Core) : State := { State.reset with cores := [(0, c)] }
def running : Core := { run := .running }
def at0 : At := { lc := 0, stop := true }

theorem witness_IntegerRegisterResults (fs : List Flight) : (onCore running).ClosesRegs at0 (regSlot fs) :=
  { ready := by decide, stop := rfl, few := by decide, check := ⟨_, rfl⟩, noRep := rfl, room := by decide, aligned := rfl, whole := rfl, backed := rfl, regs := rfl }

theorem witness_MultiplyAndDivideResults (fs : List Flight) : (onCore running).ClosesRegs at0 (mdSlot fs) ∧
    (4 : Reg).toNat % 4 = 0 ∧ 4 ≤ (4 : Reg).toNat :=
  ⟨{ ready := by decide, stop := rfl, few := by decide, check := ⟨_, rfl⟩, noRep := rfl, room := by decide, aligned := rfl, whole := rfl, backed := rfl, regs := rfl }, by decide⟩

/-- A core whose floating-point unit is on. -/
def fpCore : Core := { running with arch := { fpu := true } }

theorem witness_FloatingPointResults (f : Flight) (z x : Bool) : (onCore fpCore).ClosesRegs at0 (fpSlot [f] z x) ∧ ((onCore fpCore).core 0).arch.fpu = true :=
  ⟨{ ready := by decide, stop := rfl, few := by decide, check := ⟨_, rfl⟩, noRep := rfl, room := by decide, aligned := rfl, whole := rfl, backed := rfl, regs := rfl }, rfl⟩

theorem alone_of (s : State) (x : At) (z : Slot) (h1 : s.ready x.lc = true) (h2 : x.stop = true) (h3 : (s.core x.lc).group = [])
    (h4 : ∃ ps, s.groupCheck x.lc (s.core x.lc) [z] true = .ok ps) (h5 : repOf [z] = none) (h6 : (s.core x.lc).sbLoad ≤ 32)
    (h7 : (s.core x.lc).arch.badPc = false ∧ (s.core x.lc).arch.rest = []) (h8 : s.fetchQuiet (s.core x.lc) (fetchWords (s.core x.lc).arch.pc.toNat [z]) = true)
    (h10 : s.rxRoom x.lc (Nat.max 1 (z.op.beats (s.core x.lc).arch)) = true) (h11 : z.isRdtime = true → s.dpx.turn { kind := 2, addr := 0, agent := x.lc } = true) : s.Alone x z :=
  { ready := h1, stop := h2, few := by rw [h3]; decide, check := by rw [h3]; exact h4, noRep := by rw [h3]; exact h5, room := h6, aligned := h7.1, whole := h7.2,
    backed := by rw [h3]; exact h8, first := h3, lead := h10, turn := h11 }

theorem alone0 (z : Slot) (h : ∃ ps, (onCore running).groupCheck 0 running [z] true = .ok ps) (r : repOf [z] = none)
    (b : (onCore running).fetchQuiet running (fetchWords 0 [z]) = true := by rfl) : (onCore running).Alone at0 z :=
  alone_of _ _ _ (by decide) rfl rfl h r (by decide) ⟨rfl, rfl⟩ b rfl (fun _ => rfl)

def divSlot (op : SlotOp) : Slot := { op := op, md := true, regs := [4], wr := (List.range 4).map (fun k => 4 + k) }
theorem witness_MultiplyAndDivideResults_steps : (onCore running).Alone at0 (divSlot (.dstep 4)) ∧ (onCore running).Alone at0 (divSlot (.dstepF 4)) :=
  ⟨alone0 _ ⟨_, rfl⟩ rfl, alone0 _ ⟨_, rfl⟩ rfl⟩


theorem access0 (q : Req) (h : (onCore running).access 0 running 2 q = .ok [⟨0, q.n, 0⟩]) : (onCore running).access 0 ((onCore running).core 0) ((onCore running).core 0).priv q = .ok [⟨0, q.n, 0⟩] := h

/-- Every access form of the statements of stores, loads, atomics, fills and maintenance is made at address 0. -/
theorem witness_accesses : ∀ q ∈ [({ ea := 0, n := 1, need := .w } : Req), { ea := 0, n := 2, need := .w }, { ea := 0, n := 4, need := .w }, { ea := 0, n := 8, need := .w },
    { ea := 0, n := 1, need := .r }, { ea := 0, n := 2, need := .r }, { ea := 0, n := 4, need := .r }, { ea := 0, n := 8, need := .r },
    { ea := 0, n := 1, need := .rw, align := 1, noDev := true }, { ea := 0, n := 2, need := .rw, align := 2, noDev := true },
    { ea := 0, n := 4, need := .rw, align := 4, noDev := true }, { ea := 0, n := 8, need := .rw, align := 8, noDev := true },
    { ea := 0, n := 16, need := .rw, align := 16, noDev := true }, { ea := 0, n := 128, need := .w, align := 128, noDev := true }],
    (onCore running).access 0 ((onCore running).core 0) ((onCore running).core 0).priv q = .ok [⟨0, q.n, 0⟩] := by decide

theorem witness_noHit : (onCore running).hitBytes (pairOf 0) [⟨0, 8, 0⟩] = none := by decide

theorem witness_StoresEnterTheStoreBuffer : (onCore running).Alone at0 { op := .store 8 0 0 false, mem := true } ∧
    (((onCore running).core 0).push (pieceEntries true [⟨0, 8, 0⟩] (leBytes 8 0))).sbLoad ≤ 32 :=
  ⟨alone0 _ ⟨_, rfl⟩ rfl, by decide⟩

theorem witness_LoadsThatMissWaitForTheirData : (onCore running).Alone at0 { op := .load { n := 8, e := .zero, dst := .g 5, ea := 0 }, mem := true } :=
  alone0 _ ⟨_, rfl⟩ rfl

theorem witness_LoadsIssueFromEveryRegion :
    (onCore running).Alone at0 { op := .load { n := 8, e := .zero, dst := .g 5, ea := 0 }, mem := true } ∧ ((onCore running).core 0).sbLoad + 0 ≤ 32 :=
  ⟨alone0 _ ⟨_, rfl⟩ rfl, by decide⟩

theorem witness_AtomicsWaitTheirTurn : (onCore running).Alone at0 { op := .atomic .add 8 0 0 0 4, mem := true } ∧ (onCore running).Alone at0 { op := .cas2 0 0 0 0 0 4, mem := true }
    ∧ ((onCore running).core 0).once = [] ∧ (8 ∈ [1, 2, 4, 8] ∧ 7 < 2 ^ (8 * 8)) :=
  ⟨alone0 _ ⟨_, rfl⟩ rfl, alone0 _ ⟨_, rfl⟩ rfl, rfl, by decide⟩

theorem witness_BitSpaceInstructions : (onCore running).Alone at0 { op := .bitRead 0 5, mem := true } ∧ (onCore running).Alone at0 { op := .bitRead 0x100000000 5, mem := true }
    ∧ (onCore running).Alone at0 { op := .bitWrite .flip none 0 0, mem := true, regs := [0] } ∧ (onCore running).Alone at0 { op := .bitTas 0 5, mem := true, regs := [0] }
    ∧ (onCore running).Alone at0 { op := .bitXch 0x100000000 true 5, mem := true } ∧ (((onCore running).core 0).push [.bitw 0 (.put true)]).sbLoad ≤ 32
    ∧ bitFwd (bitPend ((onCore running).core 0).sb 0x100000000) = none ∧ (bitAt 0x100000000).rw = true ∧ ((onCore running).core 0).once = [] :=
  ⟨alone0 _ ⟨_, rfl⟩ rfl, alone0 _ ⟨_, rfl⟩ rfl, alone0 _ ⟨_, rfl⟩ rfl, alone0 _ ⟨_, rfl⟩ rfl, alone0 _ ⟨_, rfl⟩ rfl, by decide, rfl, rfl, rfl⟩

/-- A core whose own BST and BFLIP of a shared bit wait; and the reading of a doorbell bit. -/
def bstCore : Core := { running with sb := [{ kind := .bitw 0x100000000 (.put true) }, { kind := .bitw 0x100000000 .flip }] }
theorem witness_BitSpaceInstructions_reads : (onCore bstCore).Alone at0 { op := .bitRead 0x100000000 5, mem := true } ∧ bitFwd (bitPend bstCore.sb 0x100000000) = some false
    ∧ (onCore running).Alone at0 { op := .bitRead 0x2000000003 5, mem := true } ∧ (bitAt 0x2000000003).rw = false
    ∧ bstCore.misses = [] ∧ ({ running with misses := [{ id := 0, src := .bitAt 0x100000000, addr := 0x100000000 }] } : Core).misses ≠ [] :=
  ⟨alone_of _ _ _ (by decide) rfl rfl ⟨_, rfl⟩ rfl (by decide) ⟨rfl, rfl⟩ rfl rfl (fun _ => rfl), rfl, alone0 _ ⟨_, rfl⟩ rfl, rfl, rfl, by decide⟩

/-- G4 is the mask of G5 and G6; the base G0 is 0. -/
def smmCore : Core := { running with arch := { banks := [(0, { priv := 2, g := [(4, 96)] })] } }
theorem witness_StoreMultiple : (onCore smmCore).Alone at0 { op := .smm 0 4, mem := true, multi := true, regs := [0, 4] } ∧ smmCore.arch.bk.mprog = 0
    ∧ (smmCore.push (pieceEntries true [⟨0, 8, 0⟩] (leBytes 8 0) ++ pieceEntries true [⟨8, 8, 0⟩] (leBytes 8 0))).sbLoad ≤ 32 ∧ 2 ≤ smmCore.room :=
  ⟨alone_of _ _ _ (by decide) rfl rfl ⟨_, rfl⟩ rfl (by decide) ⟨rfl, rfl⟩ rfl rfl (fun _ => rfl), rfl, by decide, by decide⟩

theorem witness_FillsAndMaintenance : (onCore running).Alone at0 { op := .fill 5 6, mem := true, regs := [5, 6] } ∧ (onCore running).Alone at0 { op := .filll 5 6, mem := true, regs := [5, 6] }
    ∧ (onCore running).Alone at0 { op := .maint .clean 0, mem := true } ∧ (((onCore running).core 0).push [.maint .clean 0]).sbLoad ≤ 32
    ∧ (((onCore running).core 0).push (pieceEntries true [⟨0, 128, 0⟩] ((List.range 16).flatMap (fun _ => leBytes 8 0)))).sbLoad ≤ 32 :=
  ⟨alone0 _ ⟨_, rfl⟩ rfl, alone0 _ ⟨_, rfl⟩ rfl, alone0 _ ⟨_, rfl⟩ rfl, by decide, by decide +kernel⟩

theorem witness_LoadMultipleMovesAndPrefetchIssue : (onCore smmCore).Alone at0 { op := .lmm 0 4, mem := true, multi := true, regs := [0, 4] }
    ∧ (onCore running).Alone at0 { op := .mvb 5 6, mem := true, regs := [5, 6] } ∧ (onCore running).Alone at0 { op := .mvl 5 6, mem := true, regs := [5, 6] }
    ∧ (onCore running).Alone at0 { op := .pref 0 0, mem := true } :=
  ⟨alone_of _ _ _ (by decide) rfl rfl ⟨_, rfl⟩ rfl (by decide) ⟨rfl, rfl⟩ rfl rfl (fun _ => rfl), alone0 _ ⟨_, rfl⟩ rfl, alone0 _ ⟨_, rfl⟩ rfl, alone0 _ ⟨_, rfl⟩ rfl⟩

/-- Nothing that an LMM, a move or a prefetch reads at address 0 is in the caches, or in a DEV region. -/
theorem witness_LoadMultipleMovesAndPrefetchIssue_misses : (∀ q ∈ [({ ea := 0, n := 8, need := .r } : Req), { ea := 0, n := 128, need := .r, align := 128, noDev := true }],
      ∀ ps ∈ [(onCore running).piecesOf 0 q], ps ≠ [] ∧ (ps.headD ⟨0, 0, 0⟩).mt ≠ 2 ∧ (onCore running).hitBytes (pairOf 0) ps = none)
    ∧ running.misses = [] ∧ (((onCore running).core 0).push [.hole 0 8]).sbLoad ≤ 32 ∧ (onCore running).translate running running.priv .r 0 = .ok 0 0 ∧ isCarve 0 = false
    ∧ (onCore running).backed 0 = true ∧ (onCore running).anyCopy 0 = none ∧ ((onCore running).cohLine 0).isSome = true ∧ isCarve carveLo = true
    ∧ ((onCore running).l3Put 0 { num := 0, dirty := false, data := 0 }).anyCopy 0 ≠ none := by decide +kernel
theorem witness_LoadMultipleMovesAndPrefetchIssue_room :
    ((onCore running).core 0).sbLoad + 2 ≤ 32 ∧ ((onCore running).core 0).sbLoad + 8 ≤ 32 ∧ (5 : Reg) ≠ 6 := by decide

theorem witness_ControlTransfersOpenADelayGroup : (onCore running).Alone at0 { op := .branch false 64 none 0, ct := true }
    ∧ (onCore running).Alone at0 { op := .branch true 64 (some 8) 1, ct := true } ∧ (onCore running).Alone at0 { op := .branch true 0 none 0, ct := true } :=
  ⟨alone0 _ ⟨_, rfl⟩ rfl, alone0 _ ⟨_, rfl⟩ rfl, alone0 _ ⟨_, rfl⟩ rfl⟩

theorem serial0 (c : Core) (z : Slot) (h : ∃ ps, ((onCore c).idled 0).groupCheck 0 (((onCore c).idled 0).core 0) [z] true = .ok ps) (r : (onCore c).ready 0 = true) (g : c.group = []) (m : c.misses = [])
    (a : c.arch.badPc = false ∧ c.arch.rest = [] ∧ ((onCore c).idled 0 |>.core 0).poisoned = none)
    (b : ((onCore c).idled 0).fetchQuiet (((onCore c).idled 0).core 0) [c.arch.pc.toNat] = true := by rfl) :
    (onCore c).Serial at0 z := { ready := r, stop := rfl, first := g, landed := m, aligned := a.1, whole := a.2.1, clean := a.2.2, backed := b, check := h }

/-- A core in bank 1, to which it has come by a trap. -/
def bank1 : Core := { running with arch := { bank := 1, banks := [(0, { priv := 2 }), (1, { priv := 2 })] } }
theorem witness_SerialisingInstructions : (onCore running).Serial at0 (serialSlot none false false false) ∧ (onCore running).Serial at0 (serialSlot none false false true)
    ∧ (onCore running).Serial at0 (serialSlot none true false false) ∧ (onCore bank1).Serial at0 (serialSlot none false false true) ∧ (onCore bank1).Serial at0 (serialSlot none true false false)
    ∧ running.priv = 2 ∧ bank1.priv = 2 ∧ bank1.arch.bank ≠ 0 :=
  ⟨serial0 _ _ ⟨_, rfl⟩ (by decide) rfl rfl ⟨rfl, rfl, rfl⟩, serial0 _ _ ⟨_, rfl⟩ (by decide) rfl rfl ⟨rfl, rfl, rfl⟩, serial0 _ _ ⟨_, rfl⟩ (by decide) rfl rfl ⟨rfl, rfl, rfl⟩,
   serial0 _ _ ⟨_, rfl⟩ (by decide) rfl rfl ⟨rfl, rfl, rfl⟩, serial0 _ _ ⟨_, rfl⟩ (by decide) rfl rfl ⟨rfl, rfl, rfl⟩, rfl, rfl, by decide⟩

theorem witness_ControlRegisterAndTimeAccess : ctlLevels 0 = some (0, some 0) ∧ ctlLevels 8 = some (2, some 2) ∧ (ctlLevels 49).isSome = true ∧ (ctlLevels 1).isSome = true
    ∧ (onCore running).Serial at0 (serialSlot none false false false) ∧ (onCore fpCore).Serial at0 (serialSlot none false true false)
    ∧ (∀ n ∈ [(0 : Nat), 49], (onCore running).ClosesRegs at0 { op := .mfc 5 n, fp := false }) ∧ (onCore running).Alone at0 { op := .rdtime 5, mem := true }
    ∧ (onCore running).checkedPair 0 = true :=
  ⟨by decide, by decide, by decide, by decide, serial0 _ _ ⟨_, rfl⟩ (by decide) rfl rfl ⟨rfl, rfl, rfl⟩, serial0 _ _ ⟨_, rfl⟩ (by decide) rfl rfl ⟨rfl, rfl, rfl⟩,
   fun _ _ => { ready := by decide, stop := rfl, few := by decide, check := ⟨_, rfl⟩, noRep := rfl, room := by decide, aligned := rfl, whole := rfl, backed := rfl, regs := rfl },
   alone0 _ ⟨_, rfl⟩ rfl, by decide⟩

def splitPair (c : Core) : State := { onCore c with pairs := [(0, { mode := .split })] }
theorem witness_unchecked : (splitPair running).dpx.follows = false ∧ (splitPair running).checkedPair 0 = false ∧ (splitPair running).Alone at0 { op := .rdtime 5, mem := true } :=
  ⟨rfl, by decide, alone_of _ _ _ (by decide) rfl rfl ⟨_, rfl⟩ rfl (by decide) ⟨rfl, rfl⟩ rfl rfl (fun _ => rfl)⟩

/-- A follower whose leader's next grant is an RDTIME of core 0. -/
def following : State := { onCore running with dpx := { State.reset.dpx with st := .paired, leadSt := false, order := [{ kind := 2, addr := 0, agent := 0, val := 77 }] } }
theorem witness_follower : following.dpx.follows = true ∧ following.Alone at0 { op := .rdtime 5, mem := true } :=
  ⟨rfl, alone_of _ _ _ (by decide) rfl rfl ⟨_, rfl⟩ rfl (by decide) ⟨rfl, rfl⟩ rfl rfl (fun _ => rfl)⟩

theorem witness_WordsJoinTheGroup : (onCore running).ready 0 = true ∧ ((onCore running).core 0).group.length < 3 ∧ running.arch.badPc = false := by decide

/-- REP of G8, which is n, has joined the group. -/
def repCore (n : Word) : Core := { running with group := [{ op := .rep 8 0, noDelay := true }], arch := { banks := [(0, { priv := 2, g := [(8, n)] })] } }
theorem witness_RepeatCountsDown : ∀ n ∈ [(1 : Word)], (onCore (repCore n)).ready 0 = true ∧ (repCore n).arch.badPc = false ∧ (repCore n).ct = false ∧ (repCore n).arch.rg 8 = n ∧ (repCore n).arch.repLeft = none ∧ (repCore n).arch.rest = [] ∧ (repCore n).sbLoad ≤ 32
    ∧ (onCore (repCore n)).fetchQuiet (repCore n) (fetchWords 0 [{ op := .rep 8 0, noDelay := true }, divSlot (.dstepF 4)]) = true
    ∧ ∃ ps, (onCore (repCore n)).groupCheck 0 (repCore n) [{ op := .rep 8 0, noDelay := true }, divSlot (.dstepF 4)] true = .ok ps :=
  fun n h => by rw [List.mem_singleton] at h; subst h; exact ⟨by decide, rfl, rfl, rfl, rfl, rfl, by decide, rfl, ⟨_, rfl⟩⟩
theorem witness_RepeatCountsDown_zero : (onCore running).ready 0 = true ∧
    ∃ ps, (onCore { running with group := [{ op := .rep 8 0, noDelay := true }] }).groupCheck 0 { running with group := [{ op := .rep 8 0, noDelay := true }] }
      [{ op := .rep 8 0, noDelay := true }, divSlot (.dstepF 4)] true = .ok ps := ⟨by decide, ⟨_, rfl⟩⟩
theorem witness_RepeatCountsDown_zeroFloat : fpCore.arch.fpu = true ∧
    ∃ ps, (onCore { fpCore with group := [{ op := .rep 8 0, noDelay := true }] }).groupCheck 0 { fpCore with group := [{ op := .rep 8 0, noDelay := true }] }
      [{ op := .rep 8 0, noDelay := true }, { op := .fstep 4, fp := true, md := true, freezing := true }] true = .ok ps := ⟨rfl, ⟨_, rfl⟩⟩

theorem witness_UndefinedOpcodesTrap : (onCore running).ready 0 = true ∧ running.group = [] ∧ running.arch.badPc = false ∧ running.arch.rest = [] ∧ (onCore running).fetchCheck ((onCore running).core 0) [((onCore running).core 0).arch.pc.toNat] = .ok
    ∧ (onCore running).fetchQuiet ((onCore running).core 0) [((onCore running).core 0).arch.pc.toNat] = true :=
  ⟨by decide, rfl, rfl, rfl, rfl, rfl⟩

/-! ## Witnesses: events of cores -/

/-- Vector 3 pends, unmasked, at priority 4. -/
def vecState : State := { onCore { running with arch := { banks := [(0, { priv := 0, ie := true })], vpend := 8, vmask := 8 } } with router := { vecs := [(3, { prio := 4 })] } }
theorem witness_InterruptsAndMachineChecksEnter : vecState.canEnter 0 = true ∧ (vecState.core 0).misses = [] ∧ (vecState.core 0).arch.repLeft = none ∧ (vecState.core 0).mchk = none
    ∧ (vecState.core 0).poisoned = none ∧ (vecState.core 0).poisonFlight = none ∧ (vecState.core 0).arch.bank ≠ 7 ∧ vecState.bestVec 0 true = some 3 ∧ (vecState.core 0).arch.bk.ie = true := by decide
theorem witness_InterruptsAndMachineChecksEnter_mchk : ∀ c ∈ [({ running with mchk := some (3, 5) } : Core), { running with poisoned := some 64 }],
    (onCore c).canEnter 0 = true ∧ c.misses = [] ∧ c.arch.repLeft = none ∧ c.poisonFlight = none
    ∧ ({ running with mchk := some (3, 5), arch := { infl := [{ res (.poison 640) 0 2 with wait := none }] } } : Core).poisonFlight = some 640 := by decide
theorem witness_InterruptsAndMachineChecksEnter_wait : ({ running with waiting := true, mchk := some (3, 5) } : Core).waiting = true
    ∧ (onCore { running with waiting := true, mchk := some (3, 5) }).wakes 0 = true ∧ (onCore { running with waiting := true, mchk := some (3, 5) }).checkedPair 0 = true
    ∧ (splitPair { running with waiting := true, mchk := some (3, 5) }).checkedPair 0 = false := by decide

theorem witness_TheBestVectorIsTaken : vecState.bestVec 0 true = some 3 ∧ (vecState.core 0).arch.bank < 6 := by decide

theorem witness_EntryTakesTheNextBank : ((onCore running).core 0).arch.bank < 6 ∧ ({ cause := .svc, info := 4095, slot := 3 } : Trap).cause ≠ .intr
    ∧ ({ cause := .svc, info := 4095, slot := 3 } : Trap).cause ≠ .mchk ∧ ({ cause := .svc, info := 4095, slot := 3 } : Trap).info < 4096 := by decide

def missing (src : MissSrc) (key : Option Nat) : Core := { running with misses := [{ id := 0, src := src, addr := 0, key := key }], nextMiss := 1 }
theorem witness_WhatACoreWaitsForArrives : ∀ c ∈ [missing (.parts [(0, 3, 1)] (1, .zero)) none, missing (.parts [(128, 0, 1)] (1, .zero)) none, missing (.cas2 128 0 0 0 1 1) (some 0), missing (.bitAt 0x100000000) none, missing (.rmw .add 0 8 3 0 1) (some 0), missing (.bitRmw 0x100000000 true) (some 0)],
    (onCore c).lcNumbered 0 = true ∧ (onCore c).moduleStopped = false ∧ (onCore c).dpx.frozen = false ∧ c.freezes = [] ∧ c.misses.length = 1
    ∧ c.misses.all (fun m => c.mayPerform m && (onCore c).turns (if m.hit then [] else m.src.grants 0)) = true := by decide
theorem witness_WhatACoreWaitsForArrives_bad : (State.readParts 0 false [] ((onCore running).poisonStripe (stripeOf 128)) [(128, 0, 1)]).val = none
    ∧ ((onCore running).rmwMem 0 128 8 0 id).val.isSome = true ∧ (onCore running).backed 64 = true ∧ (fwdBytes [] ⟨64, 1, 3⟩).all (fun b => b.isSome) = false ∧ (onCore running).bitPoison (bitAt 0x100000000) = none
    ∧ ({ running with freezes := [.subnormal] } : Core).freezes.contains .subnormal = true := by decide
theorem witness_WhatACoreWaitsForArrives_fetch : (onCore running).lcExists 0 = true ∧ (onCore running).translate running running.priv .x 0 = .ok 0 0
    ∧ (onCore running).backed 0 = true ∧ isCarve 0 = false
    ∧ ∀ need ∈ [Need.r, .w, .rw, .x], (onCore running).translate running running.priv need 128 = .ok 128 0 := by decide

def storing (k : SbKind) (v : BitVec 2) : Core := { running with sb := [{ kind := k, cov := v }] }
theorem witness_SealedStoresLeaveAndBarriersComplete : ∀ k ∈ [SbKind.mem 128 [7] false, .mem 128 [7] true, .scr 0 [7], .dev ctlLo 8 1 true, .bitw 0x100000000 .flip, .maint .clean 1, .maint .inval 1, .maint .clinv 1],
    (onCore (storing k 2)).lcNumbered 0 = true ∧ (onCore (storing k 2)).moduleStopped = false ∧ (storing k 2).sb = [{ kind := k, cov := 2 }] ∧ (storing k 2).readFirst = false ∧ (onCore (storing k 2)).dpx.frozen = false
    ∧ (onCore (storing k 2)).releaseWaits 0 k = false ∧ (onCore (storing k 2)).turns (k.grants 0) = true
    ∧ ((onCore (storing k 2)).setCore 0 { storing k 2 with sb := [] }).backed 128 = true ∧ ((onCore (storing k 2)).setCore 0 { storing k 2 with sb := [] }).backed 0 = true ∧ isCarve 128 = false := by decide
theorem witness_SealedStores_unsealed : (storing (.scr 0 [7]) 0).sb = [{ kind := .scr 0 [7] }] ∧ ({ kind := .scr 0 [7] } : SbEntry).cov ≠ 2 := by decide
theorem witness_Barriers : ∀ b ∈ [Barrier.fence, .fenceS, .fenceD, .tlbiV 0 0, .tlbiI 0, .tlbiA], ∀ c ∈ [({ running with barrier := some b } : Core)],
    c.run = .running ∧ c.misses = [] ∧ c.barrier = some b ∧ c.sb = [] ∧ c.devOut = []
    ∧ (onCore c).cores.all (fun e => e.2.sb.isEmpty && e.2.misses.isEmpty && e.2.devOut.isEmpty && e.2.arch.rest.isEmpty) = true := by decide
theorem witness_Barriers_clean : ({ running with freezes := [.cacheClean] } : Core).freezes.contains .cacheClean = true := by decide

def devCore (w : Bool) : Core := { running with devOut := [{ pa := ctlLo, size := 8, write := w, val := 0, miss := if w then none else some 0, tmo := 64 }],
                                                 misses := if w then [] else [{ id := 0, src := .dev (8, .zero), addr := ctlLo }] }
theorem witness_DevAccessesComplete : ∀ w ∈ [true, false], ((onCore (devCore w)).core 0).devOut[0]?.isSome = true ∧ ((devCore w).devOut.all (fun d => d.write == w)) = true
    ∧ (((devCore w).devOut.take 0).any (fun _ => true)) = false ∧ (onCore (devCore w)).dpx.st ≠ .paired ∧ (onCore (devCore w)).time.ticks < 0 + 1 + 64 := by decide
/-- As it stands after 65 ticks, and paired. -/
theorem witness_DevAccessesComplete_times : 0 + 1 + 64 ≤ ({ onCore (devCore true) with time := { ticks := 65 } } : State).time.ticks ∧ following.dpx.st = .paired := by decide
theorem witness_DevAccessesComplete_load : (devCore false).devOut = [{ pa := ctlLo, size := 8, write := false, val := 0, miss := some 0, tmo := 64 }]
    ∧ ({ devCore false with devOut := [{ pa := ctlLo, size := 8, write := false, val := 0, miss := none }] } : Core).devOut[0]?.map (·.miss) = some none := by decide

def askedFor (k : InKind) (e o : Option Sample) (h : List Nat) : Core := { running with inputs := [{ kind := k, e := e, o := o, id := 0 }], haltReq := h }
theorem witness_InputsAreAgreedByBothHalves : (askedFor (.intr 3) none none []).inputs = [{ kind := .intr 3, e := none, o := none, id := 0 }]
    ∧ (askedFor .wake none none []).inputs = [{ kind := .wake, e := none, o := none, id := 0 }]
    ∧ (askedFor .halt none none [3]).haltReq ≠ [] ∧ (askedFor .halt none none [3]).inputs = [{ kind := .halt, e := none, o := none, id := 0 }]
    ∧ (askedFor .halt none none [3]).run = .running ∧ vecState.bestVec 0 true = some 3 ∧ (onCore running).bestVec 0 true = none
    ∧ ({ running with haltReq := [3] } : Core).halting = false ∧ (onCore { running with haltReq := [3] }).checkedPair 0 = true := by decide
theorem witness_InputsAreAgreed_lag : ({ onCore (askedFor .rdtime (some { val := 7, clk := 0 }) (some { val := 7, clk := 0 }) []) with dpx := { frozen := true } } : State).dpx.frozen = true
    ∧ (onCore running).dpx.frozen = false := by decide
theorem witness_InputsAreAgreed_time : ∀ a ∈ [({ val := 7, clk := 0 } : Sample)], ∀ b ∈ [({ val := 8, clk := 0 } : Sample)], ∀ d ∈ [({ val := 17, clk := 0 } : Sample)],
    (b.val = a.val ∨ b.val = a.val + 1) ∧ a.clk = b.clk ∧ a.val ≠ d.val ∧ a.val + 1 ≠ d.val ∧ d.val + 1 ≠ a.val := by decide

theorem witness_CheckpointsSealOrRollBack : (onCore running).lcExists 0 = true ∧ (onCore running).moduleStopped = false ∧ running.misses = []
    ∧ running.arch.infl.any (fun f => f.wait.isSome) = false ∧ (onCore running).isRx7 0 = false ∧ running.owed = 0 ∧ (onCore running).checkedPair 0 = true ∧ running.freezes.contains .restore = false ∧ running.persistent = false := by decide
theorem witness_CheckpointsSealOrRollBack_capturing : ({ running with capturing := some {} } : Core).capturing = some {} ∧ ({ running with capturing := some {} } : Core).inRetry = false
    ∧ ({ running with capturing := some {} } : Core).run = .running ∧ (onCore { running with capturing := some {} }).lcExists 0 = true ∧ ({ running with capturing := some {} } : Core).persistent = false
    ∧ running.sealed.misses.all (fun m => m.key.isNone) = true ∧ running.halting = false ∧ ({ running with freezes := [.restore] } : Core).freezes.contains .restore = true
    ∧ ({ running with halting := true, capturing := some {} } : Core).standsAt {} = true ∧ running.freezes.contains .sparing = false ∧ ({ run := .halted, capturing := some {} } : Core).run = .halted := by decide

theorem witness_FailedHalvesAreSpared : ({ running with persistent := true } : Core).persistent = true ∧ ((onCore { running with persistent := true }).pair 0).mode = .checked
    ∧ ((onCore running).pair 0).suspect = false ∧ ((onCore running).chip 0).spareE = true ∧ ((onCore running).chip 0).spareO = true
    ∧ (({ onCore running with chips := [(0, { spareE := false })] } : State).chip 0).spareE = false ∧ (onCore running).lcExists 0 = true
    ∧ ({ running with freezes := [.sparing] } : Core).freezes.contains .sparing = true := by decide

/-- Source 100 is enabled, for vector 3 of core 0. -/
def erState (e : ErSrc) : State := { splitPair running with router := { srcs := [(100, e)] } }
theorem witness_EventsReachTheirVector : ∀ s ∈ [erState { en := true, dst := 3 }], (s.er 100).level = false ∧ (s.er 100).en = true ∧ (s.er 100).virt = false ∧ (s.er 100).lc = 0
    ∧ s.lcExists 0 = true ∧ s.checkedPair 0 = false ∧ (s.cv 0 3).next ≤ s.time.ticks ∧ (s.er 100).held = false ∧ (s.er 100).mode = false ∧ s.erStands 100 = false ∧ bit (s.core 0).arch.vpend.toNat (s.er 100).vec = false ∧ (s.core 0).hasIntr (s.er 100).vec = false ∧ s.dpx.st ≠ .paired := by decide
theorem witness_EventsReachTheirVector_others : ((erState { level := true }).er 100).level = true ∧ ((erState {}).er 100).en = false ∧ ((erState {}).er 100).held = false
    ∧ ({ erState {} with router := { vecs := [(3, { next := 9 })] } } : State).time.ticks < (({ erState {} with router := { vecs := [(3, { next := 9 })] } } : State).cv 0 3).next
    ∧ (erState {}).moduleStopped = false ∧ isCtl ctlLo = true ∧ isAperture ctlLo = false ∧ ctlLo % 8 = 0 := by decide

/-! ## Witnesses: device time -/

def timeState (t : TimeSt) : State := { State.reset with time := t }
theorem witness_DeviceTimeIsDisciplined : ∀ t ∈ [({ pref1 := 1, pref2 := 2 } : TimeSt)], t.named 1 = true ∧ t.named 2 = true ∧ t.gmid = 0
    ∧ (t.meas 1).qualified = false ∧ (t.meas 2).qualified = false ∧ steady [5] = false ∧ t.unsync = true ∧ t.phsrc ≠ 1 ∧ t.phsrc ≠ 2 := by decide
theorem witness_DeviceTimeIsDisciplined_active : ∀ k ∈ [(1 : BitVec 2), 2], ∀ t ∈ [(({ unsync := false, pref1 := 1, pref2 := 2, phsrc := k } : TimeSt).setMeas k { offs := [1, 1, 1, 1], qualified := true })],
    t.named k = true ∧ t.unsync = false ∧ t.phsrc = k ∧ t.best = k ∧ (t.pps.qualified && t.ptp.qualified) = false := by decide
theorem witness_DeviceTimeIsDisciplined_first : ∀ t ∈ [({ pref1 := 1, pref2 := 2, ptp := { offs := [1, 1, 1] } } : TimeSt)], t.ptp.qualified = false ∧ t.pps.qualified = false
    ∧ steady (-(-1) :: t.ptp.offs.take 3) = true ∧ t.unsync = true ∧ t.setTime = none ∧ t.phsrc = 0 ∧ t.named 2 = true := by decide
/-- Nothing is due at its tick. -/
theorem witness_DeviceTimeIsDisciplined_quiet : ∀ w ∈ [{ State.reset with
      time := { ({ pref1 := 1, pref2 := 2 } : TimeSt).setMeas 2 { offs := [1, 1, 1, 1], qualified := true, small := 1, left := 1 } with dtime := 1, offset := satOffset 1, hold := false, hold24 := false } }],
    w.doDue = w ∧ w.inst.insts.all (fun e => !e.2.epochWait) = true := by decide +kernel
theorem witness_DeviceTimeIsDisciplined_losses : (({} : TimeSt).meas 1).qualified = false ∧ (({ pps := { qualified := true } } : TimeSt).meas 1).qualified = true
    ∧ (({ ptp := { qualified := true } } : TimeSt).meas 2).qualified = true ∧ ({ flock := true } : TimeSt).flock = true
    ∧ (∀ t ∈ [({ hold := true } : TimeSt)], t.hold = true ∧ t.hold24 = false) ∧ (∀ t ∈ [({ trefhz := 1 } : TimeSt)], t.trefhz ≠ 0 ∧ t.flock = false)
    ∧ ({ slew := true } : TimeSt).slew = true ∧ ({ slew := true } : TimeSt).dtofs.toInt.natAbs ≤ 1000000
    ∧ (∀ t ∈ [({ slew := true, dtofs := 2000000, phsrc := 1 } : TimeSt)], t.slew = true ∧ t.hold = false ∧ t.phsrc ≠ 0 ∧ 1000000 < t.dtofs.toInt.natAbs ∧ t.removed < 2048 * 9999) ∧ ({ setTime := some (1, 2) } : TimeSt).setTime = some (1, 2) := by decide

def pupServes : State := { State.reset with pup := { State.reset.pup with st := .serving } }
theorem witness_pupUp : pupServes.pupUp = true := by decide

/-! ## Witnesses: the array -/

def sqState (x : Sequencer) : State := { State.reset with arr := { seqs := [(0, x)], vats := [(0, { st := .ready, part := 0 })] } }
/-- A sequencer that runs a job. -/
def sqRun : Sequencer := { st := .run, used := true, job := some {} }

theorem witness_SequencerScalarResults : (sqState sqRun).sqReady 0 = true ∧ ((sqState sqRun).sq 0).inner ((sqState sqRun).sq 0).pc = none ∧ ((sqState sqRun).sq 0).pc < 8191 ∧ ((sqState sqRun).sq 0).undef = false := by decide
theorem witness_sqGoes (x : Sequencer) (h1 : (sqState x).sqReady 0 = true) (h : x.undef = false) (h2 : x.inner x.pc = none) (h3 : x.pc < 8191) : (sqState x).sqGoes 0 := ⟨h1, h, h2, h3⟩

theorem witness_SequencerBranchesAndLoops : ∀ x ∈ [{ sqRun with orHas := true, orLeft := 3 }, { sqRun with orHas := true, orVal := true }, { sqRun with orHas := true }],
    (sqState x).sqReady 0 = true ∧ x.inner x.pc = none ∧ x.orHas = true := by decide
theorem witness_SequencerBranchesAndLoops_loop : ∀ x ∈ [{ sqRun with s := [(2, 5)] }, sqRun],
    (sqState x).sqReady 0 = true ∧ x.inner x.pc = none ∧ x.loopOn 1 = false ∧ (3 : Nat) < 8192 := by decide
theorem witness_SequencerBranchesAndLoops_counts : ({ sqRun with s := [(2, 5)] } : Sequencer).sr 2 = 5 ∧ sqRun.sr 2 = 0 := by decide

theorem witness_SequencerArrayInstructions : CellOp.illegal { slot := 0, i0 := 0, i1 := 2, i2 := 3, rd := 0, cd := false, gang := false, pr := 0, pw := 0, rix := 0, wix := 0, gle := false, gln := 0, ors := 1, z := false } = false := by decide
theorem witness_SequencerArrayInstructions_pairs : ∀ k ∈ [({ slot := 0, i0 := 0, i1 := 2, i2 := 3, rd := 0, cd := false, gang := false, pr := 0, pw := 0, rix := 0, wix := 0, gle := false, gln := 0, ors := 0, z := false } : CellOp)],
    CellOp.illegal k = false ∧ ((sqState sqRun).cellCycle 0 k).differs = [] ∧ sqRun.xfer = none ∧ ((sqState sqRun).vat 0).mport = none
    ∧ (({ sqState sqRun with arr := { (sqState sqRun).arr with vats := [(0, { st := .ready, part := 0, chk := true, pe := { x := [(0, 1)] } }), (1, { st := .ready, part := 0, chk := true })] } } : State).cellCycle
        0 k).differs = [0] := by decide +kernel
theorem witness_SequencerArrayInstructions_bits : ∀ x ∈ [{ sqRun with s := [(2, 0x100000000)] }], ∀ o ∈ [({ d := 0, a := 2, b := 0, z := 0, imm := 0 } : SqOp)],
    (sqState x).sqReady 0 = true ∧ ((sqState x).sqBit x o).isSome = true ∧ ({ (sqState x) with bits := [(0, true)] } : State).bitGet 0 (bitAt 0x100000000) = true := by decide

theorem witness_SequencerTransfersAndEnds : ∀ x ∈ [{ sqRun with s := [(2, 8192)] }], (sqState x).sqReady 0 = true ∧ x.xfer = none ∧ (sqState x).cap 0 = none ∧ (x.sr 2).toNat % 4096 = 0 := by decide
theorem witness_SequencerTransfersAndEnds_busy : ∀ x ∈ [{ sqRun with xfer := some { idx := 0, entry := [], addr := 0, moved := [], out := 0 } }], (sqState x).sqReady 0 = true ∧ x.xfer ≠ none := by decide

theorem witness_WaitingSequencersGoOn : ∀ w ∈ [SqWait.orrd 2, .bor true 7, .sbwait 0x100000000], ∀ x ∈ [{ sqRun with st := .wait, waits := w }],
    (sqState x).moduleStopped = false ∧ ((sqState x).sq 0).st = .wait ∧ ((sqState x).sq 0).waits = w
    ∧ ({ (sqState x) with bits := [(0, true)] } : State).bitGet 0 (bitAt 0x100000000) = true := by decide
theorem witness_WaitingSequencersGoOn_waits : ∀ x ∈ [{ sqRun with waits := .sbld 2 0x100000000 }], (sqState x).moduleStopped = false ∧ x.st = .run ∧ x.waits = .sbld 2 0x100000000
    ∧ ∀ y ∈ [{ sqRun with st := .wait, waits := .tokens 3 0x8000 [2] }], (sqState y).dpx.frozen = false ∧ y.st = .wait ∧ y.waits = .tokens 3 0x8000 [2] := by decide
/-- Plane 5 of Vat 0 is to be stored, 64 words, of which k have been moved; it may be checked, and stands at another plane word. -/
def planeEntry : List Byte := [1, 1, 0, 0] ++ leBytes 2 1 ++ leBytes 16 0 ++ leBytes 2 5 ++ leBytes 2 1 ++ List.replicate 36 0
def moving (k : Nat) (wins : Tab LockWin) : State := sqState { sqRun with wins := wins, xfer := some { idx := 0, entry := planeEntry, addr := 0x2000, moved := [(0, k)], out := 0 } }
def movingOf (k : Nat) : XferSt := { idx := 0, entry := planeEntry, addr := 0x2000, moved := [(0, k)], out := 0 }
theorem witness_WaitingSequencersGoOn_moulds : ((moving 1 []).sq 0).xfer = some (movingOf 1) ∧ (moving 1 []).xVats 0 planeEntry = some [0] ∧ (moving 1 []).mouldBusy 0 0 = false
    ∧ (moving 1 []).mouldBusy 7 0 = true ∧ (sqState sqRun).mouldBusy 0 0 = false := by decide
theorem witness_WaitingSequencersGoOn_moves : (State.moveUnits 0 [0] 0 1 (moving 1 []) (movingOf 1)).2.2 = .moved ∧ (State.moveUnits 0 [0] 0 1 (moving 1 []) (movingOf 1)).2.1.over [0] = false
    ∧ (State.moveUnits 0 [0] 0 1 (moving 63 []) (movingOf 63)).2.1.over [0] = true
    ∧ (State.moveUnits 0 [0] 0 1 (moving 1 [(0, { en := true, phi := 9, rhi := 9 })]) (movingOf 1)).2.2 = .waits := by decide +kernel
theorem witness_WaitingSequencersGoOn_ends : (State.moveUnits 0 [0] 0 1 (moving 1 []) { movingOf 1 with addr := 2 ^ 40 }).2.2 = .ended scMouldFault
    ∧ (∀ s ∈ [({ moving 1 [] with arr := { (moving 1 []).arr with vats := [(0, { st := .ready, part := 0, chk := true, planes := [(5 * 64 + 1, 1)] }), (1, { st := .ready, part := 0, chk := true })] } } : State)],
      (State.moveUnits 0 [0] 0 1 s (movingOf 1)).2.2 = .differs 0 ∧ s.pairSame 0 = false ∧ (s.vat 0).chk = true ∧ s.pairSame 2 = true) := by decide +kernel
theorem witness_WaitingSequencersGoOn_transfer : ∀ e ∈ [leBytes 64 (2 ^ 32)], ∀ x ∈ [{ sqRun with xfer := some { idx := 0, entry := e, addr := 0x2000, moved := [], out := 0 } }],
    (sqState x).moduleStopped = false ∧ x.st = .run ∧ x.xfer.isSome = true ∧ ((sqState x).xVats 0 e).isSome = true := by decide

/-- Queue pair 0 of instance 0 stands with descriptor d at its head, in a ring at 0x1000; its completion ring is at 0x2000. -/
def ringed (s : State) (x : Qp) (d : List Byte) : State :=
  { s with inst := { s.inst with qps := [(0, { x with owner := some 0, made := true, sqlog := 4, cqlog := 4, sqbase := 0x1000, cqbase := 0x2000, tailptr := 0x3000, headptr := 0x3008, vvec := vvNone, tail := 1 })] },
           mem := { s.mem with near := Tab.setMany 0 [] 0x1000 d } }
def desc (opc : Nat) (fs : List Byte) : List Byte := (leBytes 4 opc ++ leBytes 4 0 ++ leBytes 8 77 ++ fs ++ List.replicate 48 0).take 64

/-- An ARUN of partition handle 5, with KEEP and no transfer table. -/
def arunDesc : List Byte := desc 0x40 (leBytes 2 5 ++ [4])
def arunState : State := ringed { sqState { used := true, ph := 5, st := .idle } with arr := { (sqState { used := true, ph := 5, st := .idle }).arr with parts := [(5, { owner := some 0, planned := true, sq := 0, vats := [0] })] } } { kind := 1, ph := 5 } arunDesc
theorem witness_ArrayJobsRun_fields : arunOk arunDesc = true ∧ dF arunDesc 0 2 = 5 := by decide
theorem witness_ArrayJobsRun : (arunState.skipRefused 0).headIs 0 0x40 = some arunDesc ∧ ((arunState.skipRefused 0).qp 0).ph = 5 := by decide +kernel
theorem witness_ArrayJobsRun_part : (arunState.part 5).kept.job = none ∧ (arunState.sq 0).used = true ∧ (arunState.sq 0).st ≠ .stopped ∧ (arunState.sq 0).ph = 5 ∧ (arunState.sq 0).job = none ∧ arunState.cap 0 = none
    ∧ arunState.partVats 0 ≠ [] ∧ ∀ v ∈ arunState.partVats 0 ++ (arunState.part 5).vats, (arunState.vat v).st = .ready := by decide +kernel
theorem witness_ArrayJobsRun_events : ∀ x ∈ [{ sqRun with st := .progload, job := some { flags := 4 } }, { sqRun with st := .progload, job := some { prog := 0x1400000000, plen := 1 } },
      { sqRun with st := .stopped }, { sqRun with job := some { limit := 2 }, epochs := 2 }],
    x.job.isSome = true ∧ (x.st = .stopped ∨ x.st = .progload ∨ x.st = .run) ∧ (sqState x).moduleStopped = false ∧ (sqState x).cap 0 = none ∧ 0 < (sqState x).nSqs := by decide
theorem witness_ArrayJobsRun_noProgram : ∃ a, (sqState { sqRun with st := .progload, job := some { prog := 0x1400000000, plen := 1 } }).agentRead 0 0x1400000000 8 = .fault a := ⟨_, rfl⟩
theorem witness_ArrayJobsRun_fault : ((sqState sqRun).report 880 { pay 2 with unit := 3 }).moduleStopped = false ∧ ((sqState sqRun).report 880 { pay 2 with unit := 3 }).cap 0 = none := by decide +kernel

def capt (c : Capture) (x : Sequencer) : State := { sqState x with arr := { (sqState x).arr with caps := [(0, some c)] } }
def capNew : Capture := { addr := 0x10000, by_ := 1, mb := 3, pre := .run, edge := false, todo := [], failed := false }
theorem witness_CapturesAndSwitches : (capt capNew sqRun).cap 0 = some capNew ∧ (capt capNew sqRun).moduleStopped = false ∧ sqRun.waits = .none ∧ sqRun.st ≠ .progload ∧ capNew.failed = false := by decide
theorem witness_CapturesAndSwitches_block : ((capt capNew sqRun).capWrite 0 capNew 0 (sqRun.block sqRun.st)).2 = .ok :=
  State.agentStore_near _ _ _ _ _ (by rw [Sequencer.block_length]; decide)
theorem witness_CapturesAndSwitches_vat : ∀ c ∈ [{ capNew with edge := true, todo := [0] }], (capt c sqRun).cap 0 = some c ∧ c.edge = true ∧ 0 ∈ c.todo ∧ ((capt c sqRun).vat 0).part = 0 ∧ ((capt c sqRun).vat 0).chk = false := by decide
theorem witness_CapturesAndSwitches_vatBlock (s : State) : ((capt { capNew with edge := true, todo := [0] } sqRun).capWrite 0 capNew seqBlockLen (s.vatBlock 0 5)).2 = .ok :=
  State.agentStore_near _ _ _ _ _ (by rw [State.vatBlock_length]; decide)
/-- Sequencer 0 runs partition handle 5, whose job is over; handle 6 has one. -/
def switching : State := { sqState { used := true, ph := 5, st := .idle } with arr :=
  { (sqState { used := true, ph := 5, st := .idle }).arr with parts := [(5, { planned := true }), (6, { planned := true, kept := { job := some {} } })] } }
theorem witness_CapturesAndSwitches_switch : switching.moduleStopped = false ∧ (switching.sq 0).used = true ∧ switching.time.atEpoch = true ∧ switching.cap 0 = none
    ∧ switching.nextPart 0 = some 6 ∧ switching.hasArrWork (switching.sq 0).ph = false := by decide
theorem witness_CapturesAndSwitches_restore : ∀ c ∈ [{ capNew with by_ := 2, edge := true, mb := 6 }],
    (({ capt c { st := .idle, used := true } with arr := { (capt c { st := .idle, used := true }).arr with vats := [] } } : State).partVats 0) = [] ∧ ((capt c { st := .idle, used := true }).part 6).image.isEmpty = true
    ∧ ((capt c { st := .idle, used := true }).part 6).saved = false := by decide +kernel

/-! ## Witnesses: channels -/

/-- Endpoint 1 of instance 0: NVMe, with one path. -/
def nvmeEp : Endp := { owner := some 0, made := true, typ := 1, paths := [{ lport := 0, st := .active }] }
def nvread : List Byte := desc 0x10 (leBytes 4 1 ++ leBytes 4 1 ++ leBytes 8 0 ++ leBytes 4 1 ++ leBytes 4 512 ++ leBytes 8 0x8000)
def nvbad : List Byte := desc 0x10 (leBytes 4 1 ++ leBytes 4 1 ++ leBytes 8 0 ++ leBytes 4 0 ++ leBytes 4 512 ++ leBytes 8 0x8000)
def chanState (d : List Byte) : State := ringed { State.reset with chan := { eps := [(1, nvmeEp)] } } {} d
theorem witness_ChannelOperationsEnterTheLedger : ∀ d ∈ [nvread, nvbad], ((chanState d).skipRefused 0).headIs 0 0x10 = some d ∧ ((chanState d).skipRefused 0).qpOwner 0 = 0
    ∧ ((chanState d).skipRefused 0).ledRoom 0 = true ∧ ((chanState d).skipRefused 0).ledFree 9 = true ∧ (((chanState d).skipRefused 0).spend 0 (chanCharges d)).isSome = true := by decide +kernel
theorem witness_ChannelOperations_ok : ((chanState nvread).skipRefused 0).chanOk 0 nvread = true ∧ ((chanState nvbad).skipRefused 0).chanOk 0 nvbad = false := by decide +kernel
def lackDesc : List Byte := desc 0x1F (leBytes 8 0 ++ leBytes 8 9)
def lackState : State := ringed { State.reset with chan := { led := [(9, { st := .complete, status := 0x0314, ins := 0 })] } } {} lackDesc
theorem witness_ChannelOperations_lack : (lackState.skipRefused 0).headIs 0 0x1F = some lackDesc ∧ ((lackState.skipRefused 0).spend 0 [(0, 1)]).isSome = true
    ∧ zeroAt lackDesc 16 8 = true ∧ zeroAt lackDesc 32 32 = true ∧ dF lackDesc 8 8 < 262144 := by decide +kernel
theorem witness_ChannelOperations_unknown : (lackState.led 9).st = .complete ∧ (lackState.led 9).status = 0x0314 ∧ (lackState.led 9).ins = 0 ∧ dF lackDesc 8 8 = 9 := by decide

def ledState (x : Led) (e : Endp) : State := { State.reset with chan := { led := [(9, x)], eps := [(1, e)] } }
def scsiDesc : List Byte := desc 0x18 (leBytes 2 1 ++ [0, 0, 6, 1] ++ List.replicate 26 0 ++ leBytes 8 0x8000 ++ leBytes 4 512)
theorem witness_TargetsAndNetworksSend : (ledState { st := .issued, attempt := 1, xid := 7, opc := 0x10, ep := 1 } nvmeEp).staleFor 9 7 = false
    ∧ (ledState { st := .issued, attempt := 1, xid := 7, opc := 0x10, ep := 1 } nvmeEp).staleFor 9 8 = true ∧ State.reset.dpx.st ≠ .paired
    ∧ (ledState { st := .issued, attempt := 1, xid := 7 } nvmeEp).ledPoison 9 = false ∧ (ledState { st := .issued, attempt := 1, xid := 7 } nvmeEp).bufferRoom 0 512 = true := by decide
/-- An entry in a poisoned stripe, and a port whose buffer is full. -/
theorem witness_TargetsAndNetworksSend_poison : (State.ledPoison ((ledState { st := .issued, attempt := 1 } nvmeEp).poisonStripe (stripeOf (carveLo + 128 * 9))) 9) = true
    ∧ ({ st := .issued, attempt := 1 } : Led).isOpen = true ∧ (({ State.reset with chan := { led := [(9, {})], ports := [(0, { st := 2 })], macroOff := List.range 256 } } : State).bufferRoom 0 262145) = false
    ∧ ((ledState {} nvmeEp).group 0).mode ≠ 3 := by decide +kernel
theorem witness_TargetsAndNetworksSend_data : ∀ x ∈ [({ st := .accepted, attempt := 1, xid := 7, opc := 0x18, dir := 1, ep := 1, desc := scsiDesc } : Led)],
    (ledState x nvmeEp).staleFor 9 7 = false ∧ x.pendStatus = none ∧ 4 ≤ cDlen x.desc ∧ (ledState x nvmeEp).oldGen 0 0 = false
    ∧ (ledState x nvmeEp).cRanges 0 x.desc = .ok [(0x8000, 512)] ∧ ((ledState x nvmeEp).room 0 (subRanges [(0x8000, 512)] 0 4 ++ piPart x 0 4) (4 + ((piPart x 0 4).map (·.2)).foldl (· + ·) 0)).2 = .ok := by decide +kernel
def netEp : Endp := { owner := some 0, made := true, typ := 5 }
/-- Send 9 of queue pair 0, with an older one on its way or none. -/
theorem witness_TargetsAndNetworksSend_order : ∀ k ∈ [(8 : Nat), 10], ∀ s ∈ [{ State.reset with chan := { eps := [(1, netEp)], led := [(k, { st := .issued, attempt := 1, opc := 0x1A, ep := 1, ord := k }),
      (9 + 9 * (k - 8), { st := .issued, attempt := 1, opc := 0x1A, ep := 1, ord := 9 })] } }], s.sendBehind (9 + 9 * (k - 8)) = decide (k = 8) := by decide
theorem witness_TargetsAndNetworksSend_frames : (ledState {} netEp).oldestRecv 1 = none
    ∧ (ledState { st := .issued, opc := 0x1B, ep := 1, attempt := 1, desc := desc 0x1B (leBytes 8 1 ++ leBytes 8 0x8000 ++ leBytes 4 9216) } netEp).oldestRecv 1 = some 9
    ∧ ((ledState {} netEp).room 0 [(0x8000, 64)] 64).2 = .ok := by decide +kernel
theorem witness_TargetsAndNetworksSend_inbound : ((ledState {} { netEp with typ := 6 }).agentStore 9 (({ netEp with typ := 6 } : Endp).path 0).lport 0 0x8000 [1, 2]).2 = .ok := by decide +kernel

def portState (g : PortGroup) (p : Port) (e : Endp) : State := { State.reset with chan := { groups := [(0, g)], ports := [(0, p)], eps := [(1, e)] } }
theorem witness_PortsAndPathsChangeState : (portState {} { st := 2 } {}).pathsOn 0 = [] ∧ ((portState {} { st := 2 } {}).port 0).st ≠ 0
    ∧ ((portState { mode := 3, ports := [(1, 1)] } {} {}).group 0).mode = 3 ∧ ((portState { mode := 3, ports := [(1, 1)] } {} {}).group 0).ports[0 % 8]? = some (1, 1)
    ∧ ((portState { mode := 3, ports := [(1, 1)] } {} {}).port 0).st ≠ 2 ∧ ((portState { mode := 1 } {} {}).group 0).mode = 1 := by decide
theorem witness_PortsAndPathsChangeState_paths : ∀ st ∈ [PathSt.connecting, .failed, .active, .standby], ∀ typ ∈ [2, 3, 4], ∀ e ∈ [({ made := true, typ := typ, retest := 1024, kato := 64, paths := [{ st := st }] } : Endp)],
    ((portState {} { st := 2 } e).ep 1).made = true ∧ (((portState {} { st := 2 } e).ep 1).path 0).st = st ∧ ((portState {} { st := 2 } e).port 0).st = 2
    ∧ (portState {} { st := 2 } e).ledsOf 1 = [] ∧ e.paths ≠ [] ∧ (portState {} { st := 2 } e).dpx.st ∉ [DpxSt.simplex, .pairing, .repair]
    ∧ (portState {} {} {}).time.ticks < (e.path 0).failAt + 1024 * e.retest ∧ (portState {} {} {}).time.ticks < (e.path 0).alive + e.kato ∧ (({ e with retest := 0, kato := 0 } : Endp).path 0).alive + 0 ≤ (portState {} {} {}).time.ticks
    ∧ (({ e with retest := 0 } : Endp).path 0).failAt + 1024 * 0 ≤ (portState {} {} {}).time.ticks := by decide
/-- In SIMPLEX of side A, port 4 is of the side that is fenced. -/
theorem witness_PortsAndPathsChangeState_lost : ∀ s ∈ [{ portState {} { st := 2 } {} with dpx := { st := .simplex, leadSt := true } }], s.dpx.st ∈ [DpxSt.simplex, .pairing, .repair]
    ∧ ((List.range 64).any (fun k => s.peerPort k)) = true ∧ ((List.range 64).any (fun k => !s.peerPort k)) = true := by decide

theorem witness_AttemptsTimeOutAndAreFenced : ({ st := .issued, attempt := 1, opc := 0x10 } : Led).live = true
    ∧ (∀ x ∈ [({ st := .issued, waiting := true } : Led), { st := .issued, waiting := true, attempt := 1 }], x.isOpen = true ∧ x.waiting = true ∧ x.drain = false ∧ x.pendStatus = none)
    ∧ ({ st := .issued, aborts := [(2, 7)] } : Led).aborts = [(2, 7)] ∧ ({ st := .issued, aborts := [(2, 7)] } : Led).drain = false ∧ ((ledState {} netEp).ep 1).paths = []
    ∧ ({ st := .issued, closing := [(2, 7)] } : Led).closing = [(2, 7)] ∧ ((ledState {} netEp).ep 1).typ ≠ 1
    ∧ (({ nvmeEp with paths := [{ closing := true }] } : Endp).path 0).closing = true := by decide
/-- The times at which a wait, an abort and the abort of an operation that has left run out, before and at their end. -/
theorem witness_AttemptsTimeOutAndAreFenced_times : (∀ e ∈ [({ nvmeEp with optmo := 9, abtmo := 9, kato := 9 } : Endp)], ∀ k ∈ [(0 : Nat), 9],
      ∀ s ∈ [{ ledState { st := .issued, waiting := true, aborts := [(2, 0)], ep := 1 } e with time := { ticks := k } }],
        ((s.led 9).since + (s.ep 1).optmo ≤ s.time.ticks ↔ k = 9) ∧ (0 + (s.ep 1).abtmo ≤ s.time.ticks ↔ k = 9) ∧ s.orphan 9 = none ∧ s.ledPoison 9 = false ∧ s.dpx.st ≠ .paired)
    ∧ ∀ o ∈ [({ lidx := 9, ep := 1, path := 0, sent := 0 } : Orphan)], ({ State.reset with chan := { orphans := [o], eps := [(1, { abtmo := 0 })] } } : State).orphan 9 = some o
        ∧ o.sent + (({ State.reset with chan := { orphans := [o], eps := [(1, { abtmo := 0 })] } } : State).ep o.ep).abtmo ≤ State.reset.time.ticks := by decide

/-- An abort of an old entry whose instance drains, which has been retired or not. -/
theorem witness_AttemptsTimeOutAndAreFenced_drain : ∀ st ∈ [LedSt.issued, .retired], ∀ x ∈ [({ st := st, attempt := 1, ep := 1, drain := true, aborts := [(0, 0)] } : Led)],
    ∀ s ∈ [ledState x { nvmeEp with abtmo := 0 }],
      ∀ y ∈ [(s.atEdge (fun t => (({ t with freeCtr := t.freeCtr + 1 } : State).setLed 9 { x with aborts := [], closing := [(0, 0)], tdead := x.tdead }).forceFence 1 0)).led 9],
        y.drain = true ∧ y.st = st ∧ s.orphan 9 = none ∧ s.ledPoison 9 = false ∧ 0 + (s.ep 1).abtmo ≤ s.time.ticks := by decide +kernel

/-! ## Witnesses: queues, vectors and instances -/

def idleQp : State := ringed State.reset {} []
theorem witness_QueuesVectorsAndResetsGoOn : ∀ s ∈ [{ idleQp with inst := { idleQp.inst with qps := [(0, { idleQp.qp 0 with bell := true })] } }],
    s.moduleStopped = false ∧ (s.qp 0).made = true ∧ (s.qp 0).err = false ∧ (s.ins (s.qpOwner 0)).st = .running ∧ (s.qp 0).kind = 0 ∧ (s.qp 0).bell = true := by decide
theorem witness_QueuesVectorsAndResetsGoOn_tail : (idleQp.qpRead 0 0x3000 8).2 = some (leBytes 8 0) ∧ (idleQp.qpRead 0 nearTop 8).2 = none := by decide +kernel
theorem witness_QueuesVectorsAndResetsGoOn_tables : Tab.wf {} State.reset.inst.insts = true ∧ (∀ e ∈ State.reset.inst.insts, Tab.wf {} e.2.bks = true) ∧ Tab.wf {} State.reset.chan.eps = true := by
  decide +kernel
theorem witness_QueuesVectorsAndResetsGoOn_vector : (({ State.reset with inst := { vvs := [(3, { deferred := true })] } } : State).vv 3).deferred = true
    ∧ (∀ s ∈ [({ State.reset with inst := { vvs := [(3, { deferred := true, next := 9 })] } } : State)], s.time.ticks < (s.vv 3).next)
    ∧ (∀ s ∈ [({ State.reset with inst := { vvs := [(3, { deferred := true })] } } : State)], (s.vv 3).next ≤ s.time.ticks ∧ s.time.atEpoch = true ∧ s.inst.refilled = false)
    ∧ ({ State.reset with time := { dtime := 1 } } : State).time.atEpoch = false := by decide
def instState (x : Inst) : State := { pupServes with inst := { insts := [(4, x)] } }
theorem witness_QueuesVectorsAndResetsGoOn_drain : ∀ s ∈ [instState { st := .draining, drainMb := some 2 }], s.pupUp = true ∧ (s.ins 4).st = .draining ∧ (s.ins 4).deferred = false
    ∧ (s.ins 4).epochWait = false ∧ s.fullConf = true ∧ s.drained 4 = true ∧ (s.ins 4).drainMb = some 2 ∧ s.dpx.st ≠ .paired ∧ (s.ins 4).sideDone = false := by decide
theorem witness_QueuesVectorsAndResetsGoOn_drains : ∀ b ∈ [false, true], ∀ s ∈ [{ instState { st := .draining, drainMb := some 2, sideDone := b } with dpx := { st := .paired, leadSt := true, peerDone := if b then [4] else [] } }],
    s.dpx.st = .paired ∧ s.fullConf = true ∧ s.drained 4 = true ∧ (s.ins 4).sideDone = b ∧ s.dpx.peerDone.contains 4 = b := by decide
theorem witness_QueuesVectorsAndResetsGoOn_deferred : ∀ s ∈ [instState { deferred := true }], (s.ins 4).deferred = true ∧ s.work 4 (fun g => g = ((s.ins 4).gen + 1) % 256) = 0
    ∧ (s.ins 4).drainMb = none := by decide
theorem witness_QueuesVectorsAndResetsGoOn_end : ∀ s ∈ [{ instState {} with chan := { eps := [(1, { owner := some 4 })] } }], (s.ins 4).st = .none ∧ (s.ep 1).owner = some 4 ∧ (s.ep 1).made = false := by decide

/-! ## Witnesses: engines -/

/-- A SHA-256 of 64 bytes at 0x8000 into 0x9000, and one that names a key slot, which it must not. -/
def khashDesc : List Byte := desc 0x34 (leBytes 8 0x8000 ++ leBytes 8 0x9000 ++ leBytes 4 64 ++ leBytes 4 32 ++ leBytes 4 0 ++ [0x10, 0] ++ leBytes 2 0)
def khashBad : List Byte := desc 0x34 (leBytes 8 0x8000 ++ leBytes 8 0x9000 ++ leBytes 4 64 ++ leBytes 4 32 ++ leBytes 4 7 ++ [0x10, 0] ++ leBytes 2 0)
theorem witness_EngineJobsRunAndEnd : ∀ d ∈ [khashDesc, khashBad], ((ringed State.reset {} d).skipRefused 0).headIs 0 0x34 = some d ∧ ((ringed State.reset {} d).skipRefused 0).inShare 0 255 2 = true
    ∧ (∀ a ∈ engCharges d, (((ringed State.reset {} d).skipRefused 0).bk 0 a.1).admits = true) ∧ (((ringed State.reset {} d).skipRefused 0).spend 0 (engCharges d)).isSome = true := by decide +kernel
theorem witness_EngineJobsRunAndEnd_fields : engOk khashDesc = true ∧ engOk khashBad = false ∧ leAt khashDesc 0 1 = 0x34 ∧ eAlg khashDesc = 0x10 ∧ eCmp khashDesc = false := by decide
def jobState (j : EngJob) : State := { State.reset with eng := { jobs := [(5, j)] } }
def khashJob : EngJob := { live := true, started := true, opc := 0x34, desc := khashDesc, ke := 2 }
theorem witness_EngineJobsRunAndEnd_prep : ∃ p, (jobState khashJob).prep 0 khashDesc = .ok p [(0x8000, 64)] [(0x9000, 32)] := ⟨_, rfl⟩
theorem witness_EngineJobsRunAndEnd_inputs : ∀ x ∈ [{ khashJob with src := [(0x8000, 64)], dst := [(0x9000, 32)] }], (∃ t bs, (jobState x).engInputs x = (t, some (bs, [], []), 0)) ∧ needsRnd x.opc = false ∧ x.window = false :=
  fun x h => by rw [List.mem_singleton] at h; subst h; exact ⟨⟨_, _, rfl⟩, rfl, rfl⟩
/-- An input that nothing backs, the boundary at which a job of a drained instance stops, and a job whose slot is not named. -/
theorem witness_EngineJobsRunAndEnd_early : (∃ t, (jobState khashJob).engInputs { khashJob with src := [(0x1400000000, 64)] } = (t, none, 0x0302))
    ∧ ({ khashJob with window := true } : EngJob).lastUnit = false ∧ (jobState { khashJob with started := false }).keyCheck 0 khashDesc = none ∧ needsParam khashDesc = false := ⟨⟨_, rfl⟩, rfl, rfl, rfl⟩
def gcmFault : List Byte := desc 0x30 (leBytes 8 0x8000 ++ leBytes 8 0x9000 ++ leBytes 4 64 ++ leBytes 4 64 ++ leBytes 4 0 ++ [0, 0] ++ leBytes 2 0 ++ leBytes 8 0x1400000000)
theorem witness_EngineJobsRunAndEnd_ended : ∃ st, (jobState { khashJob with desc := gcmFault }).prep 0 gcmFault = .ended st := ⟨_, rfl⟩
theorem witness_EngineJobsRunAndEnd_fault : ∀ x ∈ [({ live := true, started := true, opc := 0x20, ce := 3 } : EngJob), { live := true, started := true, opc := 0x20, ce := 3, restarted := true }],
    (jobState x).inShare x.ins 4 255 = true ∧ (jobState x).ceFree 4 = true ∧ ((jobState x).report 1067 { pay 2 with unit := 5, msub := 3 }).moduleStopped = false
    ∧ (((jobState x).report 1067 { pay 2 with unit := 5, msub := 3 }).job 5).live = true := by decide +kernel
theorem witness_EngineJobsRunAndEnd_authentication : (jobState {}).oldGen 0 0 = false ∧ ({ status := 0x0404, out := [], inlen := 0 } : EngRes).status ≠ 0 := by decide
theorem witness_EngineJobsRunAndEnd_squash : ∀ y ∈ [({ live := true, window := true, ins := 0, opc := 0x3C, desc := desc 0x3C [] } : EngJob)], ∀ k ∈ [(0 : Nat), 5], ∀ s ∈ [{ jobState y with time := { ticks := k } }],
    s.eng.jobs.filter (fun a => a.2.live && a.2.window && decide (a.2.ins = 0)) = [(5, y)] ∧ s.job 5 = y ∧ streams y.opc = false ∧ s.time.atEpoch = true ∧ (y.windowAt < s.time.ticks ↔ k = 5) := by decide

/-! ## Witnesses: memory upkeep and the collector -/

theorem witness_MemoryUpkeep_errors : (∀ s ∈ [({ State.reset with mem := { errs := [(5, [(2, 3)])], farFail := [(farLo / 256, 2)] } } : State)],
      (3, 3) ∉ s.errsOf 5 ∧ s.errsOf 5 ≠ [] ∧ Tab.get 0 s.mem.farFail (farLo / 128 / 2) = 0 + 2 ∧ s.decode 5 [(2, 12)] = .bad ∧ s.decode 5 [(2, 3), (4, 6)] = .bad)
    ∧ (∀ s ∈ [({ State.reset with mem := { scrubbed := [1], scrubPh := 3 } } : State)], 2 ∉ s.mem.scrubbed ∧ 1 ∈ s.mem.scrubbed ∧ s.mem.scrubPh ≠ 0) ∧ State.reset.mem.scrubPh = 0 := by decide
theorem witness_MemoryUpkeep : ({ State.reset with mem := { scrubOn := true } } : State).mem.scrubOn = true ∧ State.reset.sweepExists 4 = true ∧ State.reset.markedIn 0 = []
    ∧ ({ State.reset with mem := { devs := [(3, { marked := true })] } } : State).markedIn 0 = [3] ∧ (({ State.reset with mem := { devs := [(3, { marked := true })] } } : State).nmdev 3).marked = true
    ∧ (State.reset.nmdev 3).marked = false ∧ State.reset.time.atEpoch = true ∧ (Tab.get {} State.reset.mem.sweep 4).stepped = false
    ∧ (Tab.get {} ({ State.reset with mem := { sweep := [(4, { stepped := true })] } } : State).mem.sweep 4).stepped = true ∧ Tab.get none State.reset.mem.poison 5 = none := by decide

theorem witness_CollectorAndSnapshots : State.reset.srcAbsent 600 = false ∧ (State.reset.src 600).wire = false ∧ (State.reset.src 600).alarm = 0
    ∧ (∀ s ∈ [({ State.reset with rind := { srcs := [(600, { alarm := 2, pend := true })] } } : State)], 0 < (s.src 600).alarm ∧ (s.src 600).pend = true ∧ (s.src 600).race ≠ some s.time.ticks)
    ∧ (({ State.reset with rind := { srcs := [(600, { pend := true, race := some 0 })] } } : State).src 600).race = some State.reset.time.ticks
    ∧ ({ State.reset with rind := { stopped := true } } : State).moduleStopped = true := by decide
theorem witness_CollectorAndSnapshots_levels : State.reset.takenLevel 600 { pay 0 with unit := 8 } = 0 ∧ State.reset.takenLevel 600 { pay 1 with unit := 8 } = 1 ∧ State.reset.takenLevel 600 { pay 2 with unit := 8 } = 2
    ∧ State.reset.takenLevel 600 { pay 4 with unit := 8 } = 5 ∧ masterCore { pay 4 with unit := 8 } = none ∧ ({ pay 4 with unit := 8 } : Payload).ins = 0 ∧ State.reset.rind.stopped = false := by decide
theorem witness_CollectorAndSnapshots_snapshot : ∀ s ∈ [{ State.reset with perf := { snapEn := true } }], s.perf.snapEn = true ∧ s.perf.snapped = false ∧ s.time.atEpoch = true
    ∧ s.time.dtime.toNat / 1024 % s.perf.interval = 0 ∧ s.moduleStopped = false := by decide

/-! ## Witnesses: the Puppeteer and its mailboxes -/

theorem witness_ThePuppeteerBootsAndRestarts : ∀ s ∈ [{ State.reset with pup := { State.reset.pup with st := .restart } }], s.pup.st = .restart ∧ s.pup.live = none ∧ s.moduleStopped = false
    ∧ 16 ≤ ({ State.reset.pup with unserved := 16 } : PupSub).unserved ∧ s.pup.unserved < 16 ∧ s.time.atEpoch = true ∧ ({ State.reset with time := { dtime := 1 } } : State).time.atEpoch = false := by decide
theorem witness_ThePuppeteerBootsAndRestarts_boot : State.reset.pup.st = .boot ∧ State.reset.boardUp = true ∧ State.reset.pwr.faulted = false ∧ State.reset.pwr.warm = false
    ∧ State.reset.bootChoice.1 = some false ∧ ({ State.reset with fuse := { svnFloor := 9 } } : State).bootChoice.1 = none := by decide
theorem witness_ThePuppeteerBootsAndRestarts_trial : ∀ p ∈ [{ State.reset.pup with preB := true, bootTrial := true }], ∀ s ∈ [{ State.reset with pup := p }],
    s.pup.bootTrial = true ∧ s.pup.tried = false ∧ s.imgOk (!s.pup.active) = true ∧ s.imgOk s.pup.active = true := by decide
theorem witness_ThePuppeteerBootsAndRestarts_watchdog : ∀ c ∈ [{ running with wdN := 3, wdCnt := 3 }], c.wdN ≠ 0 ∧ c.wdN ≤ c.wdCnt ∧ (onCore c).lcNumbered 0 = true := by decide

/-- Mailbox m runs the command of opcode op, instance i and payload p. -/
def mbBytes (op i : Nat) (p : List Byte) : Tab Byte := Tab.setMany 0 [] 0 (leBytes 2 op ++ leBytes 2 0 ++ leBytes 2 p.length ++ leBytes 2 0 ++ leBytes 4 1 ++ leBytes 2 i ++ leBytes 18 0 ++ p)
def mbOn (s : State) (st : MbSt) (op i : Nat) (p : List Byte) : State := { s with pup := { s.pup with st := .serving, effmaj := 9, effmin := 1, mbs := [(2, { bytes := mbBytes op i p, st := st })] } }
def boxed (op i : Nat) (p : List Byte) : State := mbOn State.reset .running op i p

theorem witness_MailboxesTakeCommands : (State.reset.mb 2).st = .idle ∧ ((boxed 0x0101 0 []).mb 2).st = .running
    ∧ (mbOn State.reset .queued 0x0101 0 []).nextBox = some 2 ∧ (mbOn State.reset .queued 0x0101 0 []).nRunning < 8 ∧ (mbOn State.reset .queued 0x0101 0 []).refusal 2 = none
    ∧ (mbOn State.reset .queued 0x0155 0 []).refusal 2 = some 0x0001 ∧ ((mbOn State.reset .queued 0x0101 0 []).mb 2).lastOp = none ∧ State.reset.boardUp = true := by decide +kernel
theorem witness_MailboxesTakeCommands_net : ∀ s ∈ [{ pupServes with pup := { pupServes.pup with netReq := true, mnEn := true, mbs := [(0, { bytes := mbBytes 0x0101 0 [], st := .queued, lastOp := some 0x0101, lastSeq := 1 })] } }],
    s.nextBox = some 0 ∧ s.nRunning < 8 ∧ (s.mb 0).lastOp = some (s.mbOp 0) ∧ (s.mb 0).lastSeq = s.mbSeq 0 ∧ bit (s.mbF 0 2 2) 0 = false ∧ s.mbHolds = false ∧ (s.mb 0).ven = false := by decide +kernel
theorem witness_MailboxesTakeCommands_again : ∀ s ∈ [{ pupServes with pup := { pupServes.pup with mbs := [(2, { bytes := mbBytes 0x0101 0 [], st := .queued, lastOp := some 0x0101, lastSeq := 1 })] } }],
    s.nextBox = some 2 ∧ (s.mb 2).lastOp = some (s.mbOp 2) ∧ (s.mb 2).lastSeq = s.mbSeq 2 ∧ bit (s.mbF 2 2 2) 0 = false := by decide +kernel

theorem witness_InstanceCommands_runs : ∀ op ∈ [0x0201, 0x0202, 0x0203, 0x0204, 0x0205, 0x0206, 0x0207, 0x0208, 0x0209, 0x020A], (boxed op 4 []).runs 2 op = true ∧ (boxed op 4 []).mbInst 2 = 4
    ∧ ((boxed op 4 []).ins 4).st = .none := by decide +kernel
/-- A plan of four queue pairs. -/
def planBytes : List Byte := leBytes 4 64 ++ leBytes 4 4 ++ leBytes 19 0 ++ [1] ++ leBytes 188 0 ++ (List.range 5).flatMap (fun _ => leBytes 4 1 ++ leBytes 4 16 ++ leBytes 4 1)
theorem witness_InstanceCommands_plan : (boxed 0x0202 4 planBytes).planBad 2 = false ∧ (boxed 0x0202 4 planBytes).planTaken ((boxed 0x0202 4 planBytes).planOf 2) = false
    ∧ (boxed 0x0202 4 []).planBad 2 = true := by decide +kernel
theorem witness_InstanceCommands_taken : ∀ s ∈ [{ boxed 0x0202 4 planBytes with inst := { qps := [(65, { owner := some 0 })] } }], s.planTaken (s.planOf 2) = true := by decide +kernel
def prepared (op : Nat) (p : List Byte) (x : Inst) : State := { boxed op 4 p with inst := { insts := [(4, x)] } }
theorem witness_InstanceCommands_qp : ∀ s ∈ [boxed 0x0203 0 (leBytes 4 9 ++ [0, 4, 4, 0] ++ leBytes 8 0x10000 ++ leBytes 8 0x20000 ++ leBytes 8 0x30000 ++ leBytes 8 0x30008 ++ leBytes 4 0xFFFFFFFF)],
    s.setupOpen (s.mbInst 2) = true ∧ (s.qp (s.mbP 2 0 4)).made = false ∧ s.mayOwn (s.mbInst 2) (s.qp (s.mbP 2 0 4)).owner = true ∧ s.mbP 2 8 8 % 2 ^ (6 + s.mbP 2 5 1) = 0
    ∧ s.mbP 2 16 8 % 2 ^ (5 + s.mbP 2 6 1) = 0 ∧ s.mbP 2 24 8 % 8 = 0 ∧ s.mbP 2 32 8 % 8 = 0 ∧ s.mbP 2 40 4 = 0xFFFFFFFF ∧ s.mbP 2 4 1 = 0 := by decide +kernel
theorem witness_InstanceCommands_closed : (boxed 0x0203 4 []).setupOpen 4 = false := by decide
theorem witness_InstanceCommands_ep : ∀ s ∈ [{ boxed 0x0204 0 (leBytes 2 5 ++ [1, 1] ++ leBytes 60 0 ++ [0]) with chan := { groups := [(0, { mode := 1, ports := [(16, 5)] })] } }],
    (s.ep (s.mbP 2 0 2)).made = false ∧ s.mayOwn 0 (s.ep (s.mbP 2 0 2)).owner = true ∧ s.mbP 2 3 1 = 1 ∧ (s.group (s.mbP 2 0x40 1 / 8)).mode = 1 ∧ s.mbP 2 2 1 = 1
    ∧ s.mbP 2 0x40 1 % 8 < (s.group (s.mbP 2 0x40 1 / 8)).ports.length ∧ s.lostPort (s.mbP 2 0x40 1) = false := by decide +kernel
theorem witness_InstanceCommands_part : ∀ s ∈ [{ prepared 0x0205 (leBytes 2 7 ++ [3, 0, 0, 0, 0, 0] ++ leBytes 8 0x10000 ++ leBytes 32 0) { st := .prepared, plan := { sqMask := 8 } } with
      arr := { parts := [(7, { owner := some 4 })] } }], s.setupOpen 4 = true ∧ (s.part (s.mbP 2 0 2)).planned = false ∧ s.mayOwn 4 (s.part (s.mbP 2 0 2)).owner = true ∧ s.mbP 2 8 8 % 4096 = 0
    ∧ isNear (s.mbP 2 8 8) = true ∧ isCarve (s.mbP 2 8 8) = false ∧ s.mbP 2 2 1 < s.nSqs ∧ bit (s.ins 4).plan.sqMask (s.mbP 2 2 1) = true ∧ s.mbP 2 16 32 = 0 := by decide +kernel
theorem witness_InstanceCommands_states : ∀ st ∈ [InstSt.prepared, .running, .draining], ((prepared 0x0206 [] { st := st }).ins 4).st = st ∧ (prepared 0x0206 [] { st := st }).runs 2 0x0206 = true := by decide +kernel

/-! ## Witnesses: pairs, ports, far memory, the array and firmware -/

theorem witness_PairPortAndFarCommands_runs : ∀ op ∈ [0x0301, 0x0302, 0x0303, 0x0304, 0x0305, 0x0306, 0x0501, 0x0502, 0x0503, 0x0504, 0x0505], (boxed op 0 [0, 1]).runs 2 op = true := by decide +kernel
theorem witness_PairPortAndFarCommands_pairs : (boxed 0x0302 0 []).pairRefusal 2 0 (fun t => decide (t = .checked)) = none ∧ (boxed 0x0303 0 []).pairRefusal 2 0 (fun t => decide (t = .split)) = some scPairMode
    ∧ ({ boxed 0x0303 0 [] with pairs := [(0, { mode := .split })] } : State).pairRefusal 2 0 (fun t => decide (t = .split)) = none
    ∧ ({ boxed 0x0305 0 [0, 0] with pairs := [(0, { mode := .rx7 })] } : State).pairRefusal 2 0 (fun t => decide (t = .rx7)) = none
    ∧ (boxed 0x0303 0 []).slotTaken 2 0 = false ∧ (boxed 0x0303 0 []).slotBusy 0 = false ∧ (boxed 0x0303 0 []).slotOffline 0 = false ∧ ({} : Core).sb = []
    ∧ ((boxed 0x0303 0 []).slotCores 0).any (fun l => ((boxed 0x0303 0 []).core l).haltReq.contains 3) = false := by decide +kernel
theorem witness_PairPortAndFarCommands_halts : ∀ r ∈ [RunSt.running, .halted], ∀ s ∈ [{ boxed 0x0302 0 [] with cores := [(0, { run := r, haltReq := [3] })] }],
    (s.slotCores 0).any (fun l => (s.core l).haltReq.contains (2 + 1)) = true ∧ (s.slotCores 0).all (fun l => decide ((s.core l).run ≠ .running)) = decide (r = .halted)
    ∧ s.slotTaken 2 0 = false ∧ s.slotOffline 0 = false := by decide +kernel
theorem witness_PairPortAndFarCommands_context : (boxed 0x0302 0 []).readCtx 1 = none ∧ ctxOk (leBytes 16640 1) = true := by decide +kernel
theorem witness_PairPortAndFarCommands_recover : (({ boxed 0x0304 0 [] with cores := [(0, { run := .offline })] } : State).core 0).run = .offline ∧ (0x10000 : Nat) % 256 = 0 ∧ isMem 0x10000 = true
    ∧ isCarve 0x10000 = false ∧ isCarve (0x10000 + 16639) = false ∧ State.reset.backed 0x10000 = true ∧ State.reset.backed (0x10000 + 16639) = true := by decide
theorem witness_PairPortAndFarCommands_ports : (boxed 0x0501 0 []).groupUsed 0 = false ∧ (boxed 0x0501 0 []).dpx.st = .standalone
    ∧ ({ boxed 0x0501 0 [] with chan := { eps := [(1, nvmeEp)] } } : State).groupUsed 0 = true := by decide
theorem witness_PairPortAndFarCommands_far : ∀ o ∈ [false, true], ∀ s ∈ [{ boxed 0x0504 0 [0] with mem := { slots := [(0, { cxl := true, port := 3, online := o })] }, chan := { ports := [(3, { st := 2 })] } }],
    (s.farSlot 0).cxl = true ∧ (s.farSlot 0).online = o ∧ (s.port (s.farSlot 0).port).st = 2 := by decide

theorem witness_DeviceArrayAndFirmwareCommands_runs : ∀ op ∈ [0x0101, 0x0102, 0x0103, 0x0104, 0x0105, 0x0401, 0x0402, 0x0403, 0x0601, 0x0602, 0x0701, 0x0702, 0x0703, 0x0704],
    (boxed op 0 [0, 0]).runs 2 op = true := by decide +kernel
theorem witness_DeviceArrayAndFirmwareCommands_image : (boxed 0x0401 0 []).agentRead 0 0x8000 128 = .ok (List.replicate 128 0) []
    ∧ (boxed 0x0401 0 []).imageCheck (List.replicate 128 0) = some (scCfgFormat, 0xFFFF) := by decide +kernel
theorem witness_DeviceArrayAndFirmwareCommands_part : ∀ s ∈ [{ sqState { sqRun with ph := 5 } with arr := { (sqState { sqRun with ph := 5 }).arr with parts := [(5, { planned := true })] } }],
    (s.part 5).planned = true ∧ (s.sq (s.part 5).sq).ph = 5 ∧ s.cap 0 = none ∧ (∀ v ∈ s.partVats 0, (s.vat v).st ≠ .captured) ∧ (s.part 6).planned = false := by decide +kernel
/-- The handle stands on an unused sequencer no more; its run has ended captured, as has Vat 0. -/
theorem witness_DeviceArrayAndFirmwareCommands_release : ∀ s ∈ [{ sqState { sqRun with ph := 5, st := .captured, job := none } with arr :=
      { (sqState { sqRun with ph := 5, st := .captured, job := none }).arr with parts := [(5, { planned := true, vats := [0] })], vats := [(0, { st := .captured, part := 0 })] } }],
    (s.part 5).planned = true ∧ (s.sq (s.part 5).sq).ph = 5 ∧ s.cap 0 = none ∧ (s.sq 0).st ≠ .unused ∧ (s.sq 0).st = .captured ∧ (s.sq 0).job = none ∧ (s.vat 0).st = .captured := by decide
theorem witness_DeviceArrayAndFirmwareCommands_firmware : State.reset.pup.trial = false ∧ State.reset.pup.spareSlot = some true ∧ State.reset.pup.live = none
    ∧ ({ State.reset.pup with staged := some 16 } : PupSub).staged ≠ none ∧ (State.reset.imgRefusal true).isSome = true
    ∧ ({ State.reset with pup := { State.reset.pup with preB := true } } : State).imgRefusal true = none ∧ State.reset.pup.maint = false := by decide

/-! ## Witnesses: duplex, power and reset -/

def dpxState (d : DpxSub) : State := { State.reset with dpx := d }
def flitOf (seq : BitVec 12) : Flit := { typ := 1, vc := 0, seq := seq, ackseq := 0, ackv := false, crvc := 0, crcnt := 1, payload := [] }
theorem witness_TheTwinLinkDelivers : ∀ x ∈ [({ st := 2 } : Bundle), { st := 2, unacked := [flitOf 0], replays := 8 }], ∀ s ∈ [dpxState { st := .paired, bnds := [(0, x)] }],
    (s.dpx.bnd 0).st = 2 ∧ (flitOf 0).typ = 1 ∧ (flitOf 0).ackv = false ∧ (s.dpx.bnd 0).rxNext < 4096 ∧ (flitOf 0).seq.toNat = (s.dpx.bnd 0).rxNext
    ∧ (flitOf 1).seq.toNat = ((s.dpx.bnd 0).rxNext + 1) % 4096 ∧ s.dpx.linked = true := by decide
theorem witness_TheTwinLinkDelivers_replay : ({ st := 2 } : Bundle).unacked = [] ∧ ({ st := 2, unacked := [flitOf 0], replays := 8 } : Bundle).unacked ≠ [] ∧ ((dpxState { st := .paired }).dpx.bnd 0).st ≠ 2 := by decide

theorem witness_DuplexPairsRun : ∀ l ∈ [true, false], ∀ s ∈ [dpxState { st := .paired, leadSt := l, linkLost := true, hbin := true, peerVer := 2, inputs := [(0, .msi 1 2)] }],
    s.dpx.st = .paired ∧ s.dpx.leadSt = l ∧ s.dpx.linkLost = true ∧ s.dpx.hbin = true ∧ s.mixed = true ∧ s.dpx.inputs[0]?.isSome = true ∧ s.moduleStopped = false ∧ s.dpx.linked = true
    ∧ s.time.lock = false ∧ s.time.ticks < 0 + 2 ∧ 0 + 2 ≤ ({ s with time := { ticks := 2 } } : State).time.ticks := by decide
theorem witness_DuplexPairsRun_batches : ∀ lp ∈ [0, 40], ∀ n ∈ [1, 2], ∀ s ∈ [dpxState { st := .paired, marks := 2, lag := 1, outs := [(n, lp, [7])] }],
    s.dpx.st = .paired ∧ s.peerPort lp = decide (lp = 40) ∧ decide (n ≤ s.dpx.marks - s.dpx.lag) = decide (n = 1) := by decide
theorem witness_DuplexPairsRun_marks : ∀ b ∈ [true, false], ∀ s ∈ [dpxState { st := .repair, marked := b, copied := b }], s.dpx.marked = b ∧ s.dpx.copied = b := by decide
theorem witness_DuplexPairsRun_skew : (120 : Int) - 100 - (180 - 160) = 0 ∧ 0 ≤ (180 : Int) - 100 - (160 - 120) ∧ (180 : Int) - 100 - (160 - 120) ≤ 131070 ∧ ((180 : Int) - 100 - (160 - 120)) % 2 = 0 := by decide
theorem witness_DuplexPairsRun_repair : ∀ k ∈ [(0 : Nat), nearTop], ∀ s ∈ [dpxState { st := .repair, cursor := k, bnds := [(0, { st := 2 })] }], s.dpx.paused = false ∧ s.moduleStopped = false
    ∧ s.dpx.bnds.any (fun e => e.2.st = 2) = true ∧ s.time.atEpoch = true ∧ s.dpx.bitmap = [] ∧ (k = 0 → s.dpx.cursor < s.copyEnd) ∧ (k = nearTop → s.copyEnd ≤ s.dpx.cursor)
    ∧ s.coresIn .running = [] ∧ ({ s with cores := [(0, running)] } : State).coresIn .running ≠ [] ∧ ({ s with cores := [(0, { run := .halted })] } : State).coresIn .halted ≠ [] := by decide +kernel
theorem witness_DuplexPairsRun_commands : (∀ op ∈ [0x0801, 0x0802, 0x0803, 0x0804, 0x0805], (boxed op 0 [0, 9]).runs 2 op = true) ∧ (dpxState { st := .simplex, leadSt := true }).dpx.sideB = false := by decide +kernel
theorem witness_DuplexPairsRun_raise : ∀ s ∈ [{ boxed 0x0805 0 [1, 9] with dpx := { st := .paired } }], ∀ t ∈ [{ s with pup := { s.pup with filmaj := 9, filmin := 1 } }], t.mixed = false
    ∧ t.mbP 2 0 2 ≤ 256 * t.pup.filmaj + t.pup.filmin ∧ t.mbP 2 0 2 ≤ 2304 + t.dpx.peerFil ∧ 256 * t.pup.effmaj + t.pup.effmin ≤ t.mbP 2 0 2 := by decide +kernel

theorem witness_PowerAndResets : ([2, 3].filter (· ≠ 2)) ≠ [] ∧ State.reset.pwr.badRails = [] ∧ State.reset.pwr.coldLow = false ∧ State.reset.pwr.warmLow = false ∧ State.reset.pwr.faulted = false
    ∧ State.reset.moduleStopped = false ∧ State.reset.pwr.badRails.contains 3 = false ∧ ({ badRails := [2] } : PwrSt).badRails.contains 9 = false
    ∧ ({ State.reset with mem := { trained := true } } : State).mem.trained = true ∧ ({ coldLow := true } : PwrSt).coldLow = true
    ∧ ({ State.reset.pup with st := .bringup } : PupSub).st = .bringup ∧ State.reset.mem.trained = false ∧ State.reset.slotExists 5 = true
    ∧ State.reset.pwr.therm = false ∧ State.reset.pwr.tripped = false := by decide

/-- ADDI G12, G0, 32 (03). -/
def addiWord : CWord := 0x02300020
theorem witness_WordsAndInstructionsAgree : encodeCore (.addi at0 { d := 12, a := 0, imm := 32 }) = some (addiWord ||| 0x80000000) ∧ coreWord (.addi at0 { d := 12, a := 0, imm := 32 }) = true := by decide

/-- An image of one Vat, for SQ0 and instance 0, with its digest. -/
def imageHead : List Byte := leBytes 4 0x44525543 ++ leBytes 2 1 ++ leBytes 2 1 ++ leBytes 4 1728 ++ leBytes 4 0 ++ [0x80] ++ leBytes 47 0
def imageTail : List Byte := List.replicate 1632 0
def image1 : List Byte := imageHead ++ sha256 (imageHead ++ List.replicate 32 0 ++ imageTail) ++ imageTail
/-- A digest has 32 bytes. -/
theorem sha256_length (bs : List Byte) : (sha256 bs).length = 32 := by simp [sha256, beBytes, leBytes_length]
theorem image1_digest : sha256 (image1.take 0x40 ++ List.replicate 32 0 ++ image1.drop 0x60) = (image1.drop 0x40).take 32 := by
  have h : imageHead.length = 0x40 := by decide
  have hd := sha256_length (imageHead ++ List.replicate 32 0 ++ imageTail)
  have h1 : image1.take 0x40 = imageHead := by rw [image1, List.append_assoc]; exact List.take_left' h
  have h2 : image1.drop 0x40 = sha256 (imageHead ++ List.replicate 32 0 ++ imageTail) ++ imageTail := by rw [image1, List.append_assoc]; exact List.drop_left' h
  have h3 : image1.drop 0x60 = imageTail := by
    rw [image1]; exact List.drop_left' (by rw [List.length_append, h, hd])
  rw [h1, h2, h3, List.take_left' hd]
theorem ofLe_zeros : ∀ n : Nat, ofLe (List.replicate n 0) = 0
  | 0 => rfl
  | n + 1 => by rw [List.replicate_succ, ofLe, ofLe_zeros n]; rfl
theorem imagePre_length : (imageHead ++ sha256 (imageHead ++ List.replicate 32 0 ++ imageTail)).length = 96 := by
  rw [List.length_append, sha256_length]; exact (by decide : imageHead.length + 32 = 96)
theorem image1_zeros (o n : Nat) (h : 96 ≤ o) : (image1.drop o).take n = List.replicate (min n (1632 - (o - 96))) 0 := by
  obtain ⟨k, rfl⟩ : ∃ k, o = 96 + k := ⟨o - 96, by omega⟩
  rw [image1, ← List.drop_drop, List.drop_left' imagePre_length, imageTail, List.drop_replicate, List.take_replicate]
  congr 1
  omega
theorem image1_length : image1.length = 1728 := by rw [image1, List.length_append, imagePre_length, imageTail, List.length_replicate]
theorem image1_at (o n : Nat) (h : 96 ≤ o) : leAt image1 o n = 0 := by rw [leAt, image1_zeros o n h, ofLe_zeros]
theorem image1_zeroAt (o n : Nat) (h : 96 ≤ o) : zeroAt image1 o n = true := by rw [zeroAt, image1_zeros o n h]; simp
theorem image1_head : (List.range 16).all (fun k => decide (imPdef image1 k = if k = 0 then 128 else 0)) = true ∧ imNvat image1 = 1 ∧ imInst image1 = 0
    ∧ leAt image1 0 4 = 0x44525543 ∧ leAt image1 4 2 = 1 ∧ leAt image1 8 4 = 1728 ∧ zeroAt image1 0x0E 2 = true ∧ zeroAt image1 0x20 32 = true := by decide +kernel

theorem bit_zero (k : Nat) : bit 0 k = false := by simp [bit]
/-- The checks of an image whose one section is zero. -/
theorem check_of_zeros (s : State) (b : List Byte)
    (hq : s.nSqs = 16 ∧ s.nVats = 256 ∧ s.sqOwner 0 = 0 ∧ s.vatOwner 0 = 0 ∧ (s.sq 0).job = none ∧ (s.vat 0).st = .uncfg)
    (hp : ∀ k < 16, imPdef b k = if k = 0 then 128 else 0) (hn : imNvat b = 1) (hi : imInst b = 0) (h1 : leAt b 0 4 = 0x44525543)
    (h2 : leAt b 4 2 = 1) (h3 : leAt b 8 4 = 1728) (h4 : zeroAt b 0x0E 2 = true) (h5 : zeroAt b 0x20 32 = true) (hl : b.length = 1728)
    (hd : sha256 (b.take 0x40 ++ List.replicate 32 0 ++ b.drop 0x60) = (b.drop 0x40).take 32) (hz : ∀ o n, 96 ≤ o → leAt b o n = 0)
    (hza : ∀ o n, 96 ≤ o → zeroAt b o n = true) : s.imageRules b = none ∧ s.imageBusy b (imUsedSqs b) = none := by
  have hsec : imSecs b = [0] := by rw [imSecs, hn]; rfl
  have hctl : imCtl b 0 = 0 := hz _ _ (by decide)
  have hvat : imVat b 0 = 0 := hz _ _ (by decide)
  have hchip : imChip b 0 = 0 := hz _ _ (by decide)
  have hpart : imPart b 0 = 0 := hz _ _ (by decide)
  have hv : imV b 0 = 0 := by rw [imV, hchip, hvat]
  have hused : ∀ k < 16, imUsed b k = decide (k = 0) := by
    intro k hk; rw [imUsed, hp k hk]; split <;> simp_all [bit]
  have hus : imUsedSqs b = [0] := by
    rw [imUsedSqs, List.filter_congr (q := fun k => decide (k = 0)) (fun k hk => hused k (List.mem_range.mp hk))]; rfl
  have hrow : ∀ o r, imRow b 0 o r = 0 := fun o r => hz _ _ (by simp [imOff]; omega)
  have hdrv : imDrivesOk b 0 = true := by simp [imDrivesOk, hrow, bit]
  have hchk : imChk b 0 = false := by rw [imChk, hp 0 (by decide)]; rfl
  have hch : imChips b 0 = 0 := by rw [imChips, hp 0 (by decide)]; rfl
  have hh : ∀ x < 16, fld (imPdef b x) 4 2 = 0 := by
    intro k hk
    rw [hp k hk]; split <;> simp [fld]
  have hd' : (if sha256 (b.take 0x40 ++ List.replicate 32 0 ++ b.drop 0x60) = (b.drop 0x40).take 32 then (none : Option Nat) else some locHeader) = none := if_pos hd
  have hc : chipsOk 0 0 = true ∧ runsChip 0 0 0 = true ∧ bit 0 0 = false ∧ bit 0 1 = false ∧ bit 0 2 = false ∧ bit 0 3 = false ∧ bit 0 7 = false ∧ fld 0 4 3 = 0 := by decide
  obtain ⟨q1, q2, q3, q4, q5, q6⟩ := hq
  obtain ⟨c1, c2, c3, c4, c5, c6, c7, c8⟩ := hc
  refine ⟨?_, by simp [State.imageBusy, imCheck, imFirst, hsec, hus, hpart, hv, q5, q6]⟩
  unfold State.imageRules
  simp only [hd']
  simp [imCheck, imFirst, hn, hi, hsec, hus, h1, h2, h3, h4, h5, hl, hza, hctl, hvat, hchip, hpart, hv, hdrv, hchk, hch, hused 0 (by decide), imEdgeOk, imJoins,
    imOff, q1, q2, q3, q4, c1, c2, c3, c4, c5, c6, c7, c8]
  exact ⟨hh, by decide⟩
theorem witness_DeviceArrayAndFirmwareCommands_goodImage : (boxed 0x0401 0 []).imageCheck image1 = none := by
  obtain ⟨hp, hn, hi, h1, h2, h3, h4, h5⟩ := image1_head
  have h := check_of_zeros (boxed 0x0401 0 []) image1 (by decide) (fun k hk => by simpa using (List.all_eq_true.mp hp) k (List.mem_range.mpr hk)) hn hi h1 h2 h3 h4 h5 image1_length image1_digest image1_at image1_zeroAt
  rw [State.imageCheck, h.1, h.2]; rfl

/-! ## Words of the spec's encodings (02 R77, 03 R116 to R168, 09 R450 to R458) -/

/-- The words of the program of 03, A repeated division, as it writes them. -/
theorem test_words_of_the_repeated_division :
    decodeCore 3 0 0x02300020 = some (.addi { lc := 3, stop := false } { d := 12, a := 0, imm := 32 })
    ∧ decodeCore 3 0 0x9510A2C3 = some (.dinitWu { lc := 3, stop := true } { d := 4, a := 10, b := 11 })
    ∧ decodeCore 3 9 0x4600C000 = some (.rep { lc := 3, stop := false } { d := 0, a := 12, b := 0 } 9)
    ∧ decodeCore 3 0 0x95100008 = some (.dstep { lc := 3, stop := true } { d := 4, a := 0, b := 0 })
    ∧ decodeCore 3 0 0x95100010 = some (.dfin { lc := 3, stop := true } { d := 4, a := 0, b := 0 }) := by decide

/-- ADD G5, G6, G7; CMP.LTU B3, G6, G7; MUL G5, G6, G7 with its stop bit. -/
theorem test_words_of_register_operations :
    decodeCore 0 0 0x011461C0 = some (.add { lc := 0, stop := false } { d := 5, a := 6, b := 7 })
    ∧ decodeCore 0 0 0x080C61C4 = some (.cmp { lc := 0, stop := false } { d := 3, a := 6, b := 7 } 4)
    ∧ decodeCore 0 0 0x941461C0 = some (.mul { lc := 0, stop := true } { d := 5, a := 6, b := 7 }) := by decide

/-- ST.W G5, [G6 - 4]; LD.D G5, [G6 + 8]; BST B5, [G6 + 1]; FPADD.D F5, F6, F7. -/
theorem test_words_of_memory_and_floating_point :
    decodeCore 0 0 0x2A146FFC = some (.stW { lc := 0, stop := false } { d := 5, a := 6, imm := 0xFFC })
    ∧ decodeCore 0 0 0x23146008 = some (.ldD { lc := 0, stop := false } { d := 5, a := 6, imm := 8 })
    ∧ decodeCore 0 0 0x32146001 = some (.bst { lc := 0, stop := false } { d := 5, a := 6, imm := 1 })
    ∧ decodeCore 0 0 0x501461E0 = some (.fpadd { lc := 0, stop := false } { d := 5, a := 6, b := 7 } true) := by decide

/-- BR B5, two words back; SVC 7; NOP; an all-zero word and major 0x17 are undefined. -/
theorem test_words_of_control :
    decodeCore 0 0 0xC017FFFE = some (.br { lc := 0, stop := true } { c := 5, disp := 0x3FFFE })
    ∧ decodeCore 0 0 0xC4000007 = some (.svc { lc := 0, stop := true } { d := 0, a := 0, imm := 7 })
    ∧ decodeCore 0 0 0x7F000000 = some (.nop { lc := 0, stop := false } { d := 0, a := 0, b := 0 })
    ∧ decodeCore 0 0 0 = none ∧ decodeCore 0 0 0x17000000 = none := by decide

/-- The CELL instruction that 09 assembles: SLOT 2, I0 = 21, I1 = 5, I2 = 1, CD = 1 and PR = 203. -/
theorem test_word_of_cell : decodeArray 3 0x02A942232C000000 = some (.cell 3 { slot := 2, i0 := 21, i1 := 5, i2 := 1, rd := 0, cd := true, gang := false, pr := 203, pw := 0, rix := 0, wix := 0, gle := false, gln := 0, ors := 0, z := false }) := by decide

/-- SADD S5, S6, S7; SADDI S5, S6, -1; BZ S6, 9; XFER 3, S6; SBLD S5, [S6 + 4]; DONE; GLSET 5, S6; class 7 is undefined. -/
theorem test_words_of_array_instructions :
    decodeArray 0 0x10159C0000000000 = some (.sadd 0 { d := 5, a := 6, b := 7, z := 0, imm := 0 })
    ∧ decodeArray 0 0x11D58000FFFFFFFF = some (.saddi 0 { d := 5, a := 6, b := 0, z := 0, imm := 0xFFFFFFFF })
    ∧ decodeArray 0 0x2041800000000009 = some (.bz 0 { d := 0, a := 6, b := 0, z := 0, imm := 9 })
    ∧ decodeArray 0 0x3001800000000003 = some (.xfer 0 { d := 0, a := 6, b := 0, z := 0, imm := 3 })
    ∧ decodeArray 0 0x5095800000000004 = some (.sbld 0 { d := 5, a := 6, b := 0, z := 0, imm := 4 })
    ∧ decodeArray 0 0x6040000000000000 = some (.done 0 { d := 0, a := 0, b := 0, z := 0, imm := 0 })
    ∧ decodeArray 0 0x4015800000000000 = some (.glset 0 { d := 5, a := 6, b := 0, z := 0, imm := 0 })
    ∧ decodeArray 0 0x7000000000000000 = none := by decide

/-- The table gives no row bits, so no word spells a command. -/
theorem test_no_row_has_bits (s : State) (n w : Nat) : decodeTableWord n w = none ∧ s.withFetchWord n w = s := ⟨rfl, rfl⟩

/-! ## Ill-formed commands, one for each check of WellFormed -/

theorem test_wf_cores : Instr.wf (.add { lc := 128, stop := true } ⟨1, 2, 3⟩) = false ∧ Instr.wf (.add { lc := 127, stop := true } ⟨1, 2, 3⟩) = true
    ∧ Instr.wf (.call { lc := 0, stop := true } { c := 0, disp := 0 } 0) = false ∧ Instr.wf (.call { lc := 0, stop := true } { c := 0, disp := 0 } 5) = false
    ∧ Instr.wf (.callr { lc := 0, stop := true } ⟨0, 1, 0⟩ 5) = false ∧ Instr.wf (.callr { lc := 0, stop := true } ⟨0, 1, 0⟩ 4) = true
    ∧ Instr.wf (.routerModerationExpiry 0 64) = false ∧ Instr.wf (.interruptEntry 128) = false := by decide
theorem test_wf_controlSpace : Instr.wf (.controlSpaceWrite 0 0xF000000000000 3 0) = false ∧ Instr.wf (.controlSpaceWrite 0 0xF000000000004 8 0) = false
    ∧ Instr.wf (.controlSpaceWrite 128 0xF000000000000 8 0) = false ∧ Instr.wf (.controlSpaceWrite 0 0xF000000000000 8 0) = true ∧ Instr.wf (.erctlWrite 2048 0) = false := by decide
theorem test_wf_array : Instr.wf (.sadd 16 ⟨1, 2, 3, 0, 0⟩) = false ∧ Instr.wf (.partitionSwitch 0 4096) = false ∧ Instr.wf (.captureReadoutComplete 256 true) = false
    ∧ Instr.wf (.arrayFault 0 .seqMemory 256 0 0) = false ∧ Instr.wf (.arrayFault 0 .seqMemory 0 1024 0) = false ∧ Instr.wf (.arrayFault 0 .seqMemory 0 0 64) = false
    ∧ Instr.wf (.vatClearComplete 256) = false := by decide
theorem test_wf_queues : Instr.wf (.arun 131072) = false ∧ Instr.wf (.nvread 0 262144) = false ∧ Instr.wf (.ccomp 0 16) = false ∧ Instr.wf (.czenc 0 0 8) = false ∧ Instr.wf (.khash 0 8) = false
    ∧ Instr.wf (.abortAnswer 262144) = false ∧ Instr.wf (.queueDoorbell 131071) = true := by decide
theorem test_wf_channels : Instr.wf (.pathRetest 65536 0) = false ∧ Instr.wf (.pathRetest 0 8) = false ∧ Instr.wf (.msiWrite 0 65536) = false ∧ Instr.wf (.linkTrained 64 1 1) = false
    ∧ Instr.wf (.frameReceived 65536 [] true) = false := by decide
theorem test_wf_module : Instr.wf (.instTable 64) = false ∧ Instr.wf (.smbusWrite 0 (List.replicate 33 0)) = false ∧ Instr.wf (.smbusWrite 4096 [1]) = false ∧ Instr.wf (.smbusRead 0 33) = false
    ∧ Instr.wf (.smbusRead 4090 32) = false ∧ Instr.wf (.flitReplayTimeout 2) = false ∧ Instr.wf (.scrubStep 8 []) = false ∧ Instr.wf (.sweepStep 399 .clean) = false
    ∧ Instr.wf (.nearMemoryTrained [24] []) = false ∧ Instr.wf (.railGood 10) = false ∧ Instr.wf (.thermalWarning 256 0) = false ∧ Instr.wf (.drainComplete 8192) = false := by decide

/-! ## Examples of the spec -/

/-- LIM, then ORI, make 0x12345678 (02 R79). -/
theorem test_lim : (BitVec.ofInt 64 ((0x12345 : BitVec 18).toInt * 4096) ||| (0x678 : BitVec 12).signExtend 64) = 0x12345678 := by decide

/-- 02: b:0x10_1384_B2C5 names A1.V14, plane 75, PE (11, 5). -/
theorem test_plane_bit : bitAt 0x101384B2C5 = .plane 78 (64 * 75 + 11) 5 := by decide

/-- 06: L46 is the E of pair 23, and L47 its O when the slot is split. -/
theorem test_pair_of : pairOf 46 = 23 ∧ pairOf 47 = 23 ∧ State.reset.lcNumbered 46 = true ∧ State.reset.lcNumbered 47 = false := by decide

/-- 04, Example: -100 / 7 with DSTEP.F: the first state, that after 11 iterations, and the results. -/
theorem test_division_begins : dInit true true (2 ^ 64 - 100) 7 = { r := 0, g := 0x6400000000, dv := 7, c := 0xF20 } := by decide
theorem test_division_ends :
    dFin ((List.range 11).foldl (fun st _ => dStepF false st) (dInit true true (2 ^ 64 - 100) 7)) = (0xFFFFFFFFFFFFFFF2, 0xFFFFFFFFFFFFFFFE) := by decide +kernel
/-- The same program's figures of 03: 1,000,000 / 7 takes 32 steps, and leaves 142,857 and 1. -/
theorem test_division_of_a_million : dFin ((List.range 32).foldl (fun st _ => dStep st) (dInit true false 1000000 7)) = (142857, 1) := by decide +kernel

/-- 04, Example: 1.0 / 3.0 in binary32 is 0x3EAAAAAB, inexact. -/
theorem test_third : (fFin .rne ((List.range 32).foldl (fun st _ => fStep false st) (fDivInit false false 0x3F800000 0x40400000))).val = 0x3EAAAAAB := by decide +kernel

/-- 02: ADD of G4 = 10 and G5 = 3 as a core command: G6 is 13 after one beat. -/
theorem test_add : ((onCore { running with arch := { banks := [(0, { priv := 2, g := [(4, 10), (5, 3)] })] } }).regIssued 0 (regSlot [resG 6 (10 + 3) 1])).core 0
    = { running with arch := { banks := [(0, { priv := 2, g := [(4, 10), (5, 3), (6, 13)] })], pc := 4 } } := by decide

/-- 13: address 18,255,223,484 lies in line 3 of stripe 28,523,786, which code channel 2 keeps. -/
theorem test_stripe : stripeOf 18255223484 = 28523786 ∧ lineInStripe 18255223484 = 3 ∧ stripeOf 18255223484 % 8 = 2
    ∧ controllerOf (stripeOf 18255223484) = 9 ∧ 18255223484 % 640 / 20 = 22 ∧ deviceOf 18255223484 % 12 = 2 := by decide

/-- 14: source 543 is the checkpoint and sparing source of C3.P16.O. -/
theorem test_source : 4 * (34 * 3 + 2 * 16 + 1) + 3 = 543 ∧ State.reset.srcAbsent 543 = false := by decide

/-- 12: after a burst of 477 and two jobs of 256 units a bucket stands at -35. -/
theorem test_bucket : ((({ bal := 477, rate := 477, burst := 477, weight := 1 } : Bucket).charge 256).charge 256).bal = -35 := by decide

/-- An empty queue is one tick of device time; a command is taken from the front. -/
theorem test_step : step { State.reset with pending := [.thermalWarningRelease, .thermalWarningRelease] } = .next { State.reset with pending := [.thermalWarningRelease] } := rfl

/-- SHA-256 of the three bytes of its standard's first example. -/
theorem test_sha256 : ofLe (sha256 [0x61, 0x62, 0x63]).reverse = 0xba7816bf8f01cfea414140de5dae2223b00361a396177a9cb410ff61f20015ad := by decide +kernel

/-- The check values of the three checksums as they are published: CRC-32 of the digits 1 to 9, Adler-32 of "abc", XXH64 of no bytes, of "a" and of a sentence of
39 bytes. -/
theorem test_checks : crc32 [0x31, 0x32, 0x33, 0x34, 0x35, 0x36, 0x37, 0x38, 0x39] = 0xCBF43926 ∧ adler32 [0x61, 0x62, 0x63] = 0x024D0127 ∧ xxh64 [] = 0xEF46DB3751D8E999
    ∧ xxh64 [0x61] = 0xD24EC4F1A98C6E5B ∧ xxh64 (leBytes 39 0x6e6f6974697465706572206873696d6d61707320656874207374636570736e692079646f626f4e) = 0xFBCEA83C8A378BF1 := by decide +kernel

end Sys2Proof.Machine.Tests
end

section
/-! PROOFS. The step, and the state at the release of a cold reset. -/

namespace Sys2Proof.Machine

/-! ### The step -/

theorem step_of_command (s : State) (c : Instr) (q : List Instr) (h : s.pending = c :: q) : step s = exec c { s with pending := q } := by
  rw [step, h]; rfl

theorem step_of_empty (s : State) (h : s.pending = []) : step s = .next s.tick := by
  rw [step, h]

/-- Settles O55: the two cases of the queue. -/
theorem stepTakesTheFront : Obligations.StepTakesTheFront :=
  fun _ c q => ⟨step_of_command _ c q rfl, step_of_empty _ rfl⟩

/-! ### What the release of a cold reset leaves: every table is empty but that of the instances -/

@[simp] theorem reset_core (l : Nat) : State.reset.core l = {} := rfl
@[simp] theorem reset_vat (v : Nat) : State.reset.vat v = {} := rfl
@[simp] theorem reset_sq (q : Nat) : State.reset.sq q = {} := rfl
@[simp] theorem reset_qp (q : Nat) : State.reset.qp q = {} := rfl
@[simp] theorem reset_key (k : Nat) : State.reset.key k = none := rfl
@[simp] theorem reset_mb (m : Nat) : State.reset.mb m = {} := rfl
@[simp] theorem reset_src (n : Nat) : State.reset.src n = {} := rfl
@[simp] theorem reset_led (l : Nat) : State.reset.led l = {} := rfl

theorem reset_rcfg (n : Nat) : State.reset.rcfg n = rcfgGeneric.toNat := by simp [State.rcfg]

/-- The table of the instances lists number 0 alone (R583). -/
theorem reset_ins_zero : (State.reset.ins 0).st = .running := rfl
theorem reset_ins_ne (i : Nat) (h : i ≠ 0) : State.reset.ins i = {} := by
  simp [State.ins, State.reset, Tab.get, h.symm]

theorem reset_near (a : Nat) : Tab.get 0 State.reset.mem.near a = 0 := rfl
theorem reset_far (a : Nat) : Tab.get 0 State.reset.mem.far a = 0 := rfl

/-- A core that has not started: bank 0 with the RISC state's reset values, nothing queued and nothing missing. -/
theorem reset_core_state (l : Nat) :
    (State.reset.core l).run = .notStarted ∧ (State.reset.core l).arch.bank = 0 ∧ (State.reset.core l).arch.pc = 0
      ∧ (State.reset.core l).arch.bk.priv = 2 ∧ (State.reset.core l).arch.bk.ie = false ∧ (State.reset.core l).arch.vpend = 0
      ∧ (State.reset.core l).sb = [] ∧ (State.reset.core l).misses = [] :=
  ⟨rfl, rfl, rfl, rfl, rfl, rfl, rfl, rfl⟩

/-- Settles O56, subsystem by subsystem. -/
theorem resetLeaves : Obligations.ResetLeaves := by
  unfold Obligations.ResetLeaves
  intro s
  refine ⟨rfl, rfl, rfl, rfl, reset_core_state, reset_mem_wf, fun a => ⟨reset_near a, reset_far a⟩, rfl, fun n => ⟨?_, ?_⟩,
    reset_ins_zero, fun i hi => ?_, rfl, fun q => ?_, reset_key, rfl, fun m => ?_, rfl, rfl, fun n => ⟨?_, reset_rcfg n⟩, fun l => ?_, rfl⟩
  · rw [reset_vat]
  · rw [reset_sq]
  · rw [reset_ins_ne i hi]
  · rw [reset_qp]
  · rw [reset_mb]
  · rw [reset_src]
  · rw [reset_led]

end Sys2Proof.Machine
end

section
/-! PROOFS. What each device, array, Rind and firmware command of a mailbox does once it runs. -/

namespace Sys2Proof.Machine

section
variable (s : State) (m : Nat)

/-! ### Device commands (15 R722, 01 R41, R43) -/

theorem exec_devInfo (h : s.runs m 0x0101 = true) : exec (.devInfo m) s = .next (s.mbDone m 0 s.devInfo) := by
  change execDevInfo m s = _
  simp [execDevInfo, h, scOk]

theorem exec_setTime_synced (h : s.runs m 0x0102 = true) (hu : s.time.unsync = false) : exec (.setTime m) s = .next (s.mbDone m 0x0010 []) := by
  change execSetTime m s = _
  simp [execSetTime, h, hu, scTimeSynced]

theorem exec_setTime_waits (h : s.runs m 0x0102 = true) (hu : s.time.unsync = true) (hn : s.time.setTime = none) :
    exec (.setTime m) s = .next { s with time := { s.time with setTime := some (m, s.mbP m 0 8) } } := by
  change execSetTime m s = _
  simp [execSetTime, h, hu, hn]

theorem exec_setTimeRef (h : s.runs m 0x0103 = true) :
    exec (.setTimeRef m) s = .next ((({ s with time := s.time.setRef (s.mbP m 0 1) (s.mbP m 4 4) } : State).chooseRef).mbDone m 0 []) := by
  change execSetTimeRef m s = _
  simp [execSetTimeRef, h, scOk]

theorem exec_wdogSet (h : s.runs m 0x0104 = true) :
    exec (.wdogSet m) s = .next ((s.setCore (s.mbP m 0 1) { s.core (s.mbP m 0 1) with wdN := s.mbP m 2 2, wdCnt := 0 }).mbDone m 0 []) := by
  change execWdogSet m s = _
  simp [execWdogSet, h, scOk]

theorem exec_mgmtNet (h : s.runs m 0x0105 = true) :
    exec (.mgmtNet m) s = .next (({ s with pup := s.pup.setNet (s.mbP m 0 1) (s.mbPBytes m 4 32) } : State).mbDone m 0 []) := by
  change execMgmtNet m s = _
  simp [execMgmtNet, h, scOk]

/-! ### Array commands (08 R426 to R430, R435, R441) -/

section
variable (t : State) (bs : List Byte) (as : List Nat)

/-- ARRAY_CONFIG on an image that can be read is the checks of R426, then the load. -/
theorem exec_arrayConfig_refused (fault : Option Nat) (st loc : Nat) (h : s.runs m 0x0401 = true) (ha : s.mbP m 0 8 + s.mbP m 8 4 ≤ nearTop)
    (hg : s.agentGet 0x0A 0 0 (s.mbP m 0 8) (s.mbP m 8 4) = (t, .ok bs as)) (hc : t.imageCheck bs = some (st, loc)) :
    exec (.arrayConfig m fault) s = .next (t.mbDone m st (leBytes 2 loc)) := by
  change execArrayConfig m fault s = _
  simp [execArrayConfig, h, Nat.not_lt.mpr ha, hg, hc]

theorem exec_arrayConfig_loads (h : s.runs m 0x0401 = true) (ha : s.mbP m 0 8 + s.mbP m 8 4 ≤ nearTop)
    (hg : s.agentGet 0x0A 0 0 (s.mbP m 0 8) (s.mbP m 8 4) = (t, .ok bs as)) (hc : t.imageCheck bs = none) :
    exec (.arrayConfig m none) s =
      .next ((({ t with freeCtr := t.freeCtr + 1 } : State).applyImage bs none).mbDone m 0 (leBytes 2 (Config.free t.freeCtr).toNat)) := by
  change execArrayConfig m none s = _
  simp [execArrayConfig, h, Nat.not_lt.mpr ha, hg, hc, State.draw, scOk]
end

theorem exec_arrayCapture_unplanned (h : s.runs m 0x0402 = true) (hp : (s.part (s.mbP m 0 2)).planned = false) :
    exec (.arrayCapture m) s = .next (s.mbDone m 0x0003 []) := by
  change execArrayCapture m s = _
  simp [execArrayCapture, h, hp, scMbField]

theorem exec_arrayCapture_begins (h : s.runs m 0x0402 = true) (hp : (s.part (s.mbP m 0 2)).planned = true)
    (hph : (s.sq (s.part (s.mbP m 0 2)).sq).ph = s.mbP m 0 2) (hu : (s.sq (s.part (s.mbP m 0 2)).sq).st ≠ .unused)
    (hc : s.cap (s.part (s.mbP m 0 2)).sq = none) (hv : ∀ v ∈ s.partVats (s.part (s.mbP m 0 2)).sq, (s.vat v).st ≠ .captured) :
    exec (.arrayCapture m) s = .next (s.setCap (s.part (s.mbP m 0 2)).sq
      (some { addr := s.mbP m 8 8, by_ := 1, mb := m, pre := .idle, edge := false, todo := [], failed := false })) := by
  change execArrayCapture m s = _
  have hany : (s.partVats (s.part (s.mbP m 0 2)).sq).any (fun v => decide ((s.vat v).st = .captured)) = false := by simpa using hv
  simp [execArrayCapture, h, hp, hph, hu, hc, hany]

/-- The Vats that a failed capture left CAPTURED, READY again. -/
def State.heldReady (s : State) (q : Nat) : State :=
  ((s.partVats q).filter (fun v => decide ((s.vat v).st = .captured))).foldl (fun t v => t.setVat v { t.vat v with st := .ready }) s

theorem exec_arrayRelease_elsewhere (h : s.runs m 0x0403 = true) (hc : s.cap (s.part (s.mbP m 0 2)).sq = none)
    (hp : (s.part (s.mbP m 0 2)).planned = false ∨ (s.sq (s.part (s.mbP m 0 2)).sq).ph ≠ s.mbP m 0 2) :
    exec (.arrayRelease m) s = .next (s.mbDone m 0 []) := by
  change execArrayRelease m s = _
  have hb : (!(s.part (s.mbP m 0 2)).planned || decide ((s.sq (s.part (s.mbP m 0 2)).sq).ph ≠ s.mbP m 0 2)) = true := by simpa using hp
  simp only [execArrayRelease, h, hc, hb, Bool.not_true, Option.isSome_none, if_true, scOk]
  rfl

theorem exec_arrayRelease_frees (h : s.runs m 0x0403 = true) (hc : s.cap (s.part (s.mbP m 0 2)).sq = none)
    (hp : (s.part (s.mbP m 0 2)).planned = true) (hph : (s.sq (s.part (s.mbP m 0 2)).sq).ph = s.mbP m 0 2) :
    let q := (s.part (s.mbP m 0 2)).sq
    let y := (s.heldReady q).sq q
    exec (.arrayRelease m) s =
      .next (State.mbDone (if y.st = .captured ∧ y.job = none then (s.heldReady q).setSq q { y with st := .idle } else s.heldReady q) m 0 []) := by
  intro q y
  change execArrayRelease m s = _
  simp only [execArrayRelease, h, hc, hp, hph, Bool.not_true, Option.isSome_none, ne_eq, not_true_eq_false, decide_false, Bool.or_false, Bool.false_eq_true, if_false,
    Bool.and_eq_true, decide_eq_true_eq, Option.isNone_iff_eq_none]
  rfl

/-! ### Rind commands (14 R678, R695) -/

theorem exec_rindSet (h : s.runs m 0x0601 = true) :
    exec (.rindSet m) s = .next (if rindAllows (s.mbP m 2 1) (s.mbP m 3 1) = true
      then (s.rcfgSet (s.mbP m 0 2) (s.mbP m 2 1) (s.mbP m 3 1)).mbDone m 0 [] else s.mbDone m 0x0601 []) := by
  change execRindSet m s = _
  cases ha : rindAllows (s.mbP m 2 1) (s.mbP m 3 1) <;> simp [execRindSet, h, ha, scOk, scRindLevel]

theorem exec_rindLog (h : s.runs m 0x0602 = true) :
    let es := s.rind.logFrom (s.mbP m 0 4) (s.mbP m 4 1)
    exec (.rindLog m) s = .next (s.mbDone m 0 (leBytes 8 es.length ++ es.flatMap (fun e => e.flatMap (fun w => leBytes 8 w.toNat)))) := by
  intro es
  change execRindLog m s = _
  simp [execRindLog, h, scOk, es]

/-! ### Firmware commands (15 R727 to R729, 13 R663) -/

theorem exec_fwStage (b : Bool) (h : s.runs m 0x0701 = true) (ht : s.pup.trial = false) (hb : s.pup.spareSlot = some b)
    (ho : s.mbP m 0 4 = 0 ∨ s.pup.staged = some (s.mbP m 0 4)) :
    let p := s.pup.setImg b { bytes := Tab.setMany 0xFF (if s.mbP m 0 4 = 0 then [] else (s.pup.img b).bytes) (s.mbP m 0 4) (s.mbPBytes m 8 (s.mbP m 4 4)),
                              len := s.mbP m 0 4 + s.mbP m 4 4 }
    exec (.fwStage m) s = .next (({ s with pup := { p with staged := some (s.mbP m 0 4 + s.mbP m 4 4), preA := p.preA && b, preB := p.preB && !b } } : State).mbDone m 0 []) := by
  intro p
  change execFwStage m s = _
  rcases Decidable.em (s.mbP m 0 4 = 0) with h0 | h0
  · simp [execFwStage, h, hb, ht, h0, scOk, p]
  · simp [execFwStage, h, hb, ht, h0, ho.resolve_left h0, scOk, p]

theorem exec_fwActivate_refused (b : Bool) (st : Nat) (h : s.runs m 0x0702 = true) (hl : s.pup.live = none) (ht : s.pup.trial = false)
    (hb : s.pup.spareSlot = some b) (hs : s.pup.staged ≠ none) (hr : s.imgRefusal b = some st) : exec (.fwActivate m) s = .next (s.mbDone m st []) := by
  change execFwActivate m s = _
  simp [execFwActivate, h, hl, ht, hb, hs, hr]

/-- The boot record names the spare slot as on trial (R705). -/
def State.onTrial (s : State) : State := { s with pup := { s.pup with bootTrial := true, tried := false, bootSeq := s.pup.bootSeq + 1 } }

theorem exec_fwActivate_accepted (b : Bool) (h : s.runs m 0x0702 = true) (hl : s.pup.live = none) (ht : s.pup.trial = false)
    (hb : s.pup.spareSlot = some b) (hs : s.pup.staged ≠ none) (hr : s.imgRefusal b = none) :
    exec (.fwActivate m) s = .next (if s.mbP m 0 1 = 0 then s.onTrial.mbDone m 0 []
      else { s.onTrial with pup := { s.onTrial.pup with live := some m, st := .restart } }) := by
  change execFwActivate m s = _
  simp [execFwActivate, h, hl, ht, hb, hs, hr, scOk, State.onTrial]

theorem exec_fwCommit_untried (h : s.runs m 0x0703 = true) (ht : s.pup.trial = false) : exec (.fwCommit m) s = .next (s.mbDone m 0x0704 []) := by
  change execFwCommit m s = _
  simp [execFwCommit, h, ht, scFwState]

/-- The running image becomes ACTIVE and the trial ends (R728). -/
def State.keptImage (s : State) : State :=
  { s with pup := { s.pup with active := s.pup.slot, bootTrial := false, tried := false, trial := false, bootSeq := s.pup.bootSeq + 1 } }

theorem exec_fwCommit_keeps (h : s.runs m 0x0703 = true) (ht : s.pup.trial = true) :
    exec (.fwCommit m) s = .next (State.mbDone
      (if s.mbP m 0 1 = 1 then { s.keptImage with fuse := { s.fuse with svnFloor := Nat.max s.fuse.svnFloor (s.imgSvn s.pup.slot) } } else s.keptImage) m 0 []) := by
  change execFwCommit m s = _
  simp [execFwCommit, h, ht, scOk, State.keptImage]

theorem exec_fuseCommit_closed (h : s.runs m 0x0704 = true) (hm : s.pup.maint = false) : exec (.fuseCommit m) s = .next (s.mbDone m 0x0007 []) := by
  change execFuseCommit m s = _
  simp [execFuseCommit, h, hm, scMaintOnly]

theorem exec_fuseCommit_burns (h : s.runs m 0x0704 = true) (hm : s.pup.maint = true) :
    exec (.fuseCommit m) s = .next (({ s with mem := { s.mem with committed := s.mem.committed ++ s.mem.softFuse, softFuse := [] } } : State).mbDone m 0
      (leBytes 4 s.mem.softFuse.length)) := by
  change execFuseCommit m s = _
  simp [execFuseCommit, h, hm, scOk]

end

/-- Settles O51, command by command. -/
theorem deviceArrayAndFirmwareCommands : Obligations.DeviceArrayAndFirmwareCommands := by
  unfold Obligations.DeviceArrayAndFirmwareCommands
  intro s m st loc bs fault b f p wdog cap h trial kept staged
  refine ⟨exec_devInfo s m, fun hr => ⟨exec_setTime_synced s m hr, exec_setTime_waits s m hr⟩, exec_setTimeRef s m, exec_wdogSet s m, exec_mgmtNet s m,
    fun hr ha t as hg => ⟨exec_arrayConfig_refused s m t bs as fault st loc hr ha hg, exec_arrayConfig_loads s m t bs as hr ha hg⟩,
    fun hr => ⟨exec_arrayCapture_unplanned s m hr, exec_arrayCapture_begins s m hr⟩,
    fun hr hc => ⟨exec_arrayRelease_elsewhere s m hr hc, exec_arrayRelease_frees s m hr hc⟩,
    exec_rindSet s m, exec_rindLog s m, exec_fwStage s m b,
    fun hr hl ht hb hs => ⟨exec_fwActivate_refused s m b st hr hl ht hb hs, fun hn => ⟨fun h0 => ?_, fun h1 => ?_⟩⟩,
    fun hr => ⟨exec_fwCommit_untried s m hr, exec_fwCommit_keeps s m hr⟩,
    fun hr => ⟨exec_fuseCommit_closed s m hr, exec_fuseCommit_burns s m hr⟩⟩
  · exact (exec_fwActivate_accepted s m b hr hl ht hb hs hn).trans (congrArg Host.Outcome.next (if_pos h0))
  · exact (exec_fwActivate_accepted s m b hr hl ht hb hs hn).trans (congrArg Host.Outcome.next (if_neg fun h0 => absurd (h1.symm.trans h0) (by decide)))

end Sys2Proof.Machine
end

section
/-! PROOFS. Device time (01): a PREF that names no source takes the place of the source that has qualified. -/

namespace Sys2Proof.Machine

/-- A module in the tick after the cold reset's. Its first PREF holds the code 3, which names no source of R43 and which SET_TIME_REF refuses; its
second names PTP, which has given three steady offsets. -/
def reservedPref : State := { State.reset with time := { dtime := 1, pref1 := 3, pref2 := 2, ptp := { offs := [1, 1, 1] } } }

/-- The fourth steady offset qualifies PTP. TimeSt.meas gives the code 3 the measurements of PTP too, so that TimeSt.best is 3, and this is the
source made active. -/
theorem exec_ptpSync_reservedPref : ∃ u, exec (.ptpSync (-1) true 0 1) reservedPref = .next u ∧ u.time.phsrc = 3 :=
  ⟨_, rfl, by decide +kernel⟩

/-- Refutes O21: nothing in the statement keeps the first PREF from holding 3, and then the fourth steady measurement of PTP, which sets device time, leaves
phase source 3 active and not 2. -/
theorem not_deviceTimeIsDisciplined : ¬ Obligations.DeviceTimeIsDisciplined := by
  unfold Obligations.DeviceTimeIsDisciplined
  intro h
  obtain ⟨hmeas, -⟩ := h
  obtain ⟨-, hptp⟩ := hmeas reservedPref (-1) true 0 1
  obtain ⟨-, hfirst⟩ := hptp (by decide) rfl
  obtain ⟨u, hu, -, -, -, hptpActive, -⟩ := hfirst rfl rfl rfl (by decide) rfl rfl rfl (by decide +kernel) (by decide)
  obtain ⟨v, hv, hreserved⟩ := exec_ptpSync_reservedPref
  have huv : u = v := Host.Outcome.next.inj (hu.symm.trans hv)
  rw [huv, hreserved] at hptpActive
  exact absurd hptpActive (by decide)

end Sys2Proof.Machine
end

section
/-! PROOFS. The words of core instructions (02 R77, 03 R116 to R168): what each field of a word is, and that a word and the instruction it names
determine each other. -/

namespace Sys2Proof

/-! ### The fields of the word of each format (R77) -/

theorem wordI_eq_wordL (x : At) (m : BitVec 7) (d a : Reg) (imm : BitVec 12) : wordI x m d a imm = wordL x m d (a ++ imm) := BitVec.append_assoc
theorem wordR_eq_wordI (x : At) (m : BitVec 7) (r : RF) (n : BitVec 6) : wordR x m r n = wordI x m r.d r.a (r.b ++ n) := BitVec.append_assoc

section
variable (x : At) (m : BitVec 7) (d a : Reg) (imm12 : BitVec 12) (imm18 : BitVec 18) (r : RF) (n : BitVec 6) (fmt : Bool)

@[simp] theorem wordL_imm18 : (wordL x m d imm18).imm18 = imm18 := BitVec.extractLsb'_append_eq_right
@[simp] theorem wordL_fd : (wordL x m d imm18).fd = d :=
  (BitVec.extractLsb'_append_eq_of_le (by decide)).trans BitVec.extractLsb'_append_eq_right
@[simp] theorem wordL_major : (wordL x m d imm18).major = m :=
  (BitVec.extractLsb'_append_eq_of_le (by decide)).trans
    ((BitVec.extractLsb'_append_eq_of_le (by decide)).trans BitVec.extractLsb'_append_eq_right)
@[simp] theorem wordL_stop : (wordL x m d imm18).stop = x.stop := by
  unfold CWord.stop wordL
  rw [BitVec.getLsbD_append, BitVec.getLsbD_append, BitVec.getLsbD_append]
  simp
@[simp] theorem wordL_bf : (wordL x m d imm18).bf = ⟨d, imm18⟩ := by rw [CWord.bf, wordL_fd, wordL_imm18]

@[simp] theorem wordI_imm12 : (wordI x m d a imm12).imm12 = imm12 := BitVec.extractLsb'_append_eq_right
@[simp] theorem wordI_fa : (wordI x m d a imm12).fa = a :=
  (BitVec.extractLsb'_append_eq_of_le (by decide)).trans BitVec.extractLsb'_append_eq_right
@[simp] theorem wordI_fd : (wordI x m d a imm12).fd = d := by rw [wordI_eq_wordL, wordL_fd]
@[simp] theorem wordI_major : (wordI x m d a imm12).major = m := by rw [wordI_eq_wordL, wordL_major]
@[simp] theorem wordI_stop : (wordI x m d a imm12).stop = x.stop := by rw [wordI_eq_wordL, wordL_stop]
@[simp] theorem wordI_imf : (wordI x m d a imm12).imf = ⟨d, a, imm12⟩ := by rw [CWord.imf, wordI_fd, wordI_fa, wordI_imm12]

@[simp] theorem wordR_minor : (wordR x m r n).minor = n := BitVec.extractLsb'_append_eq_right
@[simp] theorem wordR_major : (wordR x m r n).major = m := by rw [wordR_eq_wordI, wordI_major]
@[simp] theorem wordR_stop : (wordR x m r n).stop = x.stop := by rw [wordR_eq_wordI, wordI_stop]
@[simp] theorem wordR_rf : (wordR x m r n).rf = r := by
  have hb : (wordR x m r n).fb = r.b := (BitVec.extractLsb'_append_eq_of_le (by decide)).trans BitVec.extractLsb'_append_eq_right
  rw [CWord.rf, hb, wordR_eq_wordI, wordI_fd, wordI_fa]

/-! ### The parts of a minor opcode, and of a shift's immediate (R117, R130, R165) -/

@[simp] theorem wordI_shop (hi : BitVec 4) (op : BitVec 2) (sh : BitVec 6) : (wordI x m d a (hi ++ op ++ sh)).shop = op :=
  (BitVec.extractLsb'_append_eq_of_add_le (by decide)).trans
    ((BitVec.extractLsb'_append_eq_of_le (by decide)).trans BitVec.extractLsb'_append_eq_right)
@[simp] theorem wordI_shf (hi : BitVec 4) (op : BitVec 2) (sh : BitVec 6) : (wordI x m d a (hi ++ op ++ sh)).shf = ⟨d, a, hi, sh⟩ := by
  have hhi : (wordI x m d a (hi ++ op ++ sh)).extractLsb' 8 4 = hi :=
    (BitVec.extractLsb'_append_eq_of_add_le (by decide)).trans
      ((BitVec.extractLsb'_append_eq_of_le (by decide)).trans BitVec.extractLsb'_append_eq_left)
  have hsh : (wordI x m d a (hi ++ op ++ sh)).minor = sh := (BitVec.extractLsb'_append_eq_of_add_le (by decide)).trans BitVec.extractLsb'_append_eq_right
  rw [CWord.shf, hhi, hsh, wordI_fd, wordI_fa]

@[simp] theorem wordR_minorHi (hi lo : BitVec 3) : (wordR x m r (hi ++ lo)).minorHi = hi :=
  (BitVec.extractLsb'_append_eq_of_add_le (by decide)).trans BitVec.extractLsb'_append_eq_left
@[simp] theorem wordR_minorLo (hi lo : BitVec 3) : (wordR x m r (hi ++ lo)).minorLo = lo :=
  (BitVec.extractLsb'_append_eq_of_add_le (by decide)).trans BitVec.extractLsb'_append_eq_right

@[simp] theorem wordR_fmt (c : BitVec 5) : (wordR x m r (BitVec.ofBool fmt ++ c)).fmt = fmt := by
  unfold CWord.fmt wordR
  rw [BitVec.getLsbD_append, if_pos (by decide), BitVec.getLsbD_append]
  simp
@[simp] theorem wordR_minor5 (c : BitVec 5) : (wordR x m r (BitVec.ofBool fmt ++ c)).minor5 = c :=
  (BitVec.extractLsb'_append_eq_of_add_le (by decide)).trans BitVec.extractLsb'_append_eq_right

@[simp] theorem wordR_fmt_of_cmp (z : BitVec 3) (cc : BitVec 2) : (wordR x m r (BitVec.ofBool fmt ++ z ++ cc)).fmt = fmt :=
  (congrArg (fun c => (wordR x m r c).fmt) BitVec.append_assoc).trans (wordR_fmt x m r fmt (z ++ cc))
@[simp] theorem wordR_minorMid (z : BitVec 3) (cc : BitVec 2) : (wordR x m r (BitVec.ofBool fmt ++ z ++ cc)).minorMid = z :=
  (BitVec.extractLsb'_append_eq_of_add_le (by decide)).trans
    ((BitVec.extractLsb'_append_eq_of_le (by decide)).trans BitVec.extractLsb'_append_eq_right)
@[simp] theorem wordR_cc (z : BitVec 3) (cc : BitVec 2) : (wordR x m r (BitVec.ofBool fmt ++ z ++ cc)).cc = cc :=
  (BitVec.extractLsb'_append_eq_of_add_le (by decide)).trans BitVec.extractLsb'_append_eq_right

@[simp] theorem wordR_fmt_of_cvt (z : BitVec 2) (k : BitVec 3) : (wordR x m r (BitVec.ofBool fmt ++ z ++ k)).fmt = fmt :=
  (congrArg (fun c => (wordR x m r c).fmt) BitVec.append_assoc).trans (wordR_fmt x m r fmt (z ++ k))
@[simp] theorem wordR_unused2 (z : BitVec 2) (k : BitVec 3) : (wordR x m r (BitVec.ofBool fmt ++ z ++ k)).unused2 = z :=
  (BitVec.extractLsb'_append_eq_of_add_le (by decide)).trans
    ((BitVec.extractLsb'_append_eq_of_le (by decide)).trans BitVec.extractLsb'_append_eq_right)
@[simp] theorem wordR_minorLo_of_cvt (z : BitVec 2) (k : BitVec 3) : (wordR x m r (BitVec.ofBool fmt ++ z ++ k)).minorLo = k :=
  (BitVec.extractLsb'_append_eq_of_add_le (by decide)).trans BitVec.extractLsb'_append_eq_right

end

/-! ### A word is the word of its fields -/

section
variable (w : CWord)

theorem CWord.ofBool_bit (k : Nat) : BitVec.ofBool (w.getLsbD k) = w.extractLsb' k 1 := by
  ext i hi
  obtain rfl : i = 0 := by omega
  simp

theorem CWord.fa_append_imm12 : w.fa ++ w.imm12 = w.imm18 := BitVec.extractLsb'_append_extractLsb'_eq_extractLsb' rfl
theorem CWord.fb_append_minor : w.fb ++ w.minor = w.imm12 := BitVec.extractLsb'_append_extractLsb'_eq_extractLsb' rfl
theorem CWord.minorHi_append_minorLo : w.minorHi ++ w.minorLo = w.minor := BitVec.extractLsb'_append_extractLsb'_eq_extractLsb' rfl
theorem CWord.shf_imm12 : w.shf.hi ++ w.shop ++ w.shf.sh = w.imm12 := by
  have hhi : w.shf.hi ++ w.shop = w.extractLsb' 6 6 := BitVec.extractLsb'_append_extractLsb'_eq_extractLsb' rfl
  rw [hhi]
  exact BitVec.extractLsb'_append_extractLsb'_eq_extractLsb' rfl
theorem CWord.fmt_append_minor5 : BitVec.ofBool w.fmt ++ w.minor5 = w.minor := by
  rw [CWord.fmt, CWord.ofBool_bit]
  exact BitVec.extractLsb'_append_extractLsb'_eq_extractLsb' rfl
theorem CWord.fmt_append_minorMid_append_cc : BitVec.ofBool w.fmt ++ w.minorMid ++ w.cc = w.minor := by
  have hmid : w.extractLsb' 5 1 ++ w.minorMid = w.extractLsb' 2 4 := BitVec.extractLsb'_append_extractLsb'_eq_extractLsb' rfl
  rw [CWord.fmt, CWord.ofBool_bit, hmid]
  exact BitVec.extractLsb'_append_extractLsb'_eq_extractLsb' rfl
theorem CWord.fmt_append_unused2_append_minorLo : BitVec.ofBool w.fmt ++ w.unused2 ++ w.minorLo = w.minor := by
  have hmid : w.extractLsb' 5 1 ++ w.unused2 = w.extractLsb' 3 3 := BitVec.extractLsb'_append_extractLsb'_eq_extractLsb' rfl
  rw [CWord.fmt, CWord.ofBool_bit, hmid]
  exact BitVec.extractLsb'_append_extractLsb'_eq_extractLsb' rfl

theorem CWord.wordL_fields (lc : Nat) : wordL ⟨lc, w.stop⟩ w.major w.fd w.imm18 = w := by
  have hmajor : w.extractLsb' 31 1 ++ w.major = w.extractLsb' 24 8 := BitVec.extractLsb'_append_extractLsb'_eq_extractLsb' rfl
  have hfd : w.extractLsb' 24 8 ++ w.fd = w.extractLsb' 18 14 := BitVec.extractLsb'_append_extractLsb'_eq_extractLsb' rfl
  have himm : w.extractLsb' 18 14 ++ w.imm18 = w.extractLsb' 0 32 := BitVec.extractLsb'_append_extractLsb'_eq_extractLsb' rfl
  calc BitVec.ofBool w.stop ++ w.major ++ w.fd ++ w.imm18
      = w.extractLsb' 0 32 := by rw [CWord.stop, CWord.ofBool_bit, hmajor, hfd, himm]
    _ = w := BitVec.extractLsb'_eq_self
end

/-! The same with the opcode as the decoder finds it: its major, and the part of the word that then names the instruction. -/

section
variable {lc : Nat} {w : CWord} {m : BitVec 7} (hm : w.major = m)
include hm

theorem CWord.eq_wordL : wordL ⟨lc, w.stop⟩ m w.fd w.imm18 = w := by
  subst hm
  exact w.wordL_fields lc
theorem CWord.eq_wordI : wordI ⟨lc, w.stop⟩ m w.fd w.fa w.imm12 = w := by
  rw [wordI_eq_wordL, CWord.fa_append_imm12, CWord.eq_wordL hm]
theorem CWord.eq_wordI_fd {d : Reg} (hd : w.fd = d) : wordI ⟨lc, w.stop⟩ m d w.fa w.imm12 = w := by
  subst hd
  exact CWord.eq_wordI hm
theorem CWord.eq_wordI_shift {op : BitVec 2} (hop : w.shop = op) : wordI ⟨lc, w.stop⟩ m w.shf.d w.shf.a (w.shf.hi ++ op ++ w.shf.sh) = w := by
  subst hop
  rw [w.shf_imm12]
  exact CWord.eq_wordI hm
theorem CWord.eq_wordR {c : BitVec 6} (hc : w.minor = c) : wordR ⟨lc, w.stop⟩ m w.rf c = w := by
  subst hc
  rw [wordR_eq_wordI]
  exact (congrArg _ w.fb_append_minor).trans (CWord.eq_wordI hm)
theorem CWord.eq_wordR_atomic {hi : BitVec 3} (hc : w.minorHi = hi) : wordR ⟨lc, w.stop⟩ m w.rf (hi ++ w.minorLo) = w := by
  subst hc
  exact CWord.eq_wordR hm w.minorHi_append_minorLo.symm
theorem CWord.eq_wordR_fp {c : BitVec 5} (hc : w.minor5 = c) : wordR ⟨lc, w.stop⟩ m w.rf (BitVec.ofBool w.fmt ++ c) = w := by
  subst hc
  exact CWord.eq_wordR hm w.fmt_append_minor5.symm
theorem CWord.eq_wordR_cmp : wordR ⟨lc, w.stop⟩ m w.rf (BitVec.ofBool w.fmt ++ w.minorMid ++ w.cc) = w :=
  CWord.eq_wordR hm w.fmt_append_minorMid_append_cc.symm
theorem CWord.eq_wordR_cvt {k : BitVec 3} (hc : w.minorLo = k) : wordR ⟨lc, w.stop⟩ m w.rf (BitVec.ofBool w.fmt ++ w.unused2 ++ k) = w := by
  subst hc
  exact CWord.eq_wordR hm w.fmt_append_unused2_append_minorLo.symm
end

/-! ### Decoding and encoding -/

/-- The word of a core instruction names it, format by format. -/
theorem decodeCore_of_encodeCore (i : Instr) (w : CWord) (h : encodeCore i = some w) (hw : coreWord i = true) :
    decodeCore (coreAt i).1 (coreAt i).2 w = some i := by
  cases i
  -- format R whose minor is a constant or a field of the instruction
  case add | sub | andR | orR | xorR | andn | shl | shr | sar | minS | maxS | minu | maxu | clz | popc | band | bor | bxor | bandn | bnot | bextr
     | btog | mul | mulh | mulhu | dinitD | dinitDu | dinitW | dinitWu | dstep | dstepF | dfin | btas | bxch | smm | lmm | mvb | mvl | fill | filll
     | cleanSw | invalSw | clinvSw | callr | jmpr | jmprLk | rfe | rfeC | rep | fence | fenceS | fenceD | savebank | wait | rdtime | mflk | mtlk
     | tlbiV | tlbiI | tlbiA | mvgf | mvfg | fdstep | fdstepIs | fdstepId | fsstep | fsstepIs | fsstepId | fdfin | nop
     | sel | mfc | mtc =>
    obtain rfl := Option.some.inj h
    rw [decodeCore, wordR_major, wordR_minor, wordR_rf, wordR_stop]
    rfl
  case cmp x r cc =>
    obtain rfl := Option.some.inj h
    have hcc : cc.toNat < 6 := of_decide_eq_true hw
    rw [decodeCore, wordR_major, wordR_minor, wordR_rf, wordR_stop]
    exact if_pos hcc
  -- format I, whose major names the instruction
  case addi | andi | ori | xori | bext | ldB | ldH | ldW | ldD | ldBu | ldHu | ldWu | stB | stH | stW | stD | ldfS | ldfD | stfS | stfD
     | bld | bst | bset | bclr | bflip | svc =>
    obtain rfl := Option.some.inj h
    rw [decodeCore, wordI_major, wordI_imf, wordI_stop]
    rfl
  case cmpi x f cc =>
    obtain rfl := Option.some.inj h
    rw [decodeCore, wordI_major, wordI_imf, wordI_stop]
    cases cc <;> rfl
  -- the shifts by a constant, then the hints and the maintenance by address, which Fd names
  case shli | shri | sari =>
    obtain rfl := Option.some.inj h
    rw [decodeCore, wordI_major, wordI_shop, wordI_shf, wordI_stop]
    rfl
  case prefL1 | prefL1w | prefL2 | prefL3 | clean | inval | clinv =>
    obtain rfl := Option.some.inj h
    rw [decodeCore, wordI_major, wordI_fd, wordI_fa, wordI_imm12, wordI_stop]
    rfl
  -- formats B and L
  case br | call =>
    obtain rfl := Option.some.inj h
    rw [decodeCore, wordL_major, wordL_bf, wordL_stop]
    rfl
  case lim =>
    obtain rfl := Option.some.inj h
    rw [decodeCore, wordL_major, wordL_fd, wordL_imm18, wordL_stop]
    rfl
  -- the atomics and floating point, whose minor is cut in two or three
  case cas | swap | faddA | forA | fandA | cas2 =>
    obtain rfl := Option.some.inj h
    rw [decodeCore, wordR_major, wordR_minorHi, wordR_minorLo, wordR_rf, wordR_stop]
    rfl
  case fpadd | fpsub | fpmul | fpmin | fpmax | fpmov | fpneg | fpabs | fpfma =>
    obtain rfl := Option.some.inj h
    rw [decodeCore, wordR_major, wordR_minor5, wordR_fmt, wordR_rf, wordR_stop]
    rfl
  case fpcmp =>
    obtain rfl := Option.some.inj h
    rw [decodeCore, wordR_major, wordR_minorMid, wordR_cc, wordR_fmt_of_cmp, wordR_rf, wordR_stop]
    rfl
  case fpcvtSD | fpcvtDS | fpcvtLD | fpcvtLS | fpcvtDL | fpcvtSL =>
    obtain rfl := Option.some.inj h
    rw [decodeCore, wordR_major, wordR_minorLo_of_cvt, wordR_unused2, wordR_fmt_of_cvt, wordR_rf, wordR_stop]
    rfl
  -- no other command has a word
  all_goals exact nomatch h

/-- The instruction that a word names has that word, major by major. -/
theorem encodeCore_of_decodeCore (lc n : Nat) (w : CWord) (i : Instr) (h : decodeCore lc n w = some i) : encodeCore i = some w ∧ coreWord i = true := by
  unfold decodeCore at h
  dsimp only at h
  split at h
  -- a minor names the instruction: 0x01, 0x10, 0x14, 0x15, 0x36, 0x38, 0x39, 0x3C, 0x42, 0x45, 0x46, 0x4A, 0x4C, 0x4E, 0x54, 0x55, 0x7F
  case h_1 | h_16 | h_18 | h_19 | h_41 | h_42 | h_43 | h_46 | h_49 | h_51 | h_52 | h_55 | h_56 | h_57 | h_62 | h_63 | h_64 =>
    split at h <;> cases h <;> exact ⟨congrArg some (CWord.eq_wordR ‹_› ‹_›), rfl⟩
  -- the minor is an operand: SEL, MFC, MTC; CMP with a condition of R118
  case h_15 | h_53 | h_54 =>
    cases h
    exact ⟨congrArg some (CWord.eq_wordR ‹_› rfl), rfl⟩
  case h_8 =>
    split at h <;> cases h
    exact ⟨congrArg some (CWord.eq_wordR ‹_› rfl), decide_eq_true ‹_›⟩
  -- the atomics, 0x30
  case h_35 =>
    split at h <;> cases h <;> exact ⟨congrArg some (CWord.eq_wordR_atomic ‹_› ‹_›), rfl⟩
  -- floating point, 0x50 to 0x53
  case h_58 =>
    split at h <;> cases h <;> exact ⟨congrArg some (CWord.eq_wordR_fp ‹_› ‹_›), rfl⟩
  case h_59 =>
    cases h
    exact ⟨congrArg some (CWord.eq_wordR_fp ‹_› rfl), rfl⟩
  case h_60 =>
    cases h
    exact ⟨congrArg some (CWord.eq_wordR_cmp ‹_›), rfl⟩
  case h_61 =>
    split at h <;> cases h <;> exact ⟨congrArg some (CWord.eq_wordR_cvt ‹_› ‹_›), rfl⟩
  -- the shifts by a constant, 0x06; PREF and the maintenance by address, 0x3A and 0x3B
  case h_6 =>
    split at h <;> cases h <;> exact ⟨congrArg some (CWord.eq_wordI_shift ‹_› ‹_›), rfl⟩
  case h_44 | h_45 =>
    split at h <;> cases h <;> exact ⟨congrArg some (CWord.eq_wordI_fd ‹_› ‹_›), rfl⟩
  -- LIM, BR, CALL
  case h_7 | h_47 | h_48 =>
    cases h
    exact ⟨congrArg some (CWord.eq_wordL ‹_›), rfl⟩
  -- an undefined major
  case h_65 => cases h
  -- format I, whose major names the instruction
  all_goals
    cases h
    exact ⟨congrArg some (CWord.eq_wordI ‹_›), rfl⟩

/-- Settles O57: one direction goes along the instructions, the other along the decoder's table. -/
theorem coreWordsAndInstructionsAgree : Obligations.CoreWordsAndInstructionsAgree :=
  ⟨decodeCore_of_encodeCore, encodeCore_of_decodeCore⟩

end Sys2Proof
end

section
/-! PROOFS. Serialising instructions (02 R85): when decode gives one no trap, it has its effect after the idle beats. -/

namespace Sys2Proof.Machine

/-- Decode gives no trap to a legal word at its level (R239). -/
theorem decTrap_eq_none (c : Core) (ill : Bool) (lvl : Nat) (hill : ill = false) (hlvl : lvl ≤ c.priv.toNat) : decTrap c ill lvl false = none := by
  simp [decTrap, hill, Nat.not_lt.mpr hlvl]

/-- It gives an ILLOP trap to a word that is not legal, whatever the level. -/
theorem decTrap_illegal (c : Core) (lvl : Nat) (fp : Bool) : decTrap c true lvl fp = some { cause := .illop } := rfl

/-! ### The form that they share -/

/-- An instruction whose meaning is that of a serialising slot has its effect when decode gives it no trap. -/
theorem State.serialises_of (s : State) (x : At) (i : Instr) (t : Option Trap) (mem fp noDelay : Bool) (run : State → State)
    (hi : exec i s = .next (s.serialOp x (serialSlot t mem fp noDelay) run)) (ht : t = none) : s.Serialises x i (serialSlot none mem fp noDelay) run := by
  intro h
  subst ht
  rw [hi, s.serialOp_runs x _ run h]

section
variable (s : State) (x : At) (r : RF) (f : IF)

theorem serialises_swOp (i : Instr) (op : MaintOp) (hi : exec i s = .next (s.swOp x r op)) (hd : r.d = 0) (hb : r.b = 0) (hp : (s.core x.lc).priv.toNat = 2) :
    s.Serialises x i (serialSlot none false false false) (fun t => (t.setWay (pairOf x.lc) ((t.core x.lc).rg r.a).toNat op).retire x.lc) :=
  s.serialises_of x i _ _ _ _ _ hi (decTrap_eq_none _ _ _ (by simp [hd, hb]) hp.ge)

theorem serialises_svc (hd : f.d = 0) (ha : f.a = 0) :
    s.Serialises x (.svc x f) (serialSlot none false false true) (fun t => t.enterThen x.lc { cause := .svc, info := f.imm.toNat } ((t.core x.lc).arch.pc + 4)
      (fun u => if (t.core x.lc).arch.bank = 6 then u else u.lctxEffect x.lc)) :=
  s.serialises_of x _ _ _ _ _ _ rfl (decTrap_eq_none _ _ _ (by simp [hd, ha]) (Nat.zero_le _))

theorem serialises_rfeOp (i : Instr) (copy : Bool) (hi : exec i s = .next (rfeOp x r copy s)) (hr : r = ⟨0, 0, 0⟩) (hbank : (s.core x.lc).arch.bank ≠ 0)
    (hp : 1 ≤ (s.core x.lc).priv.toNat) : s.Serialises x i (serialSlot none false false true) (fun t => t.rfe x.lc copy) :=
  s.serialises_of x i _ _ _ _ _ hi (decTrap_eq_none _ _ _ (by simp [hr, hbank]) hp)

/-- With no entry of a SAVEBANK kept out, SAVEBANK begins as every serialising instruction does. -/
theorem serialises_savebank (hr : r = ⟨0, 0, 0⟩) (hbank : (s.core x.lc).arch.bank ≠ 0) (hp : 1 ≤ (s.core x.lc).priv.toNat) :
    s.Serialises x (.savebank x r) (serialSlot none true false false) (fun t => t.saveBank x.lc) := by
  intro h
  have hexec : exec (.savebank x r) s = .next (s.serialOp x
      (serialSlot (decTrap (s.core x.lc) (decide (r ≠ ⟨0, 0, 0⟩) || decide ((s.core x.lc).arch.bank = 0)) 1 false) true false false) (fun t => t.saveBank x.lc)) := by
    change execSavebank x r s = _
    simp [execSavebank, h.whole]
  exact s.serialises_of x _ _ _ _ _ _ hexec (decTrap_eq_none _ _ _ (by simp [hr, hbank]) hp) h

theorem serialises_fenceOp (i : Instr) (b : Barrier) (hi : exec i s = .next (fenceOp x r b s)) (hr : r = ⟨0, 0, 0⟩) :
    s.Serialises x i (serialSlot none true false false) (fun t => t.modCore x.lc (fun c => { c with barrier := some b })) :=
  s.serialises_of x i _ _ _ _ _ hi (decTrap_eq_none _ _ _ (by simp [hr]) (Nat.zero_le _))

theorem serialises_wait (hr : r = ⟨0, 0, 0⟩) (hp : 1 ≤ (s.core x.lc).priv.toNat) :
    s.Serialises x (.wait x r) (serialSlot none false false false) (fun t => (t.modCore x.lc (fun c =>
      { c with group := [], waiting := true, arch := { c.arch.advance 1 none with repLeft := none, rest := [] } })).rxGroup x.lc 1) :=
  s.serialises_of x _ _ _ _ _ _ rfl (decTrap_eq_none _ _ _ (by simp [hr]) hp)

theorem serialises_tlbiOp (i : Instr) (lvl : Nat) (useA : Bool) (b : Core → Barrier) (hi : exec i s = .next (tlbiOp x r lvl useA b s)) (hd : r.d = 0)
    (hb : r.b = 0) (ha : useA = true ∨ r.a = 0) (hp : lvl ≤ (s.core x.lc).priv.toNat) :
    s.Serialises x i (serialSlot none false false false) (fun t => t.modCore x.lc (fun c => { c with barrier := some (b c) })) := by
  have hill : (decide (r.d ≠ 0) || decide (r.b ≠ 0) || (!useA && decide (r.a ≠ 0))) = false := by
    rcases ha with ha | ha <;> simp [hd, hb, ha]
  exact s.serialises_of x i _ _ _ _ _ hi (decTrap_eq_none _ _ _ hill hp)

end

/-- Settles O16, instruction by instruction. -/
theorem serialisingInstructions : Obligations.SerialisingInstructions := by
  unfold Obligations.SerialisingInstructions
  intro s x r f l z p zero waits sets
  refine ⟨fun hd hb hp => ⟨?_, ?_, ?_⟩, fun hd ha => ?_, fun hr hbank hp => ⟨?_, ?_, ?_⟩, fun hr => ⟨?_, ?_, ?_⟩, fun hr hp => ?_, fun hd hb hp => ?_,
    fun hd hb hp => ⟨?_, fun ha => ?_⟩⟩
  · exact serialises_swOp s x r _ .clean rfl hd hb hp
  · exact serialises_swOp s x r _ .inval rfl hd hb hp
  · exact serialises_swOp s x r _ .clinv rfl hd hb hp
  · exact serialises_svc s x f hd ha
  · exact serialises_rfeOp s x r _ false rfl hr hbank hp
  · exact serialises_rfeOp s x r _ true rfl hr hbank hp
  · exact serialises_savebank s x r hr hbank hp
  · exact serialises_fenceOp s x r _ .fence rfl hr
  · exact serialises_fenceOp s x r _ .fenceS rfl hr
  · exact serialises_fenceOp s x r _ .fenceD rfl hr
  · exact serialises_wait s x r hr hp
  · exact serialises_tlbiOp s x r _ 1 true _ rfl hd hb (.inl rfl) hp
  · exact serialises_tlbiOp s x r _ 2 true _ rfl hd hb (.inl rfl) hp.ge
  · exact serialises_tlbiOp s x r _ 2 false _ rfl hd hb (.inr ha) hp.ge

end Sys2Proof.Machine
end

section
/-! PROOFS. Issue groups: words that join a group (02 R82), and the group of an undefined opcode (02 R81). -/

namespace Sys2Proof.Machine

/-- An instruction whose meaning is its slot joins the group being formed. -/
theorem State.joins_of (s : State) (x : At) (i : Instr) (f : Core → Slot) (z : Slot) (hi : exec i s = .next (s.coreOp x f)) (hf : f (s.core x.lc) = z)
    (hr : s.ready x.lc = true) (hs : x.stop = false) (hl : (s.core x.lc).group.length < 3) (ha : (s.core x.lc).arch.badPc = false) :
    exec i s = .next (s.setCore x.lc { s.core x.lc with group := (s.core x.lc).group ++ [z] }) := by
  rw [hi, s.coreOp_joins x f hr hs hl ha, hf]

/-- Settles O18: the slots of ADD, ST.D and REP. -/
theorem wordsJoinTheGroup : Obligations.WordsJoinTheGroup := by
  unfold Obligations.WordsJoinTheGroup
  intro s x r f upto c joins hr hs hl ha
  refine ⟨s.joins_of x _ _ _ rfl ?_ hr hs hl ha, s.joins_of x _ _ _ rfl ?_ hr hs hl ha, fun hd hb => s.joins_of x _ _ _ rfl ?_ hr hs hl ha⟩
  · simp only [aluR, landSlot, decTrap_ok, regSlot]
    rfl
  · rfl
  · simp only [hd, hb, ne_eq, not_true_eq_false, decide_false, Bool.or_false, decTrap_ok]

/-- The check of a group of one slot that decode traps, whose word can be fetched, is that trap (R89). -/
theorem State.groupCheck_decode_trap (s : State) (l : Nat) (c : Core) (fs : List Flight) (t : Trap) (hf : s.fetchCheck c [c.arch.pc.toNat] = .ok) (ht : t.slot = 0) :
    s.groupCheck l c [{ op := .land fs, trap := some t }] true = .trap t := by
  have hill : illGroup [{ op := .land fs, trap := some t }] true c.arch.bk.dly = false := by simp [illGroup]
  have hslot : ({ t with slot := 0 } : Trap) = t := by rw [← ht]
  simp [State.groupCheck, fetchWords, hf, hill, repOf, SlotOp.maskTrap, firstTrap, hslot]

/-- Settles O20: decode gives the word an ILLOP trap, which its group takes. -/
theorem undefinedOpcodesTrap : Obligations.UndefinedOpcodesTrap := by
  unfold Obligations.UndefinedOpcodesTrap
  intro s x w c hr hs hg ha hw hf hq
  have hgroup : (s.core x.lc).group ++ [landSlot c true []] = [{ op := .land [], trap := some { cause := .illop } }] := by
    rw [hg, landSlot, decTrap_illegal, List.nil_append]
  have htrap := s.coreOp_traps x (fun c => landSlot c true []) { cause := .illop } hr hs ha hw (by rw [hgroup]; rfl)
    (by rw [hgroup]; simpa [fetchWords] using hq) (by rw [hgroup]; exact s.groupCheck_decode_trap x.lc c [] _ hf rfl)
  change Host.Outcome.next (s.coreOp x (fun c => landSlot c true [])) = _
  rw [htrap, hgroup]
  rfl

end Sys2Proof.Machine
end

section
/-! PROOFS. Control transfers (02 R99 to R101): one alone in its group opens a delay group and puts its link in flight. -/

namespace Sys2Proof.Machine

/-- What a control transfer writes of its link: LK, with latency 1 (R159). -/
def linkRes : Option Word → List Flight
  | none => []
  | some lk => [res .lk lk 1]

/-- A control transfer alone in its group begins no access: it puts its link in flight. -/
theorem State.issueAll_branch (s : State) (l : Nat) (sb : List SbEntry) (taken : Bool) (t : Word) (link : Option Word) (n : Nat) :
    s.issueAll l sb [(0, .branch taken t link n)] = match link with | none => s | some lk => s.setCore l ((s.core l).fly [res .lk lk 1]) := by
  cases link <;> rfl

/-- A control transfer alone in its group opens a delay group (R99). -/
theorem State.branch_opens (s : State) (x : At) (i : Instr) (g : Core → Slot) (taken : Bool) (t : Word) (link : Option Word) (n : Nat)
    (hi : exec i s = .next (s.coreOp x g)) (hg : g (s.core x.lc) = { op := .branch taken t link n, ct := true })
    (h : s.Alone x { op := .branch taken t link n, ct := true }) :
    exec i s = .next (s.groupEnd x.lc 1 ((s.core x.lc).closed [{ op := .branch taken t link n, ct := true }] (linkRes link) (some (taken, t)))) := by
  have hbk : s.bracket x.lc [{ op := .branch taken t link n, ct := true }] = s := s.bracket_none x.lc _ rfl
  cases link with
  | none => exact s.alone_advances x i g _ hi hg h rfl hbk (s.issueAll_branch ..) rfl
  | some lk =>
    refine s.alone_replaces x i g _ (s.core x.lc) [res .lk lk 1] hi hg h rfl ?_ h.room rfl rfl
    rw [hbk]
    exact s.issueAll_branch ..

/-- Alone in its group a control transfer stands at the pc, from which its target and its link count (R80, R101). -/
theorem Core.wordPc_of_alone (c : Core) (h : c.group = []) : c.wordPc = c.arch.pc := by simp [Core.wordPc, h]
theorem delayLen_eq (n : Nat) (h1 : 1 ≤ n) (h4 : n ≤ 4) : delayLen n = n :=
  (congrArg (min 4) (Nat.max_eq_right h1)).trans (Nat.min_eq_right h4)

/-- Settles O15, instruction by instruction. -/
theorem controlTransfersOpenADelayGroup : Obligations.ControlTransfersOpenADelayGroup := by
  unfold Obligations.ControlTransfersOpenADelayGroup
  intro s x f r n c tgt lk goes z
  have htgt : ∀ {z}, s.Alone x z → brTarget c f = tgt := fun h => by rw [brTarget, c.wordPc_of_alone h.first]
  have hlk : ∀ {z}, s.Alone x z → 1 ≤ n → n ≤ 4 → linkAddr c n = lk := fun h h1 h4 => by rw [linkAddr, c.wordPc_of_alone h.first, delayLen_eq n h1 h4]
  refine ⟨fun h => s.branch_opens x _ _ _ _ _ _ rfl ?_ h, fun h1 h4 => ⟨fun hb h => s.branch_opens x _ _ _ _ _ _ rfl ?_ h,
    fun hb h => s.branch_opens x _ _ _ _ _ _ rfl ?_ h, fun hd hbz h => s.branch_opens x _ _ _ _ _ _ rfl ?_ h⟩,
    fun hd hbz h => s.branch_opens x _ _ _ _ _ _ rfl ?_ h, fun hr h => s.branch_opens x _ _ _ _ _ _ rfl ?_ h⟩
  · exact congrArg (fun t => ({ op := .branch (c.rb f.c) t none 0, ct := true } : Slot)) (htgt h)
  · simp only [show (s.core x.lc).rb f.c = true from hb]
    rw [htgt h, hlk h h1 h4, delayLen_eq n h1 h4]
    rfl
  · simp only [show (s.core x.lc).rb f.c = false from hb]
    rw [htgt h, delayLen_eq n h1 h4]
    rfl
  · simp only [hd, hbz, ne_eq, not_true_eq_false, decide_false, Bool.or_false, decTrap_ok]
    rw [hlk h h1 h4, delayLen_eq n h1 h4]
  · simp only [hd, hbz, ne_eq, not_true_eq_false, decide_false, Bool.or_false, decTrap_ok]
    rfl
  · simp only [hr, ne_eq, not_true_eq_false, decide_false, decTrap_ok]
    rfl

end Sys2Proof.Machine
end

section
/-! PROOFS. What a group of register results leaves (02 R56, R90 to R92, R99): how one result lands, how those that are due in a beat land, and what the
end of the group keeps. -/

namespace Sys2Proof.Machine

/-! ### How a result lands (R56, R65) -/

section
variable (c : Core) (f : Flight) (r : Nat)

theorem Bank.rg_setG_self (b : Bank) (v : Word) : (b.setG r v).rg r = if r = 0 then 0 else v := by
  by_cases h : r = 0 <;> simp [Bank.setG, Bank.rg, h]
theorem Bank.rg_setG_ne (b : Bank) (k : Nat) (v : Word) (h : k ≠ r) : (b.setG k v).rg r = b.rg r := by
  by_cases hk : k = 0
  · simp [Bank.setG, hk]
  · simp [Bank.setG, Bank.rg, hk, Tab.get_set_ne _ _ _ _ _ h.symm]
@[simp] theorem Bank.rg_setB (b : Bank) (k : Nat) (v : Bool) : (b.setB k v).rg r = b.rg r := by
  unfold Bank.setB
  split <;> rfl
theorem Bank.rb_setB_ne (b : Bank) (k : Nat) (v : Bool) (h : k ≠ r) : (b.setB k v).rb r = b.rb r := by
  by_cases hk : k < 2
  · simp [Bank.setB, hk]
  · simp [Bank.setB, Bank.rb, hk, Tab.get_set_ne _ _ _ _ _ h.symm]
@[simp] theorem Bank.rb_setG (b : Bank) (k : Nat) (v : Word) : (b.setG k v).rb r = b.rb r := by
  unfold Bank.setG
  split <;> rfl
@[simp] theorem Bank.lk_setG (b : Bank) (k : Nat) (v : Word) : (b.setG k v).lk = b.lk := by
  unfold Bank.setG
  split <;> rfl
@[simp] theorem Bank.lk_setB (b : Bank) (k : Nat) (v : Bool) : (b.setB k v).lk = b.lk := by
  unfold Bank.setB
  split <;> rfl

/-- The bank in use after a result has landed in a register of it, or elsewhere. -/
theorem Arch.bk_land (a : Arch) : (a.land f).bk =
    match f.dst with
    | .g k => a.bk.setG k f.val
    | .b k => a.bk.setB k (f.val.getLsbD 0)
    | .lk => { a.bk with lk := f.val }
    | _ => a.bk := by
  unfold Arch.land
  cases f.dst with
  | g k | b k | lk => exact Arch.bk_setBk _ _
  | f k | nowhere n | block | poison pa => rfl

/-- Poison stands in no register: what lands as poison leaves the architectural state alone. -/
theorem Core.arch_land : (c.land f).arch = match f.dst with | .poison _ => c.arch | _ => c.arch.land f := by
  unfold Core.land
  cases f.dst <;> rfl
theorem Core.bk_land : (c.land f).arch.bk = (c.arch.land f).bk := by
  rw [Core.arch_land]
  cases hd : f.dst with
  | poison pa => rw [Arch.bk_land, hd]
  | g k | f k | b k | lk | nowhere n | block => rfl

theorem Core.rg_land_self (h : f.dst = .g r) : (c.land f).arch.rg r = if r = 0 then 0 else f.val := by
  rw [Arch.rg, Core.bk_land, Arch.bk_land, h]
  exact Bank.rg_setG_self r _ _
theorem Core.rg_land_ne (h : f.dst ≠ .g r) : (c.land f).arch.rg r = c.arch.rg r := by
  rw [Arch.rg, Core.bk_land, Arch.bk_land]
  cases hd : f.dst with
  | g k => exact Bank.rg_setG_ne r _ k _ fun hk => h (by rw [hd, hk])
  | b k => exact Bank.rg_setB r _ k _
  | f k | lk | nowhere n | block | poison pa => rfl
theorem Core.rb_land_ne (h : f.dst ≠ .b r) : (c.land f).arch.bk.rb r = c.arch.bk.rb r := by
  rw [Core.bk_land, Arch.bk_land]
  cases hd : f.dst with
  | b k => exact Bank.rb_setB_ne r _ k _ fun hk => h (by rw [hd, hk])
  | g k => exact Bank.rb_setG r _ k _
  | f k | lk | nowhere n | block | poison pa => rfl
theorem Core.lk_land_ne (h : f.dst ≠ .lk) : (c.land f).arch.bk.lk = c.arch.bk.lk := by
  rw [Core.bk_land, Arch.bk_land]
  cases hd : f.dst with
  | lk => exact absurd hd h
  | g k => exact Bank.lk_setG _ k _
  | b k => exact Bank.lk_setB _ k _
  | f k | nowhere n | block | poison pa => rfl
theorem Core.rf_land_ne (h : f.dst ≠ .f r) : (c.land f).arch.rf r = c.arch.rf r := by
  rw [Core.arch_land]
  cases hd : f.dst with
  | f k =>
    have hk : k ≠ r := fun hk => h (by rw [hd, hk])
    simp [Arch.land, hd, Arch.rf, Tab.get_set_ne _ _ _ _ _ hk.symm]
  | g k | b k | lk | nowhere n | block | poison pa => simp [Arch.land, hd, Arch.rf, Arch.setBk, Arch.setBkOf]
theorem Core.fstat_land (h : f.flags = 0) : (c.land f).arch.fstat = c.arch.fstat := by
  rw [Core.arch_land]
  cases hd : f.dst with
  | g k | b k | f k | lk | nowhere n | block => simp [Arch.land, hd, h, Arch.setBk, Arch.setBkOf]
  | poison pa => rfl

end

/-! ### What lands in one beat (R92, R94, R97) -/

/-- The results that are due when one beat has passed, in issue order, as they then stand. -/
def Core.landing (c : Core) : List Flight := (c.arch.infl.filter (fun e => decide (e.left ≤ 1))).map (fun e => { e with left := e.left - 1 })

theorem Core.mem_landing {c : Core} {e : Flight} (h : e ∈ c.landing) : ∃ e' ∈ c.arch.infl, e'.left ≤ 1 ∧ e'.dst = e.dst ∧ e'.flags = e.flags := by
  obtain ⟨e', he', rfl⟩ := List.mem_map.1 h
  obtain ⟨hmem, hleft⟩ := List.mem_filter.1 he'
  exact ⟨e', hmem, of_decide_eq_true hleft, rfl, rfl⟩

theorem Core.landing_eq (c : Core) :
    (c.arch.infl.map (fun e => { e with left := e.left - 1 })).filter (fun e => decide (e.left = 0)) = c.landing := by
  rw [List.filter_map, Core.landing]
  congr 2
  funext e
  simp only [Function.comp, decide_eq_decide]
  omega

/-- In one beat everything due lands, unless the core is frozen on data that has not arrived. -/
theorem Core.beats_one (c : Core) :
    Core.beats 1 c = { c with owed := 1 } ∨ (∃ fs, Core.beats 1 c = { c with arch := { c.arch with infl := fs } })
      ∨ ∃ fs, Core.beats 1 c = c.landing.foldl Core.land { c with arch := { c.arch with infl := fs } } := by
  unfold Core.beats
  split
  · exact .inl rfl
  · simp only [Core.beats, Core.beat, Core.landDue, Core.landing_eq]
    split
    · exact .inr (.inl ⟨_, rfl⟩)
    · exact .inr (.inr ⟨_, rfl⟩)

/-- Data outstanding freezes no core whose results wait for none. -/
theorem Core.beats_one_of_no_wait (c : Core) (h : ∀ e ∈ c.arch.infl, e.wait = none) :
    ∃ fs, Core.beats 1 c = c.landing.foldl Core.land { c with arch := { c.arch with infl := fs } } := by
  have hdue : ∀ g : Flight → Flight, (∀ e, (g e).wait = e.wait) → Core.due { c with arch := { c.arch with infl := c.arch.infl.map g } } = false := by
    intro g hg
    simp only [Core.due, List.any_map, List.any_eq_false, Function.comp, hg]
    intro e he
    simp [h e he]
  have hnow : c.due = false := by simpa using hdue id fun _ => rfl
  have hnext := hdue (fun e => { e with left := e.left - 1 }) fun _ => rfl
  simp only [Core.beats, Core.beat, Core.landDue, Core.landing_eq, hnow, hnext, Bool.false_eq_true, if_false]
  exact ⟨_, rfl⟩

theorem Core.foldl_land_keeps {α : Type} (P : Core → α) (fs : List Flight) (h : ∀ e ∈ fs, ∀ c, P (Core.land c e) = P c) (c : Core) :
    P (fs.foldl Core.land c) = P c := by
  induction fs generalizing c with
  | nil => rfl
  | cons e fs ih => rw [List.foldl_cons, ih fun e' he' => h e' (List.mem_cons_of_mem _ he'), h e (by simp)]

/-- A beat changes no part of the core that nothing due in it changes. -/
theorem Core.beats_one_keeps {α : Type} (P : Core → α) (c : Core) (hi : ∀ (c : Core) fs, P { c with arch := { c.arch with infl := fs } } = P c)
    (ho : ∀ (c : Core) n, P { c with owed := n } = P c) (h : ∀ e ∈ c.landing, ∀ c, P (Core.land c e) = P c) : P (Core.beats 1 c) = P c := by
  rcases c.beats_one with hb | ⟨fs, hb⟩ | ⟨fs, hb⟩
  · rw [hb, ho]
  · rw [hb, hi]
  · rw [hb, Core.foldl_land_keeps P _ h, hi]

/-- The last result for Gr that is due in the beat is what Gr then holds; G0 stays 0 (R56, R92). -/
theorem Core.rg_beats_one_of_last (c : Core) (r : Nat) (ys zs : List Flight) (f : Flight) (hfs : c.arch.infl = ys ++ f :: zs) (hw : ∀ e ∈ c.arch.infl, e.wait = none)
    (hl : f.left ≤ 1) (hd : f.dst = .g r) (hz : ∀ e ∈ zs, e.dst = .g r → 1 < e.left) : (Core.beats 1 c).arch.rg r = if r = 0 then 0 else f.val := by
  obtain ⟨fs, hb⟩ := c.beats_one_of_no_wait hw
  have hlast : c.landing = (ys.filter (fun e => decide (e.left ≤ 1))).map (fun e => { e with left := e.left - 1 })
      ++ { f with left := f.left - 1 } :: (zs.filter (fun e => decide (e.left ≤ 1))).map (fun e => { e with left := e.left - 1 }) := by
    simp [Core.landing, hfs, hl]
  have hafter : ∀ e ∈ (zs.filter (fun e => decide (e.left ≤ 1))).map (fun e => { e with left := e.left - 1 }), ∀ c, (Core.land c e).arch.rg r = c.arch.rg r := by
    intro e he c
    obtain ⟨e', he', rfl⟩ := List.mem_map.1 he
    obtain ⟨hmem, hleft⟩ := List.mem_filter.1 he'
    exact c.rg_land_ne _ r fun hr => absurd (hz e' hmem hr) (Nat.not_lt.mpr (of_decide_eq_true hleft))
  rw [hb, hlast, List.foldl_append, List.foldl_cons, Core.foldl_land_keeps (fun c => c.arch.rg r) _ hafter]
  exact Core.rg_land_self _ _ r hd

/-! ### The end of a group (06 R268, R298 to R300) -/

section
variable (s : State) (l n : Nat) (d : Core)

theorem State.capture_sb_kinds : ((s.capture l).core l).sb.map (·.kind) = (s.core l).sb.map (·.kind) := by
  unfold State.capture
  dsimp only
  split
  · rfl
  · rw [State.core_setCore_self, List.map_map]
    exact List.map_congr_left fun e _ => by simp only [Function.comp]; split <;> rfl
theorem State.capture_once : ((s.capture l).core l).once.map (fun e => (e.key, e.val, e.again)) = (s.core l).once.map (fun e => (e.key, e.val, e.again)) := by
  unfold State.capture
  dsimp only
  split
  · rfl
  · rw [State.core_setCore_self, List.map_map]
    exact List.map_congr_left fun e _ => by simp only [Function.comp]; split <;> rfl

/-- The end of a group changes no part of the core that no capture changes and that is neither the position, the log nor the count of groups. -/
theorem State.groupEnd_keeps_of_capture {α : Type} (P : Core → α) (hc : ∀ t : State, P ((t.capture l).core l) = P (t.core l))
    (hp : ∀ (c : Core) (p g : Nat) (r : List (Nat × Option Word)), P { c with arch := { c.arch with pos := p }, rlog := r, groups := g } = P c) :
    P ((s.groupEnd l n d).core l) = P (Core.beats n d) := by
  have hrx : P (((s.setCore l (Core.beats n d)).rxGroup l n).core l) = P (Core.beats n d) := by
    rcases State.rxGroup_or (s.setCore l (Core.beats n d)) l n with ⟨-, e⟩ | ⟨h7, e⟩
    · rw [e, State.core_setCore_self]
    · obtain ⟨r, hr⟩ := State.rxCounted_core (s.setCore l (Core.beats n d)) l n h7
      have hcount : P (((s.setCore l (Core.beats n d)).rxCounted l n).core l) = P (Core.beats n d) := by rw [hr, hp, State.core_setCore_self]
      rcases e with e | e
      · rw [e, hcount]
      · rw [e, hc, hcount]
  unfold State.groupEnd
  rcases State.settle_or ((s.setCore l (Core.beats n d)).rxGroup l n) l with e | e
  · rw [e, hrx]
  · rw [e, hc, hrx]

/-- The log keeps what O has still to meet once E leads by the beats of the group too (06 R299). -/
theorem State.groupEnd_rlog : ((s.groupEnd l n d).core l).rlog = if s.isRx7 l
    then d.rlog.filter (fun e => decide (d.arch.pos + n - Nat.min 4096 ((s.pair (pairOf l)).lead + n) < e.1)) else d.rlog := by
  have hcap : ∀ t : State, ((t.capture l).core l).rlog = (t.core l).rlog := fun t => t.capture_keeps (·.rlog) l fun _ _ _ _ _ => rfl
  have hset : ((s.groupEnd l n d).core l).rlog = (((s.setCore l (Core.beats n d)).rxGroup l n).core l).rlog := by
    unfold State.groupEnd
    rcases State.settle_or ((s.setCore l (Core.beats n d)).rxGroup l n) l with e | e
    · rw [e]
    · rw [e, hcap]
  have hrlog : (Core.beats n d).rlog = d.rlog := Core.beats_outside d n (·.rlog) fun _ _ _ _ => rfl
  have h7 : (s.setCore l (Core.beats n d)).isRx7 l = s.isRx7 l := rfl
  rw [hset]
  rcases State.rxGroup_or (s.setCore l (Core.beats n d)) l n with ⟨hno, e⟩ | ⟨hyes, e⟩
  · rw [e, State.core_setCore_self, hrlog, ← h7, hno]
    rfl
  · have hcount : (((s.setCore l (Core.beats n d)).rxCounted l n).core l).rlog
        = d.rlog.filter (fun e => decide (d.arch.pos + n - Nat.min 4096 ((s.pair (pairOf l)).lead + n) < e.1)) := by
      simp [State.rxCounted, State.rxBeats, hyes, State.modCore, hrlog]
    rw [← h7, hyes, if_pos rfl]
    rcases e with e | e
    · rw [e, hcount]
    · rw [e, hcap, hcount]

end

/-! ### The state after a group of register results -/

/-- What stands beside the architectural state of a core, the control registers of a core, and those of a bank. -/
def Core.beside (c : Core) := (c.run, c.misses, c.barrier, c.bitram, c.sealed, c.lctx, c.lctxCur, c.tlb, c.devOut, c.mchk, c.waiting)
def Arch.controls (a : Arch) := (a.bank, a.fpu, a.cvbar, a.hvbar, a.ssp, a.hsp, a.vpend, a.vmask)
def Bank.controls (b : Bank) := (b.priv, b.ipl, b.ie, b.ct, b.cepc, b.ccause, b.cbada, b.cframe)

/-- Advancing past a group changes of the bank in use its delay state alone (R99). -/
theorem Core.bk_closed (c : Core) (g : List Slot) (fs : List Flight) :
    (c.closed g fs none).arch.bk = { c.arch.bk with dly := false, dfall := false, dtarget := 0 } := Arch.bk_setBk _ _

section
variable (s : State) (l : Nat) (z : Slot)

/-- The results in flight once slot z has closed the group being formed, in issue order. -/
def State.flights : List Flight := (s.core l).arch.infl ++ ((s.core l).group ++ [z]).flatMap Slot.results

/-- The core as the group closes, before its beat. -/
def State.regClosed : Core := (s.core l).closed ((s.core l).group ++ [z]) (((s.core l).group ++ [z]).flatMap Slot.results) none

/-- What the end of the group leaves of the core after the beat: a part that no capture, position or count of groups is. -/
theorem State.regIssued_core {α : Type} (P : Core → α)
    (h : ∀ (c : Core) (k : Option Ckpt) (sb : List SbEntry) (o : List OnceEnt) (n : Nat),
      P { c with capturing := k, sb := sb, once := o, capDue := false, groups := 0, exec := n } = P c)
    (hp : ∀ (c : Core) (p g : Nat) (r : List (Nat × Option Word)), P { c with arch := { c.arch with pos := p }, rlog := r, groups := g } = P c) :
    P ((s.regIssued l z).core l) = P (Core.beats 1 (s.regClosed l z)) := s.groupEnd_keeps P l 1 (s.regClosed l z) h hp

/-- A part of the core outside its architectural state that no capture changes, but the log and the count of groups. -/
theorem State.regIssued_outside {α : Type} (P : Core → α) (hc : ∀ t : State, P ((t.capture l).core l) = P (t.core l))
    (hp : ∀ (c : Core) (p g : Nat) (r : List (Nat × Option Word)), P { c with arch := { c.arch with pos := p }, rlog := r, groups := g } = P c)
    (ho : ∀ (c : Core) (a : Arch) (p : Option Nat) (o : Nat), P { c with arch := a, poisoned := p, owed := o } = P c)
    (hcl : P (s.regClosed l z) = P (s.core l)) : P ((s.regIssued l z).core l) = P (s.core l) :=
  (s.groupEnd_keeps_of_capture l 1 (s.regClosed l z) P hc hp).trans ((Core.beats_outside _ 1 P ho).trans hcl)

/-- A part of the core that landings elsewhere than in x do not change is kept when no result for x is due. -/
theorem State.regIssued_keeps_of_later {α : Type} (P : Arch → α) (x : Dst) (hx : ∀ e ∈ s.flights l z, e.dst = x → 1 < e.left)
    (hland : ∀ (c : Core) (e : Flight), e.dst ≠ x → P (c.land e).arch = P c.arch)
    (hpos : ∀ (a : Arch) (p : Nat), P { a with pos := p } = P a) (hinfl : ∀ (a : Arch) fs, P { a with infl := fs } = P a)
    (hcl : P (s.regClosed l z).arch = P (s.core l).arch) : P ((s.regIssued l z).core l).arch = P (s.core l).arch := by
  refine (s.regIssued_core l z (fun c => P c.arch) (fun _ _ _ _ _ => rfl) fun c p _ _ => hpos c.arch p).trans
    ((Core.beats_one_keeps (fun c => P c.arch) _ (fun c fs => hinfl c.arch fs) (fun _ _ => rfl) ?_).trans hcl)
  intro e he c
  obtain ⟨e', he', hleft, hdst, -⟩ := Core.mem_landing he
  exact hland c e fun hd => absurd (hx e' he' (hdst.trans hd)) (Nat.not_lt.mpr hleft)

/-- FSTAT is kept when no result that is due sets a flag (R65). -/
theorem State.regIssued_fstat (hx : ∀ e ∈ s.flights l z, e.left ≤ 1 → e.flags = 0) : ((s.regIssued l z).core l).arch.fstat = (s.core l).arch.fstat := by
  refine (s.regIssued_core l z (·.arch.fstat) (fun _ _ _ _ _ => rfl) fun _ _ _ _ => rfl).trans
    (Core.beats_one_keeps (·.arch.fstat) _ (fun _ _ => rfl) (fun _ _ => rfl) ?_)
  intro e he c
  obtain ⟨e', he', hleft, -, hflags⟩ := Core.mem_landing he
  exact c.fstat_land e (hflags ▸ hx e' he' hleft)

end

/-- Settles O60, part by part: what the end of a group keeps, then register by register. -/
theorem registerResultsLandAndChangeNothingElse : Obligations.RegisterResultsLandAndChangeNothingElse := by
  unfold Obligations.RegisterResultsLandAndChangeNothingElse
  intro s l r z ys zs f t c d fs lead later
  obtain ⟨hframe, hcores, hpairs⟩ := s.groupEnd_frame l 1 (s.regClosed l z)
  have hbk : (s.regClosed l z).arch.bk = { c.arch.bk with dly := false, dfall := false, dtarget := 0 } := Core.bk_closed _ _ _
  refine ⟨hframe, hcores, fun n => ?_, ?_, ?_, ?_, ?_, ?_, ?_, fun hx => ?_, fun hx => ?_, fun hx => ?_, fun hx => ?_, s.regIssued_fstat l z,
    fun hfs hw hl hd hz => ?_⟩
  · refine (hpairs n).trans ?_
    by_cases hn : n = pairOf l
    · subst hn
      rfl
    · simp only [hn, false_and, if_false]
  · exact s.regIssued_outside l z (fun c => c.sb.map (·.kind)) (fun t => t.capture_sb_kinds l) (fun _ _ _ _ => rfl) (fun _ _ _ _ => rfl) rfl
  · exact s.regIssued_outside l z (fun c => c.once.map (fun e => (e.key, e.val, e.again))) (fun t => t.capture_once l) (fun _ _ _ _ => rfl) (fun _ _ _ _ => rfl) rfl
  · exact s.regIssued_outside l z Core.beside (fun t => t.capture_keeps Core.beside l fun _ _ _ _ _ => rfl) (fun _ _ _ _ => rfl) (fun _ _ _ _ => rfl) rfl
  · exact s.groupEnd_rlog l 1 (s.regClosed l z)
  · exact (s.regIssued_core l z (fun c => c.arch.controls) (fun _ _ _ _ _ => rfl) fun _ _ _ _ => rfl).trans
      (Core.beats_arch _ 1 Arch.controls (fun _ _ _ _ _ => rfl) fun _ _ _ _ => rfl)
  · exact (s.regIssued_core l z (fun c => c.arch.bk.controls) (fun _ _ _ _ _ => rfl) fun _ _ _ _ => rfl).trans
      ((Core.beats_bk _ 1 Bank.controls fun _ _ _ _ => rfl).trans (by rw [hbk]; rfl))
  · exact s.regIssued_keeps_of_later l z (·.rg r) (.g r) hx (fun c e he => c.rg_land_ne e r he) (fun _ _ => rfl) (fun _ _ => rfl) (by rw [Arch.rg, hbk]; rfl)
  · exact s.regIssued_keeps_of_later l z (·.bk.rb r) (.b r) hx (fun c e he => c.rb_land_ne e r he) (fun _ _ => rfl) (fun _ _ => rfl) (by rw [hbk]; rfl)
  · exact s.regIssued_keeps_of_later l z (·.rf r) (.f r) hx (fun c e he => c.rf_land_ne e r he) (fun _ _ => rfl) (fun _ _ => rfl) rfl
  · exact s.regIssued_keeps_of_later l z (·.bk.lk) .lk hx (fun c e he => c.lk_land_ne e he) (fun _ _ => rfl) (fun _ _ => rfl) (by rw [hbk])
  · refine (s.regIssued_core l z (·.arch.rg r) (fun _ _ _ _ _ => rfl) fun _ _ _ _ => rfl).trans ?_
    exact Core.rg_beats_one_of_last (s.regClosed l z) r ys zs f hfs hw hl hd hz

end Sys2Proof.Machine
end

section
/-! PROOFS. Control registers and device time (02 R59 to R62, R88, R162): the group that an MFC closes, the writes of an MTC, and RDTIME by what the
module is. -/

namespace Sys2Proof.Machine

/-! ### Operations that take no account of what a core holds -/

section
variable (s : State) (l : Nat) (d : Core)

theorem State.grant_setCore (g : Grant) : (s.setCore l d).grant g = (s.grant g).setCore l d := by
  cases hl : s.dpx.leads
  · cases hf : s.dpx.follows
    · simp [State.grant, hl, hf]
    · cases hn : s.dpx.next g with
      | none => simp [State.grant, hl, hf, hn]
      | some h =>
        simp only [State.grant, State.setCore_dpx, hl, hf, hn, Bool.false_eq_true, if_true, if_false]
        rfl
  · simp only [State.grant, State.setCore_dpx, hl, if_true]
    rfl

theorem State.pmAdvance_setCore (key : Nat) : (s.setCore l d).pmAdvance key = (s.pmAdvance key).setCore l d := by
  unfold State.pmAdvance
  simp only [show (s.setCore l d).pmChained key = s.pmChained key from rfl]
  split <;> rfl
theorem State.core_pmAdvance (key k : Nat) : (s.pmAdvance key).core k = s.core k := by
  unfold State.pmAdvance
  split <;> rfl

theorem State.pmRead_setCore (key : Nat) : (s.setCore l d).pmRead key = ((s.pmRead key).1, (s.pmRead key).2.setCore l d) := by
  unfold State.pmRead
  rw [State.pmAdvance_setCore]
  rfl

/-- Results in flight are in no control register (R59). -/
theorem State.ctlVal_fly (n : Nat) (fs : List Flight) : (s.setCore l ((s.core l).fly fs)).ctlVal l n = s.ctlVal l n := by
  unfold State.ctlVal
  rw [State.core_setCore_self]
  rfl
theorem State.mfcVal_of_ne (n : Nat) (h : n ≠ 49) : s.mfcVal l n = (s.ctlVal l n, s) := if_neg h
theorem State.mfcVal_fly (n : Nat) (fs : List Flight) :
    (s.setCore l ((s.core l).fly fs)).mfcVal l n = ((s.mfcVal l n).1, (s.mfcVal l n).2.setCore l ((s.core l).fly fs)) := by
  by_cases hn : n = 49
  · have hsel : ((s.core l).fly fs).arch.pmsel = (s.core l).arch.pmsel := rfl
    by_cases hk : 174 ≤ (s.core l).arch.pmsel.toNat <;> simp [State.mfcVal, hn, hsel, hk, State.pmRead_setCore]
  · rw [s.mfcVal_of_ne l n hn, State.mfcVal_of_ne _ l n hn, State.ctlVal_fly]
theorem State.core_mfcVal (n k : Nat) : (s.mfcVal l n).2.core k = s.core k := by
  by_cases hn : n = 49
  · by_cases hk : 174 ≤ (s.core l).arch.pmsel.toNat
    · simp [State.mfcVal, hn, hk]
    · simp [State.mfcVal, hn, hk, State.pmRead, State.core_pmAdvance]
  · rw [s.mfcVal_of_ne l n hn]

/-- The end of a group takes the core as it is given. -/
@[simp] theorem State.groupEnd_setCore (n : Nat) (e : Core) : (s.setCore l d).groupEnd l n e = s.groupEnd l n e := by
  unfold State.groupEnd
  rw [State.setCore_setCore]

end

/-! ### A group that an MFC closes (R60, R88) -/

/-- A slot that gives register results or reads a control register: it makes no access and takes one beat. -/
def SlotOp.quiet (op : SlotOp) : Prop := (∃ fs, op = .land fs) ∨ ∃ d n, op = .mfc d n

section
variable {op : SlotOp} (h : op.quiet)
include h

theorem SlotOp.quiet_chks (a : Arch) : op.chks a = [] := by obtain ⟨fs, rfl⟩ | ⟨d, n, rfl⟩ := h <;> rfl
theorem SlotOp.quiet_smmOf : op.smmOf = none := by obtain ⟨fs, rfl⟩ | ⟨d, n, rfl⟩ := h <;> rfl
theorem SlotOp.quiet_beats (a : Arch) : op.beats a = 1 := by obtain ⟨fs, rfl⟩ | ⟨d, n, rfl⟩ := h <;> rfl
theorem SlotOp.quiet_bracketed (s : State) (l : Nat) : s.bracketed l op = false := by
  simp [State.bracketed, State.onceOnly, SlotOp.quiet_chks h]
theorem SlotOp.quiet_issueWrite (s : State) (l first k : Nat) : s.issueWrite l first k op = s := by obtain ⟨fs, rfl⟩ | ⟨d, n, rfl⟩ := h <;> rfl

end

section
variable {g : List Slot} (h : ∀ y ∈ g, y.op.quiet)
include h

theorem State.bracket_quiet (s : State) (l : Nat) : s.bracket l g = s :=
  s.bracket_none l g (List.any_eq_false.2 fun y hy => by simp [SlotOp.quiet_bracketed (h y hy)])
theorem smmOf_quiet : g.findSome? (fun y => y.op.smmOf) = none := List.findSome?_eq_none_iff.2 fun y hy => SlotOp.quiet_smmOf (h y hy)
theorem isRdtime_quiet : g.any Slot.isRdtime = false :=
  List.any_eq_false.2 fun y hy => by
    obtain ⟨fs, hop⟩ | ⟨d, n, hop⟩ := h y hy <;> simp [Slot.isRdtime, hop]
theorem brOf_quiet : brOf g = none :=
  List.findSome?_eq_none_iff.2 fun y hy => by
    obtain ⟨fs, hop⟩ | ⟨d, n, hop⟩ := h y hy <;> simp [hop]
theorem beats_quiet (a : Arch) : (g.map (fun y => y.op.beats a)).foldl Nat.max 1 = 1 := by
  induction g with
  | nil => rfl
  | cons y ys ih =>
    rw [List.map_cons, List.foldl_cons, SlotOp.quiet_beats (h y (by simp))]
    exact ih fun q hq => h q (List.mem_cons_of_mem _ hq)

end

theorem State.foldl_issueWrite_quiet (l first : Nat) (ops : List (Nat × SlotOp)) (h : ∀ p ∈ ops, p.2.quiet) (s : State) :
    ops.foldl (fun t p => t.issueWrite l first p.1 p.2) s = s := by
  induction ops generalizing s with
  | nil => rfl
  | cons p ps ih =>
    rw [List.foldl_cons, SlotOp.quiet_issueWrite (h p (by simp))]
    exact ih (fun q hq => h q (List.mem_cons_of_mem _ hq)) s

/-- Reading slots of register results puts them in flight, and nothing else. -/
theorem State.foldl_issueRead_land (l : Nat) (sb : List SbEntry) (a : Arch) (ops : List (Nat × SlotOp)) (h : ∀ p ∈ ops, ∃ fs, p.2 = .land fs) (s : State) (b : Bool) :
    let u := (ops.foldl (fun (t : State × Bool) p => (t.1.issueRead l sb t.2 p.1 p.2, t.2 || isAtomicOp a p.2)) (s, b)).1
    (u = s ∧ landOps ops = []) ∨ u = s.setCore l ((s.core l).fly (landOps ops)) := by
  induction ops generalizing s b with
  | nil => exact .inl ⟨rfl, rfl⟩
  | cons p ps ih =>
    obtain ⟨fs, hfs⟩ := h p (by simp)
    have hp : landOps (p :: ps) = fs ++ landOps ps := by simp [landOps, hfs]
    have hread : s.issueRead l sb b p.1 p.2 = s.setCore l ((s.core l).fly fs) := by rw [hfs]; rfl
    right
    rw [List.foldl_cons, hp]
    simp only [hread]
    rcases ih (fun q hq => h q (List.mem_cons_of_mem _ hq)) (s.setCore l ((s.core l).fly fs)) (b || isAtomicOp a p.2) with ⟨e, hnil⟩ | e
    · rw [e, hnil, List.append_nil]
    · rw [e, State.core_setCore_self, State.setCore_setCore, Core.fly_fly]

theorem landOps_zipIdx (g : List Slot) (k : Nat) : landOps ((g.zipIdx k).map (fun p => (p.2, p.1.op))) = g.flatMap Slot.results := by
  induction g generalizing k with
  | nil => rfl
  | cons y ys ih =>
    have hy : landOps ((y :: ys).zipIdx k |>.map (fun p => (p.2, p.1.op))) = y.results ++ landOps ((ys.zipIdx (k + 1)).map (fun p => (p.2, p.1.op))) := rfl
    rw [hy, ih, List.flatMap_cons]

/-- Register results and a control register after them: the control register is read as it stood before the group (R88). -/
theorem State.issueAll_mfc (s : State) (l : Nat) (sb : List SbEntry) (ys : List Slot) (z : Slot) (d n : Nat) (hys : ∀ y ∈ ys, ∃ fs, y.op = .land fs)
    (hz : z.op = .mfc d n) : s.issueAll l sb ((ys ++ [z]).zipIdx.map (fun p => (p.2, p.1.op)))
      = (s.mfcVal l n).2.setCore l ((s.core l).fly (ys.flatMap Slot.results ++ [res (.g d) (s.mfcVal l n).1 1])) := by
  have hland : ∀ p ∈ ys.zipIdx.map (fun p => (p.2, p.1.op)), ∃ fs, p.2 = .land fs := by
    intro p hp
    obtain ⟨q, hq, rfl⟩ := List.mem_map.1 hp
    exact hys q.1 (List.fst_mem_of_mem_zipIdx hq)
  have hops : (ys ++ [z]).zipIdx.map (fun p => (p.2, p.1.op)) = ys.zipIdx.map (fun p => (p.2, p.1.op)) ++ [(ys.length, .mfc d n)] := by
    simp [List.zipIdx_append, hz]
  have hquiet : ∀ p ∈ ys.zipIdx.map (fun p => (p.2, p.1.op)) ++ [(ys.length, SlotOp.mfc d n)], p.2.quiet := by
    intro p hp
    rcases List.mem_append.1 hp with hp | hp
    · exact .inl (hland p hp)
    · rw [List.mem_singleton.1 hp]
      exact .inr ⟨d, n, rfl⟩
  have hread : ∀ (u : State) (b : Bool) (k : Nat), u.issueRead l sb b k (.mfc d n) = (u.mfcVal l n).2.setCore l ((u.core l).fly [res (.g d) (u.mfcVal l n).1 1]) := by
    intro u b k
    rw [← u.core_mfcVal l n l]
    rfl
  rw [hops]
  unfold State.issueAll
  dsimp only
  rw [State.foldl_issueWrite_quiet _ _ _ hquiet, List.foldl_append, List.foldl_cons, List.foldl_nil, hread]
  rw [← landOps_zipIdx ys 0]
  rcases State.foldl_issueRead_land l sb (s.core l).arch _ hland s false with ⟨e, hnil⟩ | e
  · rw [e, hnil, List.nil_append]
  · rw [e, State.mfcVal_fly, State.core_setCore_self, State.setCore_setCore, Core.fly_fly]

/-- A group that closes without a repeat, an SMM or a capture before it, and takes one beat, issues when the store buffer has room for what it enters. -/
theorem State.coreOp_closes (s t : State) (x : At) (f : Core → Slot) (g : List Slot) (hg : (s.core x.lc).group ++ [f (s.core x.lc)] = g)
    (h : s.Closes x (f (s.core x.lc))) (hbk : s.bracket x.lc g = s) (hsmm : g.findSome? (fun y => y.op.smmOf) = none) (hrd : g.any Slot.isRdtime = false)
    (hbeats : (g.map (fun y => y.op.beats (s.core x.lc).arch)).foldl Nat.max 1 = 1)
    (ht : s.issueAll x.lc (s.core x.lc).sb (g.zipIdx.map (fun p => (p.2, p.1.op))) = t) (hroom : (t.core x.lc).sbLoad ≤ 32) :
    s.coreOp x f = t.groupEnd x.lc 1 { t.core x.lc with
      group := [], freezes := if needsFreeze (s.core x.lc).ct g then (t.core x.lc).freezes ++ [.subnormal] else (t.core x.lc).freezes,
      arch := { (t.core x.lc).arch.advance g.length (brOf g) with repLeft := none } } := by
  obtain ⟨hr, hs, -, ⟨ps, hc⟩, hn, -, ha, hw, hq⟩ := h
  rw [hg] at hc hn hq
  have hmay : s.mayIssue x.lc g 1 = true := by simp [State.mayIssue, s.ready_lead x.lc hr, hw, hrd]
  have hissue : s.issueGroup x.lc g = some (t.groupEnd x.lc 1 { t.core x.lc with
      group := [], freezes := if needsFreeze (s.core x.lc).ct g then (t.core x.lc).freezes ++ [.subnormal] else (t.core x.lc).freezes,
      arch := { (t.core x.lc).arch.advance g.length (brOf g) with repLeft := none } }) := by
    have hload : ¬ 32 < (((t.core x.lc).sb).map (fun e => e.kind.weight)).foldl (· + ·) 0 := Nat.not_lt.mpr hroom
    simp only [State.issueGroup, hbeats, hmay, Bool.not_true, Bool.false_eq_true, if_false, hbk, hsmm, Option.isSome_none, ht, if_neg hload]
    rfl
  have hk : s.wordsCheck x.lc g true = .ok ps := by rw [State.wordsCheck_group _ _ _ _ hw hn, hc]
  simp only [State.coreOp, hr, hs, ha, hg, Bool.not_true, Bool.false_eq_true, if_false, Bool.true_or, if_true, State.closeGroup, s.fetched_backed _ _ _ hq, hk, hn, hissue,
    Option.getD_some]

/-- An MFC that closes a group of register results reads its control register in the issue beat of the group (R60, R88). -/
theorem State.coreOp_mfc (s : State) (x : At) (f : Core → Slot) (z : Slot) (d n : Nat) (hf : f (s.core x.lc) = z) (hz : z.op = .mfc d n) (h : s.ClosesRegs x z) :
    let c := s.core x.lc
    let v := s.mfcVal x.lc n
    s.coreOp x f = v.2.groupEnd x.lc 1 ((v.2.core x.lc).closed (c.group ++ [z]) (c.group.flatMap Slot.results ++ [res (.g d) v.1 1]) none) := by
  intro c v
  subst hf
  have hland : ∀ y ∈ c.group, ∃ fs, y.op = .land fs := fun y hy => ((Slot.regOnly_iff y).1 (List.all_eq_true.1 h.regs y hy)).1
  have hquiet : ∀ y ∈ c.group ++ [f c], y.op.quiet := by
    intro y hy
    rcases List.mem_append.1 hy with hy | hy
    · exact .inl (hland y hy)
    · rw [List.mem_singleton.1 hy]
      exact .inr ⟨d, n, hz⟩
  have hissue := s.issueAll_mfc x.lc c.sb c.group (f c) d n hland hz
  rw [s.coreOp_closes _ x f (c.group ++ [f c]) rfl h.toCloses (State.bracket_quiet hquiet s x.lc) (smmOf_quiet hquiet) (isRdtime_quiet hquiet)
    (beats_quiet hquiet c.arch) hissue (by rw [State.core_setCore_self]; exact h.room), State.core_setCore_self, State.groupEnd_setCore, brOf_quiet hquiet, s.core_mfcVal]
  rfl

/-! ### The decode trap of MFC and MTC (R59, R60, R62) -/

theorem ctlTrap_mfc (c : Core) (n rd : Nat) (wr : Option Nat) (hl : ctlLevels n = some (rd, wr)) (hp : rd ≤ c.priv.toNat) (hf : n = 1 → c.arch.fpu = true) :
    ctlTrap c n false false = none := by
  by_cases hn : n = 1
  · simp [ctlTrap, hl, Nat.not_lt.mpr hp, hf hn]
  · simp [ctlTrap, hl, Nat.not_lt.mpr hp, hn]
theorem ctlTrap_mtc (c : Core) (n rd w : Nat) (hl : ctlLevels n = some (rd, some w)) (hp : w ≤ c.priv.toNat) (hf : n = 1 → c.arch.fpu = true) :
    ctlTrap c n true false = none := by
  by_cases hn : n = 1
  · simp [ctlTrap, hl, Nat.not_lt.mpr hp, hf hn]
  · simp [ctlTrap, hl, Nat.not_lt.mpr hp, hn]

/-- The number of a control register, as a number and in the six bits of its field. -/
theorem ctl_number_eq (n : BitVec 6) (k : Nat) (hk : k < 64) : n.toNat = k ↔ n = BitVec.ofNat 6 k := by
  rw [← BitVec.toNat_inj, BitVec.toNat_ofNat, Nat.mod_eq_of_lt hk]

/-- A write of a control register that half O of a split pair may make, by a level that may make it, has its effect after the idle beats. -/
theorem serialises_mtcOp (s : State) (x : At) (r : RF) (i : Instr) (n rd w : Nat) (hi : exec i s = .next (s.mtcOp x r n id)) (hl : ctlLevels n = some (rd, some w))
    (hp : w ≤ (s.core x.lc).priv.toNat) (hf : n = 1 → (s.core x.lc).arch.fpu = true) (hd : r.d = 0) (hb : r.b = 0)
    (ho : n = 8 → ¬ (x.lc % 2 = 1 ∧ (s.pair (pairOf x.lc)).mode = .split)) :
    s.Serialises x i (serialSlot none false (decide (n = 1)) false) (fun t =>
      let v := (t.core x.lc).rg r.a
      if n = 8 then t.mtcCctl x.lc v else ((t.perfMtc x.lc n v).modArch x.lc (fun a => a.mtc n v)).retire x.lc) := by
  have hcctl : cctlIll s x.lc n = false := by
    by_cases hn : n = 8
    · have := ho hn
      simp only [cctlIll, hn, decide_true, Bool.true_and]
      simpa [← Bool.decide_and] using this
    · simp [cctlIll, hn]
  have hmore : (decide (r.d ≠ 0) || decide (r.b ≠ 0) || cctlIll s x.lc n) = false := by simp [hd, hb, hcctl]
  exact s.serialises_of x i _ _ _ _ _ hi (by rw [hmore]; exact ctlTrap_mtc _ n rd w hl hp hf)

/-! ### RDTIME (R162, 06 R265, 16 R747, R750) -/

section
variable (s : State) (x : At) (r : RF)

/-- The slot of a legal RDTIME. -/
def rdtimeSlot : Slot := { op := .rdtime r.d.toNat, mem := true }

/-- RDTIME alone in its group, when its read leaves the state u with core d and results fs in flight. -/
theorem State.exec_rdtime (u : State) (d : Core) (fs : List Flight) (ha : r.a = 0) (hb : r.b = 0) (h : s.Alone x (rdtimeSlot r))
    (hread : s.issueRead x.lc (s.core x.lc).sb false 0 (.rdtime r.d.toNat) = u.setCore x.lc (d.fly fs)) (hsb : d.sb = (s.core x.lc).sb) :
    exec (.rdtime x r) s = .next (u.groupEnd x.lc 1 (d.closed [rdtimeSlot r] fs none)) := by
  have hslot : ({ op := .rdtime r.d.toNat, mem := true, trap := decTrap (s.core x.lc) (decide (r.a ≠ 0) || decide (r.b ≠ 0)) 0 false } : Slot) = rdtimeSlot r := by
    simp [ha, hb, rdtimeSlot]
  have hbk : s.bracket x.lc [rdtimeSlot r] = s := s.bracket_none x.lc _ rfl
  have hissue : s.issueAll x.lc (s.core x.lc).sb [(0, (rdtimeSlot r).op)] = u.setCore x.lc (d.fly fs) := hread
  have hfreeze : ∀ ct, needsFreeze ct [rdtimeSlot r] = false := fun ct => by simp [needsFreeze, rdtimeSlot]
  have hroom : ((s.issueAll x.lc (s.core x.lc).sb [(0, (rdtimeSlot r).op)]).core x.lc).sbLoad ≤ 32 := by
    rw [hissue, State.core_setCore_self, Core.sbLoad, show (d.fly fs).sb = (s.core x.lc).sb from hsb]
    exact h.room
  have hdone : s.aloneDone x.lc (rdtimeSlot r) = u.groupEnd x.lc 1 (d.closed [rdtimeSlot r] fs none) := by
    simp only [State.aloneDone, hbk, hissue, State.core_setCore_self, State.groupEnd_setCore, hfreeze, Core.closed, Bool.false_eq_true, if_false]
    rfl
  change Host.Outcome.next (s.coreOp x fun c => { op := .rdtime r.d.toNat, mem := true, trap := decTrap c (decide (r.a ≠ 0) || decide (r.b ≠ 0)) 0 false }) = _
  rw [s.coreOp_alone x _ (by rw [hslot]; exact h) rfl (by simp only [hslot, hbk]; exact hroom), hslot, hdone]

/-- A value that enters the log does not depend on the results in flight. -/
theorem State.rxLog_fly (l : Nat) (v : Word) (fs : List Flight) :
    (s.setCore l ((s.core l).fly fs)).rxLog l v = (s.rxLog l v).setCore l (((s.rxLog l v).core l).fly fs) := by
  have h7 : (s.setCore l ((s.core l).fly fs)).isRx7 l = s.isRx7 l := rfl
  unfold State.rxLog State.rxResp
  rw [h7]
  cases s.isRx7 l
  · simp only [Bool.false_eq_true, if_false]
  · simp only [if_true, State.modCore, State.core_setCore_self, State.setCore_setCore]
    rfl
theorem State.sb_rxLog (l : Nat) (v : Word) : ((s.rxLog l v).core l).sb = (s.core l).sb := by
  cases h : s.isRx7 l <;> simp [State.rxLog, State.rxResp, h, State.modCore]

end

/-- Settles O17, register by register; RDTIME on a module alone, on a follower, and on a checked pair. -/
theorem controlRegisterAndTimeAccess : Obligations.ControlRegisterAndTimeAccess := by
  unfold Obligations.ControlRegisterAndTimeAccess
  refine ⟨?_, ?_⟩
  · intro s x r n rd wr w l c mtc hl hfpu
    have hone : n.toNat = 1 → c.arch.fpu = true := fun h => hfpu ((ctl_number_eq n 1 (by decide)).1 h)
    refine ⟨?_, fun ha hb => ?_, fun hd hb => ?_, fun hd hb hw hp ho => ?_, fun hd hb hp ho => ?_⟩
    · intro ha hb hp v z h
      have hz : ({ op := .mfc r.d.toNat n.toNat, fp := decide (n = 1), trap := ctlTrap c n.toNat false (decide (r.a ≠ 0) || decide (r.b ≠ 0)) } : Slot) = z := by
        simp only [ha, hb, ne_eq, not_true_eq_false, decide_false, Bool.or_false, ctlTrap_mfc c n.toNat rd wr hl hp hone]
        rfl
      exact ⟨congrArg Host.Outcome.next (s.coreOp_mfc x _ z r.d.toNat n.toNat hz rfl h),
        fun hn => s.mfcVal_of_ne l _ fun h => hn ((ctl_number_eq n 49 (by decide)).1 h)⟩
    · exact s.givesRegs_of x _ _ _ rfl (by simp [ha, hb, landSlot, regSlot]; rfl) rfl
    · exact s.givesRegs_of x _ _ _ rfl (by simp [hd, hb, landSlot, regSlot]; rfl) rfl
    · exact serialises_mtcOp s x r _ n.toNat rd w rfl (hw ▸ hl) hp hone hd hb fun h8 => ho ((ctl_number_eq n 8 (by decide)).1 h8)
    · have hcctl : ∀ i, exec i s = .next (s.mtcOp x r 8 id) → mtc i 8 := fun i hi =>
        serialises_mtcOp s x r i 8 2 2 hi rfl (hp ▸ Nat.le_refl 2) (fun h => absurd h (by decide)) hd hb fun _ => ho
      exact ⟨hcctl _ rfl, hcctl _ rfl, hcctl _ rfl, hcctl _ rfl, hcctl _ rfl⟩
  · intro s x r c z g now ha hb h
    refine ⟨fun hfollows hsplit => ?_, fun hfollows => ?_, fun hfollows hchecked => ?_⟩
    · refine s.exec_rdtime x r (s.grant { g with val := now }) c _ ha hb h ?_ rfl
      simp only [State.issueRead, hfollows, hsplit, Bool.false_eq_true, if_false]
      exact s.grant_setCore x.lc _ _
    · intro v t
      refine s.exec_rdtime x r (t.grant g) (t.core x.lc) _ ha hb h ?_ (s.sb_rxLog x.lc v)
      rw [← State.grant_setCore, ← State.rxLog_fly]
      simp only [State.issueRead, hfollows, if_true]
      rfl
    · refine s.exec_rdtime x r s _ _ ha hb h ?_ rfl
      simp only [State.issueRead, hfollows, hchecked, Bool.false_eq_true, if_false, if_true]
      rfl

end Sys2Proof.Machine
end

section
/-! PROOFS. What a core waits for (02 R96, R97): the oldest miss is performed and what it lets go on goes on; the scratchpad piece of a miss;
fetches, table walks and the end of a freeze. -/

namespace Sys2Proof.Machine

/-! ### The oldest miss (R97, 06 R274, 16 R747) -/

section
variable {s : State} {l : Nat} {m : Miss} {rest : List Miss}

/-- The oldest miss, once it may be performed and its turn has come, is performed, with its grants. -/
theorem State.arrive_of_turn (hm : (s.core l).misses = m :: rest) (hp : (s.core l).mayPerform m = true) (ht : s.turns (if m.hit then [] else m.src.grants l) = true) :
    s.arrive l = ((if m.hit then [] else m.src.grants l).filter (fun g => decide (g.kind ≠ 2) || s.dpx.follows)).foldl State.grant (s.perform l) := by
  simp only [State.arrive, hm, hp, ht, Bool.not_true, Bool.or_false, Bool.false_eq_true, if_false]

/-- Nothing but a restore, sparing or the freeze of the module holds data that arrives back. -/
theorem exec_missDataArrival (hn : s.lcNumbered l = true) (hs : s.moduleStopped = false) (hf : s.dpx.frozen = false)
    (hr : (s.core l).freezes.contains .restore = false) (hsp : (s.core l).freezes.contains .sparing = false) :
    exec (.missDataArrival l) s = .next (((State.performHits l (s.core l).misses.length (s.arrive l)).sendHead l).finish l) := by
  change execMissDataArrival l s = _
  simp only [execMissDataArrival, hn, hs, hf, hr, hsp, Bool.not_true, Bool.or_false, Bool.false_eq_true, if_false]

/-! What the oldest miss gives, by its source: the state that is read, the register words and the bytes of a block move, or poison. -/

section
variable (hm : (s.core l).misses = m :: rest) (hp : (s.core l).mayPerform m = true)
include hm hp

theorem State.perform_parts (ps : List (Nat × Nat × Nat)) (x : LdExt) (hsrc : m.src = .parts ps x) (hk : m.key = none) :
    let r := State.readParts l (decide ((s.core l).priv = 2)) ((s.core l).sb.take m.older) s ps
    (∀ d, r.val = some d → s.perform l = ((r.st.setCore l (r.st.core l)).deliver l m [extVal x (ofLe d)] d none).tasArrived l m (extVal x (ofLe d)))
    ∧ (r.val = none → s.perform l = (r.st.deliver l m [] [] (some r.bad)).tasArrived l m 1) := by
  refine ⟨fun d hd => ?_, fun hd => ?_⟩
  · simp only [State.perform, hm, hp, hsrc, hd, hk, Bool.not_true, Bool.false_eq_true, if_false]
    rfl
  · simp only [State.perform, hm, hp, hsrc, hd, Bool.not_true, Bool.false_eq_true, if_false]

theorem State.perform_bitAt (ba : Nat) (hsrc : m.src = .bitAt ba) (hk : m.key = none) (hq : s.bitPoison (bitAt ba) = none) :
    let t := s.planeCompare (bitAt ba)
    let v : Word := BitVec.ofNat 64 (b2n ((bitPend ((s.core l).sb.take m.older) ba).foldl bitApply (s.bitGet l (bitAt ba))))
    s.perform l = ((t.setCore l (t.core l)).deliver l m [v] [] none).tasArrived l m v := by
  simp only [State.perform, hm, hp, hsrc, hq, hk, Bool.not_true, Bool.false_eq_true, if_false]
  rfl

theorem State.perform_rmw (op : RmwOp) (pa n mt : Nat) (e v : Word) (k : Nat) (hsrc : m.src = .rmw op pa n mt e v) (hk : m.key = some k) (old : List Byte) :
    let r := s.rmwMem l pa n mt (fun old => leBytes n (op.apply n (ofLe old) e.toNat v.toNat))
    let w : Word := BitVec.ofNat 64 (ofLe old)
    r.val = some old → s.perform l = ((r.st.setCore l ((r.st.core l).logOnce (some k) m.ex w)).deliver l m [w] old none).tasArrived l m w := by
  intro r w hv
  simp only [State.perform, hm, hp, hsrc, hk, Bool.not_true, Bool.false_eq_true, if_false]
  rw [show (s.rmwMem l pa n mt _).val = some old from hv]
  rfl

theorem State.perform_cas2 (pa mt : Nat) (e0 e1 v0 v1 : Word) (k : Nat) (hsrc : m.src = .cas2 pa mt e0 e1 v0 v1) (hk : m.key = some k) (old : List Byte) :
    let r := s.rmwMem l pa 16 mt (fun old => if ofLe old = e0.toNat + 2 ^ 64 * e1.toNat then leBytes 8 v0.toNat ++ leBytes 8 v1.toNat else old)
    let lo : Word := BitVec.ofNat 64 (ofLe (old.take 8))
    let hi : Word := BitVec.ofNat 64 (ofLe (old.drop 8))
    r.val = some old → s.perform l = (r.st.setCore l (((r.st.core l).logOnce (some k) m.ex lo).logOnce (some (k + 1)) m.ex hi)).deliver l m [lo, hi] [] none := by
  intro r lo hi hv
  simp only [State.perform, hm, hp, hsrc, hk, Bool.not_true, Bool.false_eq_true, if_false]
  rw [show (s.rmwMem l pa 16 mt _).val = some old from hv]
  rfl

theorem State.perform_bitRmw (ba : Nat) (v : Bool) (k : Nat) (hsrc : m.src = .bitRmw ba v) (hk : m.key = some k) (hq : s.bitPoison (bitAt ba) = none) :
    let t := s.bitPut l (bitAt ba) v
    let w : Word := BitVec.ofNat 64 (b2n (s.bitGet l (bitAt ba)))
    s.perform l = ((t.setCore l ((t.core l).logOnce (some k) m.ex w)).deliver l m [w] [] none).tasArrived l m w := by
  simp only [State.perform, hm, hp, hsrc, hq, hk, Bool.not_true, Bool.false_eq_true, if_false]
  rfl

end
end

/-! ### The scratchpad piece of a miss (07 R314, R331) -/

section
variable (s : State) (l pa n : Nat)

theorem State.readParts_scr (sb : List SbEntry) (h : Bool) (hb : s.backed pa = true) (hf : (fwdBytes sb ⟨pa, n, 3⟩).all (fun b => b.isSome) = false) :
    (State.readParts l h sb s [(pa, 3, n)]).val = some (overFwd (fwdBytes sb ⟨pa, n, 3⟩) ((s.pair (pairOf l)).scrBytes (pa % 2 ^ 20) n)) := by
  simp [State.readParts, State.readScr, hb, hf]

theorem State.rmwMem_scr (f : List Byte → List Byte) (hb : s.backed pa = true) :
    (s.rmwMem l pa n 3 f).val = some ((s.pair (pairOf l)).scrBytes (pa % 2 ^ 20) n)
      ∧ (s.rmwMem l pa n 3 f).st = s.scrWrite (pairOf l) (pa % 2 ^ 20) (f ((s.pair (pairOf l)).scrBytes (pa % 2 ^ 20) n)) := by
  simp [State.rmwMem, State.readScr, hb]
end

/-! ### Fetches, table walks and freezes (07 R346, R369, R370, 04 R210) -/

section
variable (s : State) (l : Nat)

theorem exec_fetchComplete (pa : Nat) (hx : s.lcExists l = true) (hs : s.moduleStopped = false)
    (ht : s.translate (s.core l) (s.core l).priv .x (s.core l).arch.pc.toNat = .ok pa 0) (hb : s.backed pa = true) (hc : isCarve pa = false) :
    exec (.fetchComplete l) s = .next ((s.coreSees l pa 0x03).fillFetch (pairOf l) (pa / 128)) := by
  change execFetchComplete l s = _
  simp [execFetchComplete, s.live_of_running _ hs, hx, ht, hb, hc]

/-- The permission that a walk for an access of kind k asks for. -/
def walkNeed : AccKind → Need
  | .read => .r
  | .write => .w
  | .rmw => .rw
  | .fetch => .x

theorem exec_tlbWalkComplete (va : Word) (k : AccKind) (pa mt : Nat) (hx : s.lcExists l = true) (hs : s.moduleStopped = false)
    (ht : s.translate (s.core l) (s.core l).priv (walkNeed k) va.toNat = .ok pa mt) :
    let u := (s.walkReads (s.core l) (s.core l).priv va.toNat).foldl (fun t a => (t.walkSees l a).fillPiece (pairOf l) a 8) s
    exec (.tlbWalkComplete l va k) s = .next (u.modCore l (fun d =>
      { d with tlb := d.tlb ++ (s.tlbEntries (s.core l) (s.core l).priv va.toNat).filter (fun e => !d.tlb.contains e) })) := by
  intro u
  change execTlbWalkComplete l va k s = _
  cases k <;> simp only [walkNeed] at ht <;>
    simp only [execTlbWalkComplete, s.live_of_running _ hs, hx, ht, Bool.not_true, Bool.false_eq_true, if_false, u]

theorem exec_subnormalFreezeEnd (hs : s.moduleStopped = false) (hf : (s.core l).freezes.contains .subnormal = true) (hz : s.dpx.frozen = false) :
    exec (.subnormalFreezeEnd l) s = .next (((s.setCore l (Core.resume { s.core l with freezes := (s.core l).freezes.erase .subnormal })).sendHead l).finish l) := by
  change execSubnormalFreezeEnd l s = _
  simp only [execSubnormalFreezeEnd, s.live_of_running _ hs, State.endFreeze, hf, hz, Bool.not_false, Bool.and_self, if_true]
  rfl

end

/-- Settles O25: the oldest miss by its source, then the scratchpad piece, a fetch, a table walk and the end of a freeze. -/
theorem whatACoreWaitsForArrives : Obligations.WhatACoreWaitsForArrives := by
  unfold Obligations.WhatACoreWaitsForArrives
  refine ⟨?_, ?_⟩
  · intro s l m rest c h gs after runs comes logs word hn hs hf hr hsp hm hp ht
    have hruns : ∀ u : State, s.perform l = u → runs u := by
      intro u hu
      rw [← hu]
      change exec _ s = .next (after (s.perform l))
      rw [exec_missDataArrival hn hs hf hr hsp, State.arrive_of_turn hm hp ht]
    refine ⟨fun ps x hsrc hk => ?_, fun ba hsrc hk hq => ?_, fun op pa n mt e v k hsrc hk => ?_, fun pa mt e0 e1 v0 v1 k hsrc hk => ?_, fun ba v k hsrc hk hq => ?_⟩
    · obtain ⟨hgood, hbad⟩ := State.perform_parts hm hp ps x hsrc hk
      exact ⟨fun d hd => hruns _ (hgood d hd), fun hd => hruns _ (hbad hd)⟩
    · exact hruns _ (State.perform_bitAt hm hp ba hsrc hk hq)
    · exact fun old hv => hruns _ (State.perform_rmw hm hp op pa n mt e v k hsrc hk old hv)
    · exact fun old hv => hruns _ (State.perform_cas2 hm hp pa mt e0 e1 v0 v1 k hsrc hk old hv)
    · exact hruns _ (State.perform_bitRmw hm hp ba v k hsrc hk hq)
  · intro s l pa mt n va sb h f c scr fs
    refine ⟨fun hb hfs => ⟨s.readParts_scr l pa n sb h hb hfs, s.rmwMem_scr l pa n f hb⟩, fun hx hs => ⟨fun ht hb hc => ⟨?_, ?_⟩, ?_, ?_⟩⟩
    · exact exec_fetchComplete s l pa hx hs ht hb hc
    · exact s.coreSees_of_quiet l pa 0x03
    · intro k need hk ht
      have hneed : walkNeed k = need := by
        simp only [List.mem_cons, Prod.mk.injEq, List.not_mem_nil, or_false] at hk
        obtain ⟨rfl, rfl⟩ | ⟨rfl, rfl⟩ | ⟨rfl, rfl⟩ | ⟨rfl, rfl⟩ := hk <;> rfl
      exact exec_tlbWalkComplete s l va k pa mt hx hs (hneed ▸ ht)
    · exact exec_subnormalFreezeEnd s l hs

end Sys2Proof.Machine
end

section
/-! PROOFS. Instructions with register results (03 R117 to R124, 04 R182 to R187): the value that each gives, and its slot. -/

namespace Sys2Proof.Machine

/-! ### The values, as the statements of the spec give them -/

section
variable (x y : Word)

theorem minSW_eq : minSW x y = BitVec.ofInt 64 (min x.toInt y.toInt) := by
  unfold minSW
  split <;> rename_i h <;> rw [BitVec.slt_iff_toInt_lt] at h
  · rw [min_eq_right h.le, BitVec.ofInt_toInt]
  · rw [min_eq_left (not_lt.1 h), BitVec.ofInt_toInt]
theorem maxSW_eq : maxSW x y = BitVec.ofInt 64 (max x.toInt y.toInt) := by
  unfold maxSW
  split <;> rename_i h <;> rw [BitVec.slt_iff_toInt_lt] at h
  · rw [max_eq_right h.le, BitVec.ofInt_toInt]
  · rw [max_eq_left (not_lt.1 h), BitVec.ofInt_toInt]
theorem minUW_eq : minUW x y = BitVec.ofNat 64 (min x.toNat y.toNat) := by
  unfold minUW
  split <;> rename_i h <;> rw [BitVec.ult_iff_toNat_lt] at h
  · rw [min_eq_right h.le, BitVec.ofNat_toNat, BitVec.setWidth_eq]
  · rw [min_eq_left (not_lt.1 h), BitVec.ofNat_toNat, BitVec.setWidth_eq]
theorem maxUW_eq : maxUW x y = BitVec.ofNat 64 (max x.toNat y.toNat) := by
  unfold maxUW
  split <;> rename_i h <;> rw [BitVec.ult_iff_toNat_lt] at h
  · rw [max_eq_right h.le, BitVec.ofNat_toNat, BitVec.setWidth_eq]
  · rw [max_eq_left (not_lt.1 h), BitVec.ofNat_toNat, BitVec.setWidth_eq]

/-- The leading zeros of a word are what its highest one, at log2, leaves above it. -/
theorem clzW_of_ne_zero (h : x ≠ 0) : clzW x = 63 - x.toNat.log2 := by
  have hpos : x.toNat ≠ 0 := fun hx => h (BitVec.eq_of_toNat_eq hx)
  have htop : x.toNat.log2 < 64 := (Nat.log2_lt hpos).2 x.isLt
  have hbit : ∀ k, x.toNat.log2 < k → x.getLsbD k = false := fun k hk =>
    Nat.testBit_lt_two_pow (lt_of_lt_of_le Nat.lt_log2_self (Nat.pow_le_pow_right (by decide) hk))
  have hfind : (List.range 64).find? (fun k => x.getLsbD (63 - k)) = some (63 - x.toNat.log2) := by
    rw [List.find?_range_eq_some]
    refine ⟨?_, List.mem_range.2 (by omega), fun k hk => ?_⟩
    · rw [show 63 - (63 - x.toNat.log2) = x.toNat.log2 by omega]
      exact Nat.testBit_log2 hpos
    · rw [hbit _ (by omega)]
      rfl
  rw [clzW, hfind, Option.getD_some]
theorem clzW_zero : clzW 0 = 64 := by decide
theorem ofNat_clzW : BitVec.ofNat 64 (clzW x) = if x = 0 then 64 else BitVec.ofNat 64 (63 - x.toNat.log2) := by
  by_cases h : x = 0
  · rw [if_pos h, h, clzW_zero]
    rfl
  · rw [if_neg h, clzW_of_ne_zero x h]

theorem popcW_eq : popcW x = ((List.range 64).filter (fun k => x.getLsbD k)).length := List.countP_eq_length_filter
end

/-- The 18 bits of a LIM stand at bit 12, sign-extended (R79). -/
theorem limVal_eq (imm : BitVec 18) : limVal imm = BitVec.ofInt 64 (imm.toInt * 4096) := by
  have happ : (imm ++ (0 : BitVec 12)).toInt = imm.toInt * 4096 := by
    rw [BitVec.toInt_append]
    simp [mul_comm]
  rw [limVal, BitVec.signExtend, happ]

/-! ### The slots -/

theorem landSlot_ok (c : Core) (fs : List Flight) : landSlot c false fs = regSlot fs := by simp [landSlot, regSlot]

section
variable (s : State) (x : At)

/-- An instruction whose slot is that of results fs, and legal, gives them. -/
theorem State.givesRegs_landSlot (i : Instr) (ill : Bool) (f : Core → Slot) (fs : List Flight) (hi : exec i s = .next (s.coreOp x f))
    (hf : f (s.core x.lc) = landSlot (s.core x.lc) ill fs) (hill : ill = false) : s.GivesRegs x i (regSlot fs) :=
  s.givesRegs_of x i f _ hi (by rw [hf, hill, landSlot_ok]) rfl

theorem State.givesRegs_aluR (r : RF) (i : Instr) (g : Word → Word → Word) (v : Word) (hi : exec i s = .next (s.coreOp x (aluR r g)))
    (hv : g ((s.core x.lc).rg r.a) ((s.core x.lc).rg r.b) = v) : s.GivesRegs x i (regSlot [resG r.d v 1]) :=
  s.givesRegs_landSlot x i false _ _ hi (by rw [← hv]; rfl) rfl
theorem State.givesRegs_aluU (r : RF) (i : Instr) (g : Word → Word) (v : Word) (hi : exec i s = .next (s.coreOp x (aluU r g))) (hb : r.b = 0)
    (hv : g ((s.core x.lc).rg r.a) = v) : s.GivesRegs x i (regSlot [resG r.d v 1]) :=
  s.givesRegs_landSlot x i _ _ _ hi (by rw [← hv]; rfl) (by simp [hb])

end

/-- Settles O1, operation by operation. -/
theorem integerRegisterResults : Obligations.IntegerRegisterResults := by
  unfold Obligations.IntegerRegisterResults
  intro s x r a b gives
  have alu : ∀ (i : At → RF → Instr) (g : Word → Word → Word) (v : Word), exec (i x r) s = .next (s.coreOp x (aluR r g)) → g a b = v → gives i v :=
    fun i g v => s.givesRegs_aluR x r (i x r) g v
  refine ⟨alu _ _ _ rfl rfl, alu _ _ _ rfl rfl, alu _ _ _ rfl rfl, alu _ _ _ rfl rfl, alu _ _ _ rfl rfl, alu _ _ _ rfl rfl, alu _ _ _ rfl rfl, alu _ _ _ rfl rfl,
    alu _ _ _ rfl rfl, alu _ _ _ rfl (minSW_eq a b), alu _ _ _ rfl (maxSW_eq a b), alu _ _ _ rfl (minUW_eq a b), alu _ _ _ rfl (maxUW_eq a b), fun hb => ?_, fun hb => ?_⟩
  · exact s.givesRegs_aluU x r _ _ _ rfl hb (ofNat_clzW a)
  · exact s.givesRegs_aluU x r _ _ _ rfl hb (congrArg (BitVec.ofNat 64) (popcW_eq a))

/-- Settles O2, instruction by instruction. -/
theorem integerImmediateResults : Obligations.IntegerImmediateResults := by
  unfold Obligations.IntegerImmediateResults
  intro s x f h d imm a i w gives
  have shift : ∀ (j : Instr) (g : Word → Nat → Word), exec j s = .next (s.coreOp x (shI h g)) → h.hi = 0 → gives j h.d (g w h.sh.toNat) :=
    fun j g hj hz => s.givesRegs_landSlot x j (decide (h.hi ≠ 0)) _ _ hj rfl (by simp [hz])
  have alu : ∀ (j : Instr) (g : Word → Word → Word), exec j s = .next (s.coreOp x (aluI f g)) → gives j f.d (g a i) :=
    fun j g hj => s.givesRegs_landSlot x j false _ _ hj rfl rfl
  refine ⟨alu _ _ rfl, alu _ _ rfl, alu _ _ rfl, alu _ _ rfl, fun hz => ⟨shift _ _ rfl hz, shift _ _ rfl hz, shift _ _ rfl hz⟩, ?_⟩
  exact s.givesRegs_landSlot x _ false _ _ rfl (by rw [← limVal_eq]) rfl

/-! ### Compares and bit registers (03 R118, R119, R121) -/

section
variable (x y : Word)

theorem ccHolds_eq : ccHolds 0 x y = decide (x = y) := beq_eq_decide _ _
theorem ccHolds_ne : ccHolds 1 x y = decide (x ≠ y) := by simp [ccHolds, bne, beq_eq_decide]
theorem ccHolds_lt : ccHolds 2 x y = decide (x.toInt < y.toInt) := rfl
theorem ccHolds_ge : ccHolds 3 x y = decide (y.toInt ≤ x.toInt) := by simp [ccHolds, BitVec.slt, ← decide_not]
theorem ccHolds_ltu : ccHolds 4 x y = decide (x.toNat < y.toNat) := rfl
theorem ccHolds_geu : ccHolds 5 x y = decide (y.toNat ≤ x.toNat) := by simp [ccHolds, BitVec.ult, ← decide_not]
end

theorem ofNat_b2n (p : Bool) : BitVec.ofNat 64 (b2n p) = if p then 1 else 0 := by cases p <;> rfl

/-- Settles O3, condition by condition and operation by operation. -/
theorem compareAndBitRegisterResults : Obligations.CompareAndBitRegisterResults := by
  unfold Obligations.CompareAndBitRegisterResults
  intro s x r f cc c a b p q m i bit
  have slot : ∀ (j : Instr) (ill : Bool) (g : Core → Slot) (fs : List Flight), exec j s = .next (s.coreOp x g) →
      g (s.core x.lc) = landSlot (s.core x.lc) ill fs → ill = false → s.GivesRegs x j (regSlot fs) := fun j => s.givesRegs_landSlot x j
  have cmp : ∀ (k : BitVec 6) (v : Bool), ccHolds k.toNat a b = v → k.toNat < 6 → cc = k → bit (.cmp x r cc) r.d v := by
    rintro k v hv hk rfl
    exact slot _ _ _ _ rfl (by rw [← hv]) (by simpa using hk)
  have cmpi : ∀ (k : Cc) (v : Bool), ccHolds (Cc.num k) m i = v → bit (.cmpi x f k) f.d v := fun k v hv => slot _ false _ _ rfl (by rw [← hv]; rfl) rfl
  have bits : ∀ (j : Instr) (g : Bool → Bool → Bool), exec j s = .next (s.coreOp x (bitR r g)) → bit j r.d (g p q) := fun j g hj => slot j false _ _ hj rfl rfl
  refine ⟨cmp 0 _ (ccHolds_eq a b) (by decide), cmp 1 _ (ccHolds_ne a b) (by decide), cmp 2 _ (ccHolds_lt a b) (by decide),
    cmp 3 _ (ccHolds_ge a b) (by decide), cmp 4 _ (ccHolds_ltu a b) (by decide), cmp 5 _ (ccHolds_geu a b) (by decide),
    cmpi .eq _ (ccHolds_eq m i), cmpi .ne _ (ccHolds_ne m i), cmpi .lt _ (ccHolds_lt m i), cmpi .ge _ (ccHolds_ge m i),
    cmpi .ltu _ (ccHolds_ltu m i), cmpi .geu _ (ccHolds_geu m i), ?_, bits _ (· && ·) rfl, bits _ (· || ·) rfl, bits _ (· != ·) rfl, bits _ (· && !·) rfl,
    fun hb => ?_, ?_, fun hb => ?_, fun hi => ?_, fun hr => ?_⟩
  · exact slot _ false _ _ rfl rfl rfl
  · exact slot _ _ _ _ rfl rfl (by simp [hb])
  · exact slot _ false _ _ rfl rfl rfl
  · exact slot _ _ _ _ rfl (by rw [← ofNat_b2n]) (by simp [hb])
  · exact slot _ _ _ _ rfl (by rw [Nat.mod_eq_of_lt hi]) (by simpa using hi)
  · exact slot _ _ _ _ rfl rfl (by simp [hr])

/-! ### Multiplies and divisions (03 R122 to R124, 04 R182 to R187) -/

/-- The specifier of a division state, as the statements give it, is the one that decode asks for (R123). -/
theorem divReg_of (d : Reg) (h4 : d.toNat % 4 = 0) (hpos : 4 ≤ d.toNat) : divReg d = true := by simp [divReg, h4, hpos]

/-- The slot of a step of the division whose state is in Gd to Gd+3. -/
def stepSlot (d : Reg) (op : SlotOp) : Slot := { op := op, md := true, regs := [d.toNat], wr := quad d }

section
variable (s : State) (x : At) (r : RF)

theorem landSlot_md (c : Core) (fs : List Flight) : { landSlot c false fs with md := true } = mdSlot fs := by simp [landSlot, mdSlot]

theorem dstepSlot_ok (op : SlotOp) (c : Core) (h4 : r.d.toNat % 4 = 0) (hpos : 4 ≤ r.d.toNat) (ha : r.a = 0) (hb : r.b = 0) : dstepSlot r op c = stepSlot r.d op := by
  simp [dstepSlot, stepSlot, divReg_of r.d h4 hpos, ha, hb]

/-- An instruction whose slot is that of results fs in class MD, and legal, gives them. -/
theorem State.givesRegs_mdSlot (i : Instr) (ill : Bool) (g : Core → Slot) (fs : List Flight) (hi : exec i s = .next (s.coreOp x g))
    (hg : g (s.core x.lc) = { landSlot (s.core x.lc) ill fs with md := true }) (hill : ill = false) : s.GivesRegs x i (mdSlot fs) :=
  s.givesRegs_of x i g _ hi (by rw [hg, hill, landSlot_md]) rfl

/-- An instruction alone in its group that does nothing but put results in flight. -/
theorem State.alone_flies (i : Instr) (g : Core → Slot) (z : Slot) (fs : List Flight) (hi : exec i s = .next (s.coreOp x g)) (hg : g (s.core x.lc) = z)
    (h : s.Alone x z) (hchk : z.op.chks (s.core x.lc).arch = []) (hsmm : z.op.smmOf = none) (hbr : brOf [z] = none) (hbeats : z.op.beats (s.core x.lc).arch = 1)
    (hst : s.issueAll x.lc (s.core x.lc).sb [(0, z.op)] = s.setCore x.lc ((s.core x.lc).fly fs)) :
    exec i s = .next (s.groupEnd x.lc 1 ((s.core x.lc).closed [z] fs none)) := by
  have hbk : s.bracket x.lc [z] = s := s.bracket_none x.lc _ (by simp [State.bracketed, State.onceOnly, hchk])
  rw [← hbr]
  refine s.alone_replaces x i g z (s.core x.lc) fs hi hg h hsmm ?_ h.room rfl (by rw [hbeats]; rfl)
  rw [State.before, hbk]
  exact hst

end

/-- Settles O4: the multiplies, the first and the last step, then a step alone in its group. -/
theorem multiplyAndDivideResults : Obligations.MultiplyAndDivideResults := by
  unfold Obligations.MultiplyAndDivideResults
  refine ⟨?_, ?_⟩
  · intro s x r c a b gives init fin
    have mul : ∀ (i : At → RF → Instr) (g : Word → Word → Word) (v : Word), exec (i x r) s = .next (s.coreOp x (mulR r g)) → g a b = v → gives i [resG r.d v 3] :=
      fun i g v hi hv => s.givesRegs_mdSlot x (i x r) false _ _ hi (by rw [← hv]; rfl) rfl
    refine ⟨mul _ _ _ rfl (BitVec.mul_def ..), mul _ _ _ rfl rfl, mul _ _ _ rfl rfl, fun h4 hpos => ?_⟩
    have hreg := divReg_of r.d h4 hpos
    have first : ∀ (i : At → RF → Instr) (w sgn : Bool), exec (i x r) s = .next (s.coreOp x (dinitSlot r w sgn)) → gives i (init w sgn) :=
      fun i w sgn hi => s.givesRegs_mdSlot x (i x r) _ _ _ hi rfl (by simp [hreg])
    refine ⟨first _ _ _ rfl, first _ _ _ rfl, first _ _ _ rfl, first _ _ _ rfl, fun ha hb => ?_⟩
    exact s.givesRegs_mdSlot x _ _ _ _ rfl rfl (by simp [hreg, ha, hb])
  · intro s x r c st z h4 hpos ha hb
    refine ⟨fun h => ?_, fun h => ?_⟩
    · exact s.alone_flies x _ _ _ _ rfl (dstepSlot_ok r _ c h4 hpos ha hb) h rfl rfl rfl rfl rfl
    · exact s.alone_flies x _ _ _ _ rfl (dstepSlot_ok r _ c h4 hpos ha hb) h rfl rfl rfl rfl rfl

end Sys2Proof.Machine
end

section
/-! PROOFS. Floating point (03 R165 to R169, 04 R191 to R206): with the unit on and legal specifiers, the slot of each operation gives its result and flags. -/

namespace Sys2Proof.Machine

/-- Flipping the top bit of a pattern of k + 1 bits. -/
theorem xor_top_bit (k x : Nat) (h : x < 2 ^ (k + 1)) : x ^^^ 2 ^ k = if bit x k = true then x - 2 ^ k else x + 2 ^ k := by
  have hpos : 0 < 2 ^ k := Nat.two_pow_pos k
  have hq : x / 2 ^ k < 2 := by rw [Nat.div_lt_iff_lt_mul hpos, ← Nat.pow_succ']; exact h
  have hlow : (x ^^^ 2 ^ k) % 2 ^ k = x % 2 ^ k := by rw [Nat.xor_mod_two_pow, Nat.mod_self, Nat.xor_zero]
  have hhigh : (x ^^^ 2 ^ k) / 2 ^ k = x / 2 ^ k ^^^ 1 := by rw [Nat.xor_div_two_pow, Nat.div_self hpos]
  have hx := Nat.div_add_mod x (2 ^ k)
  have hy := Nat.div_add_mod (x ^^^ 2 ^ k) (2 ^ k)
  rw [hlow, hhigh] at hy
  rcases Nat.le_one_iff_eq_zero_or_eq_one.1 (Nat.lt_succ_iff.1 hq) with h0 | h1
  · rw [h0] at hx hy
    rw [if_neg (by simp [bit, h0])]
    simp only [Nat.zero_xor] at hy
    omega
  · rw [h1] at hx hy
    rw [if_pos (by simp [bit, h1])]
    simp only [Nat.xor_self] at hy
    omega

/-- FPNEG flips the sign bit of the operand in its format (04 R201). -/
theorem fNegate_fPat (d : Bool) (w : Nat) : fNegate d (fPat d w) = fPat d w ^^^ 2 ^ (fmtBits d - 1) := by
  have hlt : fPat d w < 2 ^ (fmtBits d - 1 + 1) := by
    rw [show fmtBits d - 1 + 1 = fmtBits d by cases d <;> rfl]
    exact Nat.mod_lt _ (Nat.two_pow_pos _)
  have hsign : fSign d (fPat d w) = bit (fPat d w) (fmtBits d - 1) := by cases d <;> rfl
  rw [xor_top_bit _ _ hlt, fNegate, hsign]

theorem decTrap_fp (c : Core) (h : c.arch.fpu = true) : decTrap c false 0 true = none := by simp [decTrap, h]

/-- A specifier below 32 names an F register (02 R57). -/
theorem fBad_of_lt (d : Reg) (h : d.toNat < 32) : fBad d = false := by simpa [fBad] using h
theorem stepReg_of (d : Reg) (h4 : d.toNat % 4 = 0) (h : d.toNat < 32) : stepReg d = true := by simp [stepReg, h4, fBad_of_lt d h]

/-- With the floating-point unit on, an instruction whose slot is z, and legal, gives its results. -/
theorem State.givesRegs_fp (s : State) (x : At) (i : Instr) (ill : Bool) (g : Core → Slot) (z : Slot) (hfpu : (s.core x.lc).arch.fpu = true)
    (hi : exec i s = .next (s.coreOp x g)) (hg : g (s.core x.lc) = { z with trap := decTrap (s.core x.lc) ill 0 true }) (hz : z.regOnly = true)
    (ht : z.trap = none) (hill : ill = false) : s.GivesRegs x i z :=
  s.givesRegs_of x i g z hi (by rw [hg, hill, decTrap_fp _ hfpu, ← ht]) hz

/-- Settles O5: the operations of two operands, then those of one. -/
theorem floatingPointResults : Obligations.FloatingPointResults := by
  unfold Obligations.FloatingPointResults
  intro s x r fmt t k cc c rm op a b e sub gives moves cvt rc hfpu hd ha
  have hd32 := fBad_of_lt r.d hd
  have ha32 := fBad_of_lt r.a ha
  have freezing : ∀ (i : Instr) (ill : Bool) (g : Core → Slot) (lat : Nat) (args : List (Bool × Nat)) (q : FRes) (sb : Bool), exec i s = .next (s.coreOp x g) →
      g c = fpFreeze c ill r.d lat args q → ill = false → args.any (fun p => fSubnormal p.1 p.2) = sb → gives i lat q sb := by
    rintro i ill g lat args q sb hi hg hill rfl
    exact s.givesRegs_fp x i ill g _ hfpu hi hg rfl rfl hill
  refine ⟨fun hb => ?_, fun hb => ?_⟩
  · have hill : (fBad r.d || fBad r.a || fBad r.b) = false := by simp [hd32, ha32, fBad_of_lt r.b hb]
    have two : ∀ (i : Instr) (lat : Nat) (g : Rm → Nat → Nat → FRes), exec i s = .next (s.coreOp x (fp2 r fmt lat g)) → gives i lat (g rm a b) (sub fmt a || sub fmt b) :=
      fun i lat g hi => freezing i _ _ lat [(fmt, a), (fmt, b)] (g rm a b) _ hi rfl hill (by simp [sub])
    refine ⟨two _ 4 (fun rm => fAdd fmt rm false) rfl, two _ 4 (fun rm => fAdd fmt rm true) rfl, two _ 4 (fMul fmt) rfl,
      two _ 2 (fun _ => fMinMax fmt false) rfl, two _ 2 (fun _ => fMinMax fmt true) rfl, ?_, ?_⟩
    · exact freezing _ _ _ 4 [(fmt, a), (fmt, b), (fmt, e)] _ _ rfl rfl hill (by simp [sub, Bool.or_assoc])
    · exact s.givesRegs_fp x _ (fBad r.a || fBad r.b || decide ((0 : BitVec 3) ≠ 0)) _ _ hfpu rfl rfl rfl rfl (by simp [ha32, fBad_of_lt r.b hb])
  · have one : ∀ (i : Instr) (g : Nat → Nat), exec i s = .next (s.coreOp x (fp1 r fmt g)) → moves i (g a) :=
      fun i g hi => s.givesRegs_fp x i _ _ _ hfpu hi rfl rfl rfl (by simp [hd32, ha32, hb])
    have conv : ∀ (i : Instr) (src : Bool) (g : Rm → Nat → FRes), exec i s = .next (s.coreOp x (Machine.cvt r t 0 (some src) g)) →
        cvt i (g rc (op src r.a)) (sub src (op src r.a)) :=
      fun i src g hi => freezing i _ _ 3 [(src, op src r.a)] _ _ hi rfl (by simp [hd32, ha32, hb]) (by simp [sub])
    have int : ∀ (i : Instr) (g : Rm → Nat → FRes), exec i s = .next (s.coreOp x (Machine.cvt r t 0 none g)) → cvt i (g rc (c.rf r.a).toNat) false :=
      fun i g hi => freezing i _ _ 3 [] _ _ hi rfl (by simp [hd32, ha32, hb]) rfl
    refine ⟨one _ id rfl, ?_, one _ (fAbsolute fmt) rfl, conv _ _ _ rfl, conv _ _ _ rfl, conv _ _ _ rfl, conv _ _ _ rfl, int _ _ rfl, int _ _ rfl⟩
    have hneg := one _ _ (rfl : exec (.fpneg x r fmt) s = _)
    rwa [show fNegate fmt a = _ from fNegate_fPat fmt _] at hneg

/-- Settles O6: the moves, the first steps, the last, and a step alone in its group. -/
theorem floatingPointStepsAndMoves : Obligations.FloatingPointStepsAndMoves := by
  unfold Obligations.FloatingPointStepsAndMoves
  intro s x r c op sub steps st fin z hfpu
  refine ⟨fun hd hb => ?_, fun ha hb => ?_, fun h4 hd => ?_⟩
  · exact s.givesRegs_fp x _ _ _ _ hfpu rfl rfl rfl rfl (by simp [fBad_of_lt r.d hd, hb])
  · exact s.givesRegs_fp x _ _ _ _ hfpu rfl rfl rfl rfl (by simp [fBad_of_lt r.a ha, hb])
  have hreg := stepReg_of r.d h4 hd
  have first : ∀ (i : Instr) (ill : Bool) (g : Core → Slot) (args : List (Bool × Nat)) (t : FStep) (sb : Bool), exec i s = .next (s.coreOp x g) →
      g c = fInit r ill args (fun _ => t) c → ill = false → args.any (fun p => fSubnormal p.1 p.2) = sb → steps i t sb := by
    rintro i ill g args t sb hi hg hill rfl
    exact s.givesRegs_fp x i ill g _ hfpu hi hg rfl rfl hill
  have div : ∀ (i : Instr) (d : Bool), exec i s = .next (s.coreOp x (fDivSlot r d)) → r.a.toNat < 32 → r.b.toNat < 32 →
      steps i (fDivInit d c.ct (op d r.a) (op d r.b)) (sub d r.a || sub d r.b) :=
    fun i d hi ha hb => first i _ _ [(d, op d r.a), (d, op d r.b)] _ _ hi rfl (by simp [hreg, fBad_of_lt r.a ha, fBad_of_lt r.b hb]) (by simp [sub])
  have sqrt : ∀ (i : Instr) (d : Bool), exec i s = .next (s.coreOp x (fSqrtSlot r d)) → r.a.toNat < 32 → r.b = 0 →
      steps i (fSqrtInit d c.ct (op d r.a)) (sub d r.a) :=
    fun i d hi ha hb => first i _ _ [(d, op d r.a)] _ _ hi rfl (by simp [hreg, fBad_of_lt r.a ha, hb]) (by simp [sub])
  refine ⟨fun ha hb => ⟨div _ _ rfl ha hb, div _ _ rfl ha hb⟩, fun ha hb => ⟨sqrt _ _ rfl ha hb, sqrt _ _ rfl ha hb⟩, fun ha hb => ⟨?_, fun h i hi => ?_⟩⟩
  · exact s.givesRegs_fp x _ _ _ _ hfpu rfl rfl rfl rfl (by simp [hreg, ha, hb])
  · have hz : fStepSlot r c = z := by simp [fStepSlot, hreg, ha, hb, decTrap_fp c hfpu, z]
    have hexec : exec i s = .next (s.coreOp x (fStepSlot r)) := by
      simp only [List.mem_cons, List.not_mem_nil, or_false] at hi
      rcases hi with rfl | rfl <;> rfl
    exact s.alone_flies x i _ z _ hexec hz h rfl rfl rfl rfl rfl

end Sys2Proof.Machine
end

section
/-! PROOFS. Loads, stores, atomics, fills and maintenance alone in their group (03 R125 to R157): what the capture before them leaves of the core, and what each
begins. -/

namespace Sys2Proof.Machine

/-! ### The core before a slot issues alone -/

section
variable (s : State) (l : Nat) (z : Slot)

@[simp] theorem State.before_arch : (s.before l z).arch = (s.core l).arch := s.bracket_keeps (·.arch) l [z] fun _ _ _ _ _ => rfl
@[simp] theorem State.before_bitram : (s.before l z).bitram = (s.core l).bitram := s.bracket_keeps (·.bitram) l [z] fun _ _ _ _ _ => rfl
@[simp] theorem State.before_priv : (s.before l z).priv = (s.core l).priv := congrArg Arch.priv (s.before_arch l z)
theorem State.before_sameMap : (s.before l z).sameMap (s.core l) :=
  ⟨s.bracket_keeps (·.tlb) l [z] fun _ _ _ _ _ => rfl, s.bracket_keeps (·.lctxCur) l [z] fun _ _ _ _ _ => rfl⟩
@[simp] theorem State.before_load : (s.before l z).sbLoad = (s.core l).sbLoad := s.bracket_load l [z]

/-- A core with no result of a once-only access logged has none after the capture either. -/
theorem State.before_once (h : (s.core l).once = []) : (s.before l z).once = [] := by
  have hmap : (s.before l z).once.map (fun e => (e.key, e.val, e.again)) = (s.core l).once.map (fun e => (e.key, e.val, e.again)) := by
    unfold State.before State.bracket
    split
    · exact s.capture_once l
    · rfl
  rw [h] at hmap
  exact List.map_eq_nil_iff.1 hmap

theorem State.hitBytes_bracket (n : Nat) (ps : List Piece) : (s.bracket l [z]).hitBytes n ps = s.hitBytes n ps :=
  s.bracket_rest (fun t => t.hitBytes n ps) l [z] fun _ _ => rfl

/-- The pieces of an access whose check has passed. -/
theorem State.piecesOf_of_access {q : Req} {ps : List Piece} (h : s.access l (s.core l) (s.core l).priv q = .ok ps) : s.piecesOf l q = ps := by
  simp [State.piecesOf, h]

/-- The pieces depend on the translation and the level of the core alone. -/
theorem State.piecesOf_setCore (d : Core) (q : Req) (hm : d.sameMap (s.core l)) (hp : d.priv = (s.core l).priv) :
    (s.setCore l d).piecesOf l q = s.piecesOf l q := by
  simp only [State.piecesOf, State.core_setCore_self, hp, s.access_setCore l l d d (s.core l) hm]
theorem State.piecesOf_fly (fs : List Flight) (q : Req) : (s.setCore l ((s.core l).fly fs)).piecesOf l q = s.piecesOf l q :=
  s.piecesOf_setCore l _ q ⟨rfl, rfl⟩ rfl

end

/-! ### An instruction alone in its group -/

section
variable (s : State) (x : At)

/-- A slot that is no SMM and no control transfer, and takes one beat, makes its read and then its write, and these replace the core by d with results fs in
flight. -/
theorem State.alone_makes (i : Instr) (g : Core → Slot) (z : Slot) (d : Core) (fs : List Flight) (hi : exec i s = .next (s.coreOp x g))
    (hg : g (s.core x.lc) = z) (h : s.Alone x z) (hsmm : z.op.smmOf = none) (hbr : brOf [z] = none) (hbeats : z.op.beats (s.core x.lc).arch = 1)
    (hst : ((s.bracket x.lc [z]).issueRead x.lc (s.before x.lc z).sb false 0 z.op).issueWrite x.lc (s.before x.lc z).nextMiss 0 z.op = s.setCore x.lc (d.fly fs))
    (hroom : d.sbLoad ≤ 32) (harch : d.arch = (s.core x.lc).arch) : exec i s = .next (s.groupEnd x.lc 1 (d.closed [z] fs none)) := by
  rw [← hbr]
  exact s.alone_replaces x i g z d fs hi hg h hsmm hst hroom (congrArg (fun a : Arch => a.bk.ct) harch) (by rw [hbeats]; rfl)

/-- A store enters its bytes (03 R125, R126). -/
theorem State.alone_stores (i : Instr) (g : Core → Slot) (n : Nat) (ea v : Word) (fp : Bool) (ps : List Piece) (hi : exec i s = .next (s.coreOp x g)) :
    let z : Slot := { op := .store n ea v fp, mem := true, fp := fp }
    let d := (s.before x.lc z).push (pieceEntries (decide ((s.core x.lc).priv = 2)) ps (leBytes n v.toNat))
    g (s.core x.lc) = z → s.Alone x z → s.access x.lc (s.core x.lc) (s.core x.lc).priv { ea := ea.toNat, n := n, need := .w } = .ok ps → d.sbLoad ≤ 32 →
      exec i s = .next (s.groupEnd x.lc 1 (d.closed [z] [] none)) := by
  intro z d hg h hacc hroom
  refine s.alone_makes x i g z d [] hi hg h rfl rfl rfl ?_ hroom (s.before_arch x.lc z)
  have hps := (s.piecesOf_bracket x.lc [z] { ea := ea.toNat, n := n, need := .w }).trans (s.piecesOf_of_access x.lc hacc)
  change (s.bracket x.lc [z]).pushPieces x.lc ((s.bracket x.lc [z]).piecesOf x.lc _) _ = _
  rw [hps, State.pushPieces, State.bracket_setCore, Core.fly_nil]
  change s.setCore x.lc ((s.before x.lc z).push (pieceEntries (decide ((s.before x.lc z).priv = 2)) ps (leBytes n v.toNat))) = _
  rw [State.before_priv]

/-- A load of another region than DEV that is no L1D hit is a miss (02 R96, 07 R314). -/
theorem State.alone_misses (i : Instr) (g : Core → Slot) (n : Nat) (e : Ext) (dst : Dst) (ea : Word) (fp : Bool) (p : Piece) (ps : List Piece)
    (hi : exec i s = .next (s.coreOp x g)) :
    let z : Slot := { op := .load { n := n, e := e, dst := dst, ea := ea }, mem := true, fp := fp }
    let b := s.before x.lc z
    let d : Core := { b with misses := b.misses ++ [{ id := b.nextMiss, src := .parts (partsOf (p :: ps)) (n, e), addr := p.pa, older := b.sb.length, ex := b.exec }],
                             nextMiss := b.nextMiss + 1 }
    g (s.core x.lc) = z → s.Alone x z → s.access x.lc (s.core x.lc) (s.core x.lc).priv { ea := ea.toNat, n := n, need := .r } = .ok (p :: ps) → p.mt ≠ 2 →
      s.hitBytes (pairOf x.lc) (p :: ps) = none → exec i s = .next (s.groupEnd x.lc 1 (d.closed [z] [{ res dst 0 4 with wait := some b.nextMiss }] none)) := by
  intro z b d hg h hacc hmt hhit
  refine s.alone_makes x i g z d _ hi hg h rfl rfl rfl ?_ (by rw [show d.sbLoad = b.sbLoad from rfl, State.before_load]; exact h.room) (s.before_arch x.lc z)
  have hps := (s.piecesOf_bracket x.lc [z] { ea := ea.toNat, n := n, need := .r }).trans (s.piecesOf_of_access x.lc hacc)
  change (s.bracket x.lc [z]).startLoad x.lc b.sb false _ ((s.bracket x.lc [z]).piecesOf x.lc _) (n, e) dst 4 = _
  simp only [hps, State.startLoad, if_neg hmt, State.hitBytes_bracket, hhit]
  exact s.bracket_setCore x.lc [z] _

end

/-- Settles O7: stores from G, then from F. -/
theorem storesEnterTheStoreBuffer : Obligations.StoresEnterTheStoreBuffer := by
  unfold Obligations.StoresEnterTheStoreBuffer
  intro s x f ps c ea stores
  have gen : ∀ (i : Instr) (n : Nat), exec i s = .next (s.coreOp x (stG f n)) → stores i n (c.rg f.d) false :=
    fun i n hi => s.alone_stores x i _ n ea _ false ps hi rfl
  refine ⟨gen _ _ rfl, gen _ _ rfl, gen _ _ rfl, gen _ _ rfl, fun hd hfpu => ?_⟩
  have flt : ∀ (i : Instr) (n : Nat), exec i s = .next (s.coreOp x (stF f n)) → stores i n (c.rf f.d) true := by
    intro i n hi
    refine s.alone_stores x i _ n ea _ true ps hi ?_
    simp only [stF, decide_eq_false (Nat.not_le.2 hd), decTrap_fp (s.core x.lc) hfpu]
    rfl
  exact ⟨flt _ _ rfl, flt _ _ rfl⟩

/-- Settles O8: loads into G, then into F. -/
theorem loadsThatMissWaitForTheirData : Obligations.LoadsThatMissWaitForTheirData := by
  unfold Obligations.LoadsThatMissWaitForTheirData
  intro s x f p ps c ea loads
  have gen : ∀ (i : Instr) (n : Nat) (e : Ext), exec i s = .next (s.coreOp x (ldG f n e)) → loads i n e (.g f.d.toNat) false :=
    fun i n e hi => s.alone_misses x i _ n e _ ea false p ps hi rfl
  refine ⟨gen _ _ _ rfl, gen _ _ _ rfl, gen _ _ _ rfl, gen _ _ _ rfl, gen _ _ _ rfl, gen _ _ _ rfl, gen _ _ _ rfl, fun hd hfpu => ?_⟩
  have flt : ∀ (i : Instr) (n : Nat), exec i s = .next (s.coreOp x (ldF f n)) → loads i n .zero (.f f.d.toNat) true := by
    intro i n hi
    refine s.alone_misses x i _ n .zero _ ea true p ps hi ?_
    simp only [ldF, decide_eq_false (Nat.not_le.2 hd), decTrap_fp (s.core x.lc) hfpu]
    rfl
  exact ⟨flt _ _ rfl, flt _ _ rfl⟩

end Sys2Proof.Machine
end

section
/-! PROOFS. Fills and maintenance by address, alone in their group (03 R147, R148, R153, 07 R355). -/

namespace Sys2Proof.Machine

/-! ### Fills and maintenance by address (03 R147, R148, R153) -/

section
variable (s : State) (x : At)

/-- A fill, whose read puts results fs in flight and whose write is bytes bs to the pieces of the access q. -/
theorem State.alone_fills (i : Instr) (g : Core → Slot) (z : Slot) (q : Req) (ps : List Piece) (bs : List Byte) (fs : List Flight)
    (hi : exec i s = .next (s.coreOp x g)) (hg : g (s.core x.lc) = z) (hsmm : z.op.smmOf = none) (hbr : brOf [z] = none) (hbeats : z.op.beats (s.core x.lc).arch = 1)
    (hread : ∀ (t : State) (sb : List SbEntry), (t.core x.lc).arch.bk = (s.core x.lc).arch.bk → t.issueRead x.lc sb false 0 z.op = t.setCore x.lc ((t.core x.lc).fly fs))
    (hwrite : ∀ (t : State) (first : Nat), (t.core x.lc).arch.bk = (s.core x.lc).arch.bk → t.issueWrite x.lc first 0 z.op = t.pushPieces x.lc (t.piecesOf x.lc q) bs) :
    let d := (s.before x.lc z).push (pieceEntries (decide ((s.core x.lc).priv = 2)) ps bs)
    s.Alone x z → s.access x.lc (s.core x.lc) (s.core x.lc).priv q = .ok ps → d.sbLoad ≤ 32 → exec i s = .next (s.groupEnd x.lc 1 (d.closed [z] fs none)) := by
  intro d h hacc hroom
  refine s.alone_makes x i g z d fs hi hg h hsmm hbr hbeats ?_ hroom (s.before_arch x.lc z)
  have hbk : (s.before x.lc z).arch.bk = (s.core x.lc).arch.bk := congrArg Arch.bk (s.before_arch x.lc z)
  have hps := (s.piecesOf_bracket x.lc [z] q).trans (s.piecesOf_of_access x.lc hacc)
  have hpriv : ((s.before x.lc z).fly fs).priv = (s.core x.lc).priv := s.before_priv x.lc z
  rw [hread _ _ hbk, hwrite _ _ (by rw [State.core_setCore_self]; exact hbk), State.pushPieces, State.piecesOf_fly, hps, State.core_setCore_self,
    State.setCore_setCore, State.bracket_setCore]
  change s.setCore x.lc (((s.before x.lc z).fly fs).push (pieceEntries (decide (((s.before x.lc z).fly fs).priv = 2)) ps bs)) = _
  rw [hpriv]
  rfl

/-- Maintenance of a WB line by address enters the store buffer (07 R355). -/
theorem State.alone_maintains (i : Instr) (g : Core → Slot) (op : MaintOp) (need : Need) (ea : Word) (p : Piece) (ps : List Piece) (hi : exec i s = .next (s.coreOp x g))
    (hneed : (if op = .inval then Need.w else .r) = need) :
    let z : Slot := { op := .maint op ea, mem := true }
    let d := (s.before x.lc z).push [.maint op (p.pa / 128)]
    g (s.core x.lc) = z → s.Alone x z → s.access x.lc (s.core x.lc) (s.core x.lc).priv { ea := ea.toNat, n := 1, need := need } = .ok (p :: ps) → p.mt = 0 → d.sbLoad ≤ 32 →
      exec i s = .next (s.groupEnd x.lc 1 (d.closed [z] [] none)) := by
  intro z d hg h hacc hmt hroom
  refine s.alone_makes x i g z d [] hi hg h rfl rfl rfl ?_ hroom (s.before_arch x.lc z)
  have hps := (s.piecesOf_bracket x.lc [z] { ea := ea.toNat, n := 1, need := need }).trans (s.piecesOf_of_access x.lc hacc)
  change (s.bracket x.lc [z]).issueWrite x.lc _ 0 (.maint op ea) = _
  simp only [State.issueWrite, hneed, hps, hmt, if_true, Core.fly_nil]
  exact s.bracket_setCore x.lc [z] _

end

/-- Settles O13: the two fills, then maintenance by its permission. -/
theorem fillsAndMaintenanceEnterTheStoreBuffer : Obligations.FillsAndMaintenanceEnterTheStoreBuffer := by
  unfold Obligations.FillsAndMaintenanceEnterTheStoreBuffer
  intro s x r a imm ps p c v ea fills maint
  refine ⟨fun ha => ⟨?_, ?_⟩, ?_, ?_, fun hp => ?_⟩
  · refine s.alone_fills x _ _ _ _ ps _ _ rfl (by simp [fillSlot, ha]) rfl rfl rfl (fun t sb hbk => ?_) fun t first hbk => ?_
    · simp only [State.issueRead, moveAdv, Arch.rg, hbk]
      rfl
    · simp only [State.issueWrite, Arch.rg, hbk]
      rfl
  · refine s.alone_fills x _ _ _ _ ps _ _ rfl (by simp [fillSlot, ha]) rfl rfl rfl (fun t sb hbk => ?_) fun t first hbk => ?_
    · simp only [State.issueRead, moveAdv, Arch.rg, hbk]
      rfl
    · simp only [State.issueWrite, Arch.rg, hbk]
      rfl
  · exact s.alone_maintains x _ _ .clean .r _ p ps rfl rfl (by simp [maintSlot]; rfl)
  · exact s.alone_maintains x _ _ .clinv .r _ p ps rfl rfl (by simp [maintSlot]; rfl)
  · exact s.alone_maintains x _ _ .inval .w _ p ps rfl rfl (by simp only [maintSlot, decTrap_eq_none (s.core x.lc) false 1 rfl hp]; rfl)

end Sys2Proof.Machine
end

section
/-! PROOFS. Atomics alone in their group (03 R130 to R133, 07 R317). -/

namespace Sys2Proof.Machine

/-! ### Atomics (03 R130 to R133) -/

/-- With no result logged an atomic is a miss behind every older store, whose results wait for it (07 R317). -/
theorem State.startAtomic_unlogged (s : State) (l : Nat) (sb : List SbEntry) (key : Nat) (src : MissSrc) (pa : Nat) (dst : Dst) (dsts : List Dst)
    (h : (s.core l).once = []) : s.startAtomic l sb key src pa (dst :: dsts) =
      s.addMiss l { id := 0, src := src, addr := pa, ahead := sb.length, older := sb.length, key := some key } ((dst :: dsts).map (fun d => { res d 0 4 with once := true })) := by
  have hlogged : ∀ k, (s.core l).logged k = none := fun k => by simp [Core.logged, h]
  have hrange : List.range (dst :: dsts).length = 0 :: (List.range dsts.length).map Nat.succ := List.range_succ_eq_map
  have hnone : (List.range (dst :: dsts).length).mapM (fun i => (s.core l).logged (key + i)) = none := by
    rw [hrange, List.mapM_cons, hlogged]
    rfl
  simp only [State.startAtomic, hnone]

/-- A slot whose read is an atomic that nothing logged answers, and that writes nothing then. -/
theorem State.alone_waits (s : State) (x : At) (i : Instr) (g : Core → Slot) (z : Slot) (src : MissSrc) (pa : Nat) (dst : Dst) (dsts : List Dst)
    (hi : exec i s = .next (s.coreOp x g)) (hg : g (s.core x.lc) = z) (hsmm : z.op.smmOf = none) (hbr : brOf [z] = none) (hbeats : z.op.beats (s.core x.lc).arch = 1)
    (hread : (s.bracket x.lc [z]).issueRead x.lc (s.before x.lc z).sb false 0 z.op =
      (s.bracket x.lc [z]).startAtomic x.lc (s.before x.lc z).sb (onceKey (s.core x.lc).arch 0 0) src pa (dst :: dsts))
    (hwrite : ∀ t : State, (t.core x.lc).arch.bk = (s.core x.lc).arch.bk → t.issueWrite x.lc (s.before x.lc z).nextMiss 0 z.op = t) :
    let b := s.before x.lc z
    let m : Miss := { id := b.nextMiss, src := src, addr := pa, ahead := b.sb.length, older := b.sb.length, key := some (onceKey (s.core x.lc).arch 0 0), ex := b.exec }
    let d : Core := { b with misses := b.misses ++ [m], nextMiss := b.nextMiss + 1 }
    s.Alone x z → (s.core x.lc).once = [] →
      exec i s = .next (s.groupEnd x.lc 1 (d.closed [z] ((dst :: dsts).map (fun e => { res e 0 4 with once := true, wait := some b.nextMiss })) none)) := by
  intro b m d h honce
  refine s.alone_makes x i g z d _ hi hg h hsmm hbr hbeats ?_ (by rw [show d.sbLoad = b.sbLoad from rfl, State.before_load]; exact h.room) (s.before_arch x.lc z)
  have hstart : (s.bracket x.lc [z]).startAtomic x.lc b.sb (onceKey (s.core x.lc).arch 0 0) src pa (dst :: dsts)
      = s.setCore x.lc (d.fly ((dst :: dsts).map (fun e => { res e 0 4 with once := true, wait := some b.nextMiss }))) := by
    rw [State.startAtomic_unlogged _ _ _ _ _ _ _ _ (s.before_once x.lc z honce), State.addMiss, State.bracket_setCore, List.map_map]
    rfl
  rw [hread, hstart]
  refine hwrite _ ?_
  rw [State.core_setCore_self]
  exact (congrArg Arch.bk (s.before_arch x.lc z) : b.arch.bk = _)

/-- What each atomic of n bytes writes of an old value that n bytes hold (03 R130). -/
theorem RmwOp.apply_or_eq (n old e v : Nat) (h : old < 2 ^ (8 * n)) : RmwOp.apply .or n old e v = (old ||| v) % 2 ^ (8 * n) := by
  rw [Nat.or_mod_two_pow, Nat.mod_eq_of_lt h]
  rfl
theorem RmwOp.apply_and_eq (n old e v : Nat) (h : old < 2 ^ (8 * n)) : RmwOp.apply .and n old e v = (old &&& v) % 2 ^ (8 * n) := by
  rw [Nat.and_mod_two_pow, Nat.mod_eq_of_lt h]
  rfl

/-- Settles O10: the atomics of one register, CAS2, and the value that each writes. -/
theorem atomicsWaitTheirTurn : Obligations.AtomicsWaitTheirTurn := by
  unfold Obligations.AtomicsWaitTheirTurn
  refine ⟨?_, fun n old e v _ hold => ⟨rfl, rfl, rfl, RmwOp.apply_or_eq n old e v hold, RmwOp.apply_and_eq n old e v hold⟩⟩
  intro s x r sz p c a n waits one two
  have key : ∀ z, onceKey ((s.bracket x.lc [z]).core x.lc).arch 0 0 = onceKey (s.core x.lc).arch 0 0 := fun z => congrArg (onceKey · 0 0) (s.before_arch x.lc z)
  refine ⟨fun hsz => ?_, fun hd hb => ?_⟩
  · have atom : ∀ (i : Instr) (op : RmwOp), exec i s = .next (s.coreOp x (atomSlot op r sz)) → one i op := by
      intro i op hi h honce hacc
      have hslot : atomSlot op r sz c = { op := .atomic op n a (c.rg r.d) (c.rg r.b) r.d.toNat, mem := true } := by
        simp only [atomSlot, Nat.mod_eq_of_lt hsz, decide_eq_false (Nat.not_le.2 hsz), decTrap_ok]
        rfl
      refine s.alone_waits x i _ _ _ p.pa (.g r.d.toNat) [] hi hslot rfl rfl rfl ?_ (fun _ _ => rfl) h honce
      simp only [State.issueRead, State.piecesOf_bracket, s.piecesOf_of_access x.lc hacc, key]
    exact ⟨atom _ _ rfl, atom _ _ rfl, atom _ _ rfl, atom _ _ rfl, atom _ _ rfl⟩
  · intro h honce hacc
    refine s.alone_waits x _ _ _ _ p.pa (.g r.d.toNat) [.g (r.d.toNat + 1)] rfl ?_ rfl rfl rfl ?_ (fun _ _ => rfl) h honce
    · simp only [hd, hb, ne_eq, not_true_eq_false, decide_false, Bool.or_false, decTrap_ok]
      rfl
    · simp only [State.issueRead, State.piecesOf_bracket, s.piecesOf_of_access x.lc hacc, key]
end Sys2Proof.Machine
end

section
/-! PROOFS. Bit-space instructions alone in their group (03 R136 to R139, 07 R314, R317). -/

namespace Sys2Proof.Machine

/-! ### Bit-space instructions (03 R136 to R139, 07 R314, R317) -/

section
variable (s : State) (x : At)

/-- A slot before which no capture comes makes its read and its write on the core as it stands. -/
theorem State.alone_makes_now (i : Instr) (g : Core → Slot) (z : Slot) (d : Core) (fs : List Flight) (hi : exec i s = .next (s.coreOp x g))
    (hg : g (s.core x.lc) = z) (h : s.Alone x z) (hbk : s.bracketed x.lc z.op = false) (hsmm : z.op.smmOf = none) (hbr : brOf [z] = none)
    (hbeats : z.op.beats (s.core x.lc).arch = 1)
    (hst : (s.issueRead x.lc (s.core x.lc).sb false 0 z.op).issueWrite x.lc (s.core x.lc).nextMiss 0 z.op = s.setCore x.lc (d.fly fs))
    (hroom : d.sbLoad ≤ 32) (harch : d.arch = (s.core x.lc).arch) : exec i s = .next (s.groupEnd x.lc 1 (d.closed [z] fs none)) := by
  refine s.alone_makes x i g z d fs hi hg h hsmm hbr hbeats ?_ hroom harch
  rw [State.before, s.bracket_none x.lc [z] (by simp [hbk])]
  exact hst

/-- A bit read, which no capture precedes. -/
theorem State.alone_reads_bit (i : Instr) (g : Core → Slot) (ba : Word) (r : Nat) (d : Core) (fs : List Flight) (hi : exec i s = .next (s.coreOp x g))
    (hg : g (s.core x.lc) = { op := .bitRead ba r, mem := true }) (h : s.Alone x { op := .bitRead ba r, mem := true })
    (hst : s.startBit x.lc (s.core x.lc).sb false ba.toNat (.b r) = s.setCore x.lc (d.fly fs)) (hsb : d.sb = (s.core x.lc).sb) (harch : d.arch = (s.core x.lc).arch) :
    exec i s = .next (s.groupEnd x.lc 1 (d.closed [{ op := .bitRead ba r, mem := true }] fs none)) := by
  refine s.alone_makes_now x i g _ d fs hi hg h ?_ rfl rfl rfl hst ?_ harch
  · simp [State.bracketed, State.onceOnly, SlotOp.chks]
  · rw [Core.sbLoad, hsb]
    exact h.room

/-- A slot that does nothing but enter ks into the store buffer. -/
theorem State.alone_pushes (i : Instr) (g : Core → Slot) (z : Slot) (ks : List SbKind) (hi : exec i s = .next (s.coreOp x g)) (hg : g (s.core x.lc) = z)
    (h : s.Alone x z) (hsmm : z.op.smmOf = none) (hbr : brOf [z] = none) (hbeats : z.op.beats (s.core x.lc).arch = 1)
    (hread : ∀ (t : State) (sb : List SbEntry), t.issueRead x.lc sb false 0 z.op = t)
    (hwrite : ∀ (t : State) (first : Nat), (t.core x.lc).arch = (s.core x.lc).arch → t.issueWrite x.lc first 0 z.op = t.setCore x.lc ((t.core x.lc).push ks))
    (hroom : ((s.before x.lc z).push ks).sbLoad ≤ 32) : exec i s = .next (s.groupEnd x.lc 1 (((s.before x.lc z).push ks).closed [z] [] none)) := by
  refine s.alone_makes x i g z _ [] hi hg h hsmm hbr hbeats ?_ hroom (s.before_arch x.lc z)
  rw [hread, hwrite _ _ (s.before_arch x.lc z), State.bracket_setCore, Core.fly_nil]
  rfl

/-- BTAS or BXCH of bit ba with new value v: one of the core's own bit RAM is read and written at once, one elsewhere waits its turn (R138, 07 R318). -/
theorem State.alone_swaps_bit (i : Instr) (g : Core → Slot) (z : Slot) (ba r : Nat) (v : Bool) (hi : exec i s = .next (s.coreOp x g)) (hg : g (s.core x.lc) = z)
    (h : s.Alone x z) (hsmm : z.op.smmOf = none) (hbr : brOf [z] = none) (hbeats : z.op.beats (s.core x.lc).arch = 1)
    (hbk : isPrivBit ba = true → s.bracketed x.lc z.op = false)
    (hread : ∀ (t : State) (sb : List SbEntry), (t.core x.lc).arch = (s.core x.lc).arch →
      t.issueRead x.lc sb false 0 z.op = t.startBitRmw x.lc sb (onceKey (s.core x.lc).arch 0 0) ba v r)
    (hwrite : ∀ (t : State) (first : Nat), (t.core x.lc).arch.bk = (s.core x.lc).arch.bk →
      t.issueWrite x.lc first 0 z.op = if isPrivBit ba then t.setCore x.lc ((t.core x.lc).push [.bitw ba (.put v)]) else t) :
    let b := s.before x.lc z
    let m : Miss := { id := b.nextMiss, src := .bitRmw ba v, addr := ba, ahead := b.sb.length, older := b.sb.length, key := some (onceKey (s.core x.lc).arch 0 0), ex := b.exec }
    (isPrivBit ba = true → (b.push [.bitw ba (.put v)]).sbLoad ≤ 32 →
        exec i s = .next (s.groupEnd x.lc 1 ((b.push [.bitw ba (.put v)]).closed [z] [res (.b r) (BitVec.ofNat 64 (b2n ((s.core x.lc).privBit (s.core x.lc).sb ba))) 4] none)))
    ∧ (isPrivBit ba = false → (s.core x.lc).once = [] →
        exec i s = .next (s.groupEnd x.lc 1 (({ b with misses := b.misses ++ [m], nextMiss := b.nextMiss + 1 } : Core).closed [z]
          [{ res (.b r) 0 4 with once := true, wait := some b.nextMiss }] none))) := by
  intro b m
  refine ⟨fun hp hroom => ?_, fun hp honce => ?_⟩
  · have hb : b = s.core x.lc := by
      change (s.bracket x.lc [z]).core x.lc = _
      rw [s.bracket_none x.lc [z] (by simp [hbk hp])]
    rw [hb] at hroom ⊢
    refine s.alone_makes_now x i g z _ _ hi hg h (hbk hp) hsmm hbr hbeats ?_ hroom rfl
    rw [hread s _ rfl, State.startBitRmw, if_pos hp, hwrite _ _ (by rw [State.core_setCore_self]; rfl), if_pos hp, State.core_setCore_self, State.setCore_setCore]
    rfl
  · refine s.alone_waits x i g z (.bitRmw ba v) ba (.b r) [] hi hg hsmm hbr hbeats ?_ (fun t ht => ?_) h honce
    · rw [hread _ _ (s.before_arch x.lc z), State.startBitRmw, hp]
      rfl
    · rw [hwrite t _ ht, hp]
      rfl

end

theorem isPrivBit_of_lt {ba : Nat} (h : ba < 0x10000) : isPrivBit ba = true := decide_eq_true h
theorem isPrivBit_of_le {ba : Nat} (h : 0x10000 ≤ ba) : isPrivBit ba = false := decide_eq_false (Nat.not_lt.2 h)

/-- Settles O11: the reads by what the bit is, the writes, and the two that swap. -/
theorem bitSpaceInstructions : Obligations.BitSpaceInstructions := by
  unfold Obligations.BitSpaceInstructions
  intro s x f r c ba bx pend done zr miss reads zw writes zt zx swaps
  have reading : s.Alone x zr → ∀ (d : Core) (fs : List Flight), s.startBit x.lc c.sb false ba (.b f.d.toNat) = s.setCore x.lc (d.fly fs) → d.sb = c.sb → d.arch = c.arch →
      done (.bld x f) zr d fs := fun h d fs => s.alone_reads_bit x _ _ _ _ d fs rfl rfl h
  have writing : ∀ (i : Instr) (op : BitOp) (b : Option Nat) (g : Core → Slot), exec i s = .next (s.coreOp x g) → g c = zw op b →
      (∀ (t : State) (first : Nat), (t.core x.lc).arch = c.arch → t.issueWrite x.lc first 0 (zw op b).op = t.setCore x.lc ((t.core x.lc).push [.bitw ba op])) → writes i op b :=
    fun i op b g hi hg hwrite h hroom => s.alone_pushes x i g _ _ hi hg h rfl rfl rfl (fun _ _ => rfl) hwrite hroom
  have unnamed : ∀ (i : Instr) (op : BitOp), exec i s = .next (s.coreOp x (bitWr f op)) → f.d = 0 → writes i op none := by
    intro i op hi hd
    refine writing i op none _ hi ?_ fun t first ht => ?_
    · simp only [bitWr, hd, ne_eq, not_true_eq_false, decide_false, decTrap_ok]
      rfl
    · cases op <;> simp only [zw, State.issueWrite, ht] <;> rfl
  have swapping : ∀ (i : Instr) (z : Slot) (g : Core → Slot) (v : Bool), exec i s = .next (s.coreOp x g) → g c = z → z.op.smmOf = none → brOf [z] = none →
      z.op.beats c.arch = 1 → (isPrivBit bx = true → s.bracketed x.lc z.op = false) →
      (∀ (t : State) (sb : List SbEntry), (t.core x.lc).arch = c.arch → t.issueRead x.lc sb false 0 z.op = t.startBitRmw x.lc sb (onceKey c.arch 0 0) bx v r.d.toNat) →
      (∀ (t : State) (first : Nat), (t.core x.lc).arch.bk = c.arch.bk →
        t.issueWrite x.lc first 0 z.op = if isPrivBit bx then t.setCore x.lc ((t.core x.lc).push [.bitw bx (.put v)]) else t) → swaps i z v := by
    intro i z g v hi hg hsmm hbr hbeats hbk hread hwrite h
    obtain ⟨hpriv, helse⟩ := s.alone_swaps_bit x i g z bx r.d.toNat v hi hg h hsmm hbr hbeats hbk hread hwrite
    exact ⟨fun hlt hroom => hpriv (isPrivBit_of_lt hlt) hroom, fun hle honce => helse (isPrivBit_of_le hle) honce⟩
  refine ⟨fun h hba => ?_, fun h hba => ⟨fun hrw => ?_, fun hrw v hv => ⟨fun hm => ?_, fun hm => ?_⟩, fun hrw hv => ?_⟩, ?_, fun hd => ⟨?_, ?_, ?_⟩, fun hb => ?_, ?_⟩
  · refine reading h c _ ?_ rfl rfl
    simp only [State.startBit, isPrivBit_of_lt hba, if_true]
    rfl
  · refine reading h _ _ ?_ rfl rfl
    simp only [State.startBit, isPrivBit_of_le hba, hrw, Bool.false_and, Bool.false_eq_true, if_false]
    rfl
  · refine reading h _ _ ?_ rfl rfl
    simp only [State.startBit, isPrivBit_of_le hba, hrw, hv, show (s.core x.lc).misses = [] from hm, Bool.not_false, Bool.and_self, Bool.false_eq_true, if_false, if_true, List.isEmpty_nil]
    rfl
  · refine reading h _ _ ?_ rfl rfl
    have hne : (s.core x.lc).misses.isEmpty = false := by simpa using hm
    simp only [State.startBit, isPrivBit_of_le hba, hrw, hv, hne, Bool.not_false, Bool.and_self, Bool.false_eq_true, if_false, if_true]
    rfl
  · refine reading h _ _ ?_ rfl rfl
    simp only [State.startBit, isPrivBit_of_le hba, hrw, hv, Bool.not_false, Bool.and_self, Bool.false_eq_true, if_false, if_true]
    rfl
  · refine writing _ _ _ _ rfl rfl fun t first ht => ?_
    simp only [zw, State.issueWrite, ht]
    rfl
  · exact unnamed _ _ rfl hd
  · exact unnamed _ _ rfl hd
  · exact unnamed _ _ rfl hd
  · refine swapping _ _ _ true rfl ?_ rfl rfl rfl (fun hp => ?_) (fun t sb ht => ?_) fun t first ht => ?_
    · simp only [hb, ne_eq, not_true_eq_false, decide_false, decTrap_ok]
      rfl
    · simp only [zt, State.bracketed, State.onceOnly, SlotOp.chks, List.any_cons, List.any_nil, Bool.or_false]
      simp [show isPrivBit ((s.core x.lc).arch.rg r.a.toNat).toNat = true from hp]
    · simp only [zt, State.issueRead, ht]
      rfl
    · simp only [zt, State.issueWrite, Arch.rg, ht]
      rfl
  · refine swapping _ _ _ (c.rb r.b) rfl rfl rfl rfl rfl (fun hp => ?_) (fun t sb ht => ?_) fun t first ht => ?_
    · simp only [zx, State.bracketed, State.onceOnly, SlotOp.chks, List.any_cons, List.any_nil, Bool.or_false]
      simp [show isPrivBit (c.rg r.a).toNat = true from hp]
    · simp only [zx, State.issueRead, ht]
      rfl
    · rfl
end Sys2Proof.Machine
end

section
/-! PROOFS. Store multiple, alone in its group (03 R140 to R146). -/

namespace Sys2Proof.Machine

/-! ### Store multiple (03 R140 to R146) -/

/-- The registers that MPROG does not record, as the statement gives them. -/
theorem Arch.mmTodo_eq (a : Arch) (b : Nat) : a.mmTodo b = ((maskRegs (a.rg b)).zipIdx).filter (fun p => decide (a.bk.mprog.toNat / 2 ^ p.1 % 2 = 0)) := by
  refine List.filter_congr fun p _ => ?_
  rw [bit, ← decide_not, decide_eq_decide]
  omega

/-- With room for them all the entries of an SMM enter at once (02 R97). -/
theorem Core.pushSome_all (c : Core) (w : Nat) (ks : List SbKind) (hrest : c.arch.rest = []) (hroom : ks.length ≤ c.room) : c.pushSome w ks = (c.push ks, true) := by
  have harch : { c.arch with rest := [] } = c.arch := by rw [← hrest]
  simp only [Core.pushSome, hrest, List.isEmpty_nil, if_true, if_pos hroom, List.drop_length, List.take_length, harch]
  rfl

section
variable (s : State) (x : At)

/-- A slot alone in its group, which passes its check, is what the core issues. -/
theorem State.coreOp_issues (f : Core → Slot) (z : Slot) (hf : f (s.core x.lc) = z) (h : s.Alone x z) : s.coreOp x f = (s.issueGroup x.lc [z]).getD s := by
  obtain ⟨⟨hr, hs, -, ⟨ps, hc⟩, hn, -, ha, hw, hq⟩, hg, -, -⟩ := h
  rw [hg, List.nil_append] at hc hn hq
  have hk : s.wordsCheck x.lc [z] true = .ok ps := by rw [State.wordsCheck_group _ _ _ _ hw hn, hc]
  simp only [State.coreOp, hr, hs, ha, hg, hf, List.nil_append, Bool.not_true, Bool.false_eq_true, if_false, Bool.true_or, if_true, State.closeGroup,
    s.fetched_backed _ _ _ hq, hk, hn]

theorem State.mayIssue_of_alone (z : Slot) (h : s.Alone x z) : s.mayIssue x.lc [z] (Nat.max 1 (z.op.beats (s.core x.lc).arch)) = true := by
  have hturn : (!z.isRdtime || s.dpx.turn { kind := 2, addr := 0, agent := x.lc }) = true := by
    cases hz : z.isRdtime
    · rfl
    · rw [h.turn hz, Bool.or_true]
  simp only [State.mayIssue, h.lead, h.whole, List.isEmpty_nil, List.any_cons, List.any_nil, Bool.or_false, Bool.true_or, Bool.and_self, hturn]

/-- The core once the entries ks of an SMM have entered its store buffer and MPROG is clear (R146). -/
def Core.smmDone (c : Core) (ks : List SbKind) : Core := { c.push ks with arch := c.arch.setBk { c.arch.bk with mprog := 0 } }

/-- A group that has issued with no result in flight. -/
theorem Core.closed_nil (c : Core) (g : List Slot) : c.closed g [] none =
    { c with group := [], freezes := if needsFreeze c.ct g then c.freezes ++ [.subnormal] else c.freezes, arch := { c.arch.advance g.length none with repLeft := none } } := by
  simp only [Core.closed, List.append_nil]
  rfl

/-- An SMM alone in its group whose entries all have room, one by one and by weight. -/
theorem State.alone_stores_multiple (i : Instr) (g : Core → Slot) (z : Slot) (r b : Nat) (ks : List SbKind) (hi : exec i s = .next (s.coreOp x g))
    (hg : g (s.core x.lc) = z) (hz : z.op = .smm r b) (hfreeze : needsFreeze (s.core x.lc).ct [z] = false) (h : s.Alone x z)
    (hks : (s.bracket x.lc [z]).smmEntries x.lc r b = ks) (hlen : ks.length ≤ (s.core x.lc).room) (hroom : ((s.before x.lc z).push ks).sbLoad ≤ 32) :
    exec i s = .next (s.groupEnd x.lc (max 1 (((maskRegs ((s.core x.lc).arch.rg b)).length + 1) / 2)) (((s.before x.lc z).smmDone ks).closed [z] [] none)) := by
  have hmay := s.mayIssue_of_alone x z h
  have hbeats : Nat.max 1 (z.op.beats (s.core x.lc).arch) = max 1 (((maskRegs ((s.core x.lc).arch.rg b)).length + 1) / 2) := by
    rw [hz]
    exact max_eq_right (le_max_left _ _)
  have hpush : ((s.bracket x.lc [z]).core x.lc).pushSome 2 ks = ((s.before x.lc z).push ks, true) := by
    refine Core.pushSome_all _ 2 ks ?_ ?_
    · exact (congrArg Arch.rest (s.before_arch x.lc z)).trans h.whole
    · rw [show ((s.bracket x.lc [z]).core x.lc).room = _ from congrArg (32 - ·) (s.before_load x.lc z)]
      exact hlen
  have hstep : ∀ (t : State) (sb : List SbEntry), t.issueAll x.lc sb [(0, z.op)] = t := by
    intro t sb
    rw [hz]
    rfl
  have hload : ¬ 32 < (((s.before x.lc z).push ks).sb.map (fun e => e.kind.weight)).foldl (· + ·) 0 := Nat.not_lt.2 hroom
  have hct : ((s.before x.lc z).smmDone ks).ct = (s.core x.lc).ct := by
    rw [Core.ct, Core.smmDone, Arch.bk_setBk]
    exact congrArg (fun a : Arch => a.bk.ct) (s.before_arch x.lc z)
  have hct' : ((s.bracket x.lc [z]).core x.lc).ct = (s.core x.lc).ct := congrArg (fun a : Arch => a.bk.ct) (s.before_arch x.lc z)
  have hsmm : [z].findSome? (fun y => y.op.smmOf) = some (r, b) := by rw [List.findSome?_singleton, hz]; rfl
  have hbr : brOf [z] = none := by simp [brOf, hz]
  have hissue : s.issueGroup x.lc [z] = some (s.groupEnd x.lc (Nat.max 1 (z.op.beats (s.core x.lc).arch)) (((s.before x.lc z).smmDone ks).closed [z] [] none)) := by
    simp only [State.issueGroup, List.map_cons, List.map_nil, List.foldl_cons, List.foldl_nil, hmay, Bool.not_true, Bool.false_eq_true, if_false, hsmm, hks, hpush,
      Option.isSome_some, if_true, List.zipIdx_cons, List.zipIdx_nil, hstep, hct', hfreeze, hbr, State.core_setCore_self, State.setCore_setCore]
    rw [if_neg hload, Core.closed_nil, hct, hfreeze, State.groupEnd, State.bracket_setCore]
    rfl
  rw [hi, s.coreOp_issues x g z hg h, hissue, hbeats]
  rfl

end

/-- Settles O12: the slot, its entries, and the registers that MPROG does not record. -/
theorem storeMultiple : Obligations.StoreMultiple := by
  unfold Obligations.StoreMultiple
  intro s x r c z regs todo words d hd h hlen hroom
  have hslot : mmSlot r (.smm r.a.toNat r.b.toNat) c = z := by
    simp only [mmSlot, hd, ne_eq, not_true_eq_false, decide_false, decTrap_ok]
    rfl
  have hentries : (s.bracket x.lc [z]).smmEntries x.lc r.a.toNat r.b.toNat = words := by
    simp only [State.smmEntries, show ((s.bracket x.lc [z]).core x.lc).arch = (s.core x.lc).arch from s.before_arch x.lc z, State.piecesOf_bracket, Arch.mmTodo_eq]
    rfl
  have hdone : (s.before x.lc z).smmDone words = { d with arch := d.arch.setBk { d.arch.bk with mprog := 0 } } := rfl
  rw [← hdone]
  exact s.alone_stores_multiple x _ _ z r.a.toNat r.b.toNat words rfl hslot rfl (by simp [needsFreeze, z]) h hentries hlen hroom

end Sys2Proof.Machine
end

section
/-! PROOFS. Repeats (03 R170 to R173): a group of REP and one instruction, with a count of 0 and with a last step. -/

namespace Sys2Proof.Machine

/-! ### The group being formed does not matter to what the core may do -/

section
variable (s : State) (l : Nat) (g : List Slot)

theorem State.ready_group : (s.setCore l { s.core l with group := g }).ready l = s.ready l := by
  simp only [State.ready, State.lcExists, State.intrNow, State.bestVec, State.core_setCore_self]
  have hdel : (s.setCore l { s.core l with group := g }).deliverable l = s.deliverable l := by
    funext ie v
    simp only [State.deliverable, State.core_setCore_self]
    rfl
  rw [hdel]
  rfl

theorem State.fetchQuiet_group (ws : List Nat) : (s.setCore l { s.core l with group := g }).fetchQuiet { s.core l with group := g } ws = s.fetchQuiet (s.core l) ws := by
  have hsame : Core.sameMap { s.core l with group := g } (s.core l) := ⟨rfl, rfl⟩
  simp only [State.fetchQuiet, State.fetchHole, State.translate_setCore s l _ _ (s.core l) hsame]
  rfl

end

/-! ### The core as a repeat starts -/

/-- The core as a REP group issues: REPACT is 0 (R173). -/
def Core.repStart (c : Core) : Core := { c with group := [], arch := c.arch.setBk { c.arch.bk with repact := false } }

section
variable (c : Core)

theorem Core.repStart_bk : c.repStart.arch.bk = { c.arch.bk with repact := false } := Arch.bk_setBk _ _
theorem Core.repStart_rg (r : Nat) : c.repStart.arch.rg r = c.arch.rg r := by rw [Arch.rg, c.repStart_bk]; rfl
theorem Core.repStart_ct : c.repStart.arch.bk.ct = c.ct := by rw [c.repStart_bk]; rfl
theorem Core.repStart_dst (d : Nat) : c.repStart.arch.dst d = c.arch.dst d := by simp only [Arch.dst, c.repStart_rg]
theorem Core.repStart_repCount (r : Nat) (h : c.arch.repLeft = none) : c.repStart.arch.repCount r = (c.arch.rg r).toNat := by
  rw [Arch.repCount, c.repStart_rg, show c.repStart.arch.repLeft = none from h]
  rfl

end

/-! ### A REP group -/

section
variable (s : State) (x : At)

/-- A word that closes the group that a REP heads issues the repeat (R171). -/
theorem State.coreOp_repeats (f : Core → Slot) (z y : Slot) (r u : Nat) (ps : List Piece) (hf : f (s.core x.lc) = y) (hz : z.op = .rep r u)
    (hr : s.ready x.lc = true) (hs : x.stop = true) (hg : (s.core x.lc).group = [z]) (ha : (s.core x.lc).arch.badPc = false) (hw : (s.core x.lc).arch.rest = [])
    (hl : (s.core x.lc).arch.repLeft = none) (hq : s.fetchQuiet (s.core x.lc) (fetchWords (s.core x.lc).arch.pc.toNat [z, y]) = true)
    (hc : s.groupCheck x.lc (s.core x.lc) [z, y] true = .ok ps) : s.coreOp x f = (s.issueRep x.lc r u y).getD s := by
  have hrep : repOf [z, y] = some (r, u, y) := by simp [repOf, hz]
  have hk : s.wordsCheck x.lc [z, y] true = .ok ps := by
    simp only [State.wordsCheck, hw, hl, List.isEmpty_nil, Bool.not_true, Bool.false_eq_true, if_false, hc]
  simp only [State.coreOp, hr, hs, ha, hg, hf, List.cons_append, List.nil_append, Bool.not_true, Bool.false_eq_true, if_false, Bool.true_or, if_true, State.closeGroup,
    s.fetched_backed _ _ _ hq, hk, hrep]

/-- A repeat whose count is 0 makes no step (R173, 04 R212). -/
theorem State.issueRep_zero (l r u : Nat) (y : Slot) (hl : (s.core l).arch.repLeft = none) (h0 : (s.core l).arch.rg r = 0) :
    let d := (s.core l).repStart
    s.issueRep l r u y = some ((s.setCore l (Core.beats 1 { d with freezes := if (s.core l).ct && y.freezing then d.freezes ++ [.subnormal] else d.freezes,
                                                                   arch := { d.arch.advance 2 none with repLeft := none } })).rxGroup l 1) := by
  intro d
  have hcount : d.arch.repCount r = 0 := by rw [Core.repStart_repCount _ _ hl, h0]; rfl
  change (if d.arch.repCount r = 0 then _ else _) = _
  rw [if_pos hcount, State.setCore_setCore, ← Core.repStart_ct (s.core l)]
  rfl

end

/-! ### One step of DSTEP.F under REP (03 R172, R174) -/

/-- The core after the one step of a repeat of DSTEP.F on G[d] to G[d+3] whose count register is G[r], as its beats begin. -/
def Core.lastStep (c : Core) (d r : Nat) : Core :=
  { c with arch := { c.arch with infl := c.arch.infl ++ dstRes d (dStepF false (c.arch.dst d)) ++ [res (.g r) 0 1], repLeft := some 0, tas := false,
                                 repStep := some (false, d) } }

/-- Nothing of the step is left to go on with: a repeat looks at both before it counts on (R174). -/
theorem State.groupEnd_lastStep (s : State) (l d r : Nat) (c : Core) (hw : c.arch.rest = []) :
    ((s.groupEnd l 1 (c.lastStep d r)).core l).arch.rest = [] ∧ ((s.groupEnd l 1 (c.lastStep d r)).core l).arch.tas = false := by
  constructor
  · rw [State.groupEnd_keeps (fun c => c.arch.rest) s l 1 _ (fun _ _ _ _ _ => rfl) (fun _ _ _ _ => rfl), Core.beats_rest]
    exact hw
  · rw [State.groupEnd_keeps (fun c => c.arch.tas) s l 1 _ (fun _ _ _ _ _ => rfl) (fun _ _ _ _ => rfl), Core.beats_tas]
    rfl

section
variable (s : State) (l r : Nat) (d : Reg)

theorem State.repIter_lastStep (hlead : s.rxRoom l 1 = true) (hw : (s.core l).arch.rest = []) (hl : (s.core l).arch.repLeft = none) (hct : (s.core l).arch.bk.ct = false)
    (hload : (s.core l).sbLoad ≤ 32) : s.repIter l r 1 (stepSlot d (.dstepF d.toNat)) = some (s.groupEnd l 1 ((s.core l).lastStep d.toNat r)) := by
  have hmay : s.mayIssue l [stepSlot d (.dstepF d.toNat)] 1 = true := by
    rw [State.mayIssue, hlead, hw]
    rfl
  have hbk : s.bracket l [stepSlot d (.dstepF d.toNat)] = s := s.bracket_none l _ rfl
  have hissue : ∀ sb, s.issueAll l sb [(1, .dstepF d.toNat)] = s.setCore l ((s.core l).fly (dstRes d.toNat (dStepF false ((s.core l).arch.dst d.toNat)))) := by
    intro sb
    rw [← hct]
    rfl
  have hroom : ¬ 32 < ((s.core l).sb.map (fun e => e.kind.weight)).foldl (· + ·) 0 := Nat.not_lt.2 hload
  have hbeats : (SlotOp.dstepF d.toNat).iterBeats (s.core l).arch = 1 := rfl
  have hsmm : (SlotOp.dstepF d.toNat).smmOf = none := rfl
  have hadv : (SlotOp.dstepF d.toNat).repAdvance (s.core l).arch = none := rfl
  have hstep : (SlotOp.dstepF d.toNat).stepOf (s.core l).arch = some (false, d.toNat) := by simp [SlotOp.stepOf, hct]
  have hop : (stepSlot d (.dstepF d.toNat)).op = .dstepF d.toNat := rfl
  have hfreeze : needsFreeze (s.core l).arch.bk.ct [stepSlot d (.dstepF d.toNat)] = false := by simp [needsFreeze, stepSlot]
  simp only [State.repIter, hbeats, hmay, hbk, hsmm, hadv, hstep, hfreeze, Bool.not_true, Bool.false_eq_true, if_false, Option.isSome_none, hop, hissue,
    State.core_setCore_self, hl]
  rw [if_neg (show ¬ 32 < (((s.core l).fly (dstRes d.toNat (dStepF false ((s.core l).arch.dst d.toNat)))).sb.map (fun e => e.kind.weight)).foldl (· + ·) 0 from hroom)]
  simp only [List.nil_append, State.setCore_setCore]
  rfl

/-- A repeat whose count is 1 runs that one step, and ends. -/
theorem State.repRun_last (n : Nat) (hlead : s.rxRoom l 1 = true) (hw : (s.core l).arch.rest = []) (hl : (s.core l).arch.repLeft = none)
    (hct : (s.core l).arch.bk.ct = false) (hload : (s.core l).sbLoad ≤ 32) (h1 : (s.core l).arch.repCount r = 1) :
    s.repRun l r (stepSlot d (.dstepF d.toNat)) (n + 1) true = (s.groupEnd l 1 ((s.core l).lastStep d.toNat r)).repEnd l := by
  obtain ⟨hrest, htas⟩ := s.groupEnd_lastStep l d.toNat r (s.core l) hw
  simp only [State.repRun, h1, s.repIter_lastStep l r d hlead hw hl hct hload, hrest, htas, Bool.not_true, Bool.false_and, Bool.false_eq_true, if_false, if_true,
    List.isEmpty_nil, Bool.or_false, le_refl, decide_true, Bool.true_or]

/-- A repeat of DSTEP.F whose count is 1 makes one step and counts down to 0 (R172). -/
theorem State.issueRep_last (u : Nat) (hr : s.ready l = true) (hw : (s.core l).arch.rest = []) (hl : (s.core l).arch.repLeft = none) (hct : (s.core l).ct = false)
    (hload : (s.core l).sbLoad ≤ 32) (h1 : (s.core l).arch.rg r = 1) :
    s.issueRep l r u (stepSlot d (.dstepF d.toNat)) = some ((s.groupEnd l 1 ((s.core l).repStart.lastStep d.toNat r)).repEnd l) := by
  have hcount : (s.core l).repStart.arch.repCount r = 1 := by rw [Core.repStart_repCount _ _ hl, h1]; rfl
  have hcore : (s.setCore l (s.core l).repStart).core l = (s.core l).repStart := s.core_setCore_self l _
  have hlead : (s.setCore l (s.core l).repStart).rxRoom l 1 = true := s.ready_lead l hr
  have hcts : (s.core l).repStart.arch.bk.ct = false := (s.core l).repStart_ct.trans hct
  have hiter := (s.setCore l (s.core l).repStart).repIter_lastStep l r d hlead (by rw [hcore]; exact hw) (by rw [hcore]; exact hl) (by rw [hcore]; exact hcts)
    (by rw [hcore]; exact hload)
  obtain ⟨n, hn⟩ : ∃ n, Nat.max 1 u = n + 1 := Nat.exists_eq_succ_of_ne_zero (Nat.pos_iff_ne_zero.1 (lt_of_lt_of_le Nat.one_pos (le_max_left 1 u)))
  have hrun := (s.setCore l (s.core l).repStart).repRun_last l r d n hlead (by rw [hcore]; exact hw) (by rw [hcore]; exact hl) (by rw [hcore]; exact hcts)
    (by rw [hcore]; exact hload) (by rw [hcore]; exact hcount)
  rw [hcore, State.groupEnd_setCore] at hiter hrun
  change (if (s.core l).repStart.arch.repCount r = 0 then _ else
    match (s.setCore l (s.core l).repStart).repIter l r ((s.core l).repStart.arch.repCount r) _ with
    | none => none
    | some _ => some ((s.setCore l (s.core l).repStart).repRun l r _ (Nat.max 1 u) true)) = _
  rw [hcount, if_neg Nat.one_ne_zero, hiter, hn, hrun]

end

/-- The slot of a step of a floating division whose state is in Fd to Fd+3. -/
theorem fStepSlot_ok (r : RF) (c : Core) (h4 : r.d.toNat % 4 = 0) (hd : r.d.toNat < 32) (ha : r.a = 0) (hb : r.b = 0) (hf : c.arch.fpu = true) :
    fStepSlot r c = { op := .fstep r.d.toNat, fp := true, md := true, freezing := true } := by
  simp [fStepSlot, stepReg_of r.d h4 hd, ha, hb, decTrap_fp c hf]

/-- Settles O19: REP waits in the group for the word that it repeats, whose group then makes no step or the last one. -/
theorem repeatCountsDown : Obligations.RepeatCountsDown := by
  unfold Obligations.RepeatCountsDown
  intro s x y q r upto ps l c ra z0 z1 t d zf hr hx hy hs hg hl hbad hload hw hqd hqb h4 hpos ha hb hchk hquiet
  have htl : t.core y.lc = { c with group := [z0] } := by rw [hy]; exact s.core_setCore_self l _
  have hready : t.ready y.lc = true := by rw [hy]; exact (s.ready_group l [z0]).trans hr
  have hquiet' : t.fetchQuiet (t.core y.lc) (fetchWords (t.core y.lc).arch.pc.toNat [z0, z1]) = true := by
    rw [htl]
    exact (s.fetchQuiet_group l [z0] _).trans hquiet
  have hstep : ∀ e, dstepSlot r (.dstepF r.d.toNat) e = z1 := fun e => dstepSlot_ok r _ e h4 hpos ha hb
  have hissues : ∀ (f : Core → Slot) (z : Slot) (us : List Piece), f (t.core y.lc) = z → fetchWords c.arch.pc.toNat [z0, z] = fetchWords c.arch.pc.toNat [z0, z1] →
      t.groupCheck l (t.core l) [z0, z] true = .ok us → t.coreOp y f = (t.issueRep l ra upto z).getD t := by
    intro f z us hf hwords hus
    rw [t.coreOp_repeats y f z0 z ra upto us hf rfl hready hs (by rw [htl]) (by rw [htl]; exact hbad) (by rw [htl]; exact hw) (by rw [htl]; exact hl) ?_ ?_]
    · rw [hy]
    · rw [htl] at hquiet' ⊢
      rw [hwords]
      exact hquiet'
    · rw [hy]
      exact hus
  have hcore : t.core l = { c with group := [z0] } := s.core_setCore_self l _
  have htl0 : (t.core l).arch.repLeft = none := by rw [hcore]; exact hl
  have hzero : ∀ z : Slot, c.arch.rg ra = 0 → t.issueRep l ra upto z = some ((s.setCore l (Core.beats 1
      { d with freezes := if c.ct && z.freezing then c.freezes ++ [.subnormal] else c.freezes, arch := { d.arch.advance 2 none with repLeft := none } })).rxGroup l 1) := by
    intro z h0
    rw [t.issueRep_zero l ra upto z htl0 (by rw [hcore]; exact h0), s.setCore_setCore, hcore]
    rfl
  refine ⟨?_, fun h0 => ⟨?_, fun hfpu hd us hus => ?_⟩, fun h1 hct => ?_⟩
  · rw [s.joins_of x (.rep x q upto) _ z0 rfl (by simp [hqd, hqb, z0, ra]) hr hx (by rw [hg]; decide) hbad, hg]
    rfl
  · refine congrArg Host.Outcome.next ?_
    rw [hissues _ z1 ps (hstep _) rfl hchk, hzero z1 h0, Option.getD_some, show (c.ct && z1.freezing) = false from Bool.and_false _]
    rfl
  · refine congrArg Host.Outcome.next ?_
    rw [hissues _ zf us (fStepSlot_ok r _ h4 hd ha hb (by rw [htl]; exact hfpu)) rfl hus, hzero zf h0, Option.getD_some, show (c.ct && zf.freezing) = c.ct from Bool.and_true _]
  · refine congrArg Host.Outcome.next ?_
    have hready' : t.ready l = true := (s.ready_group l [z0]).trans hr
    rw [hissues _ z1 ps (hstep _) rfl hchk, show z1 = stepSlot r.d (.dstepF r.d.toNat) from rfl,
      t.issueRep_last l ra r.d upto hready' (by rw [hcore]; exact hw) htl0 (by rw [hcore]; exact hct) (by rw [hcore]; exact hload) (by rw [hcore]; exact h1),
      Option.getD_some, hcore, State.groupEnd_setCore, Core.lastStep, Core.repStart_dst]
    rfl

end Sys2Proof.Machine
end

section
/-! PROOFS. Block moves (03 R147 to R149, 07 R312, R370): the room that the write of an MVB takes when the TLB holds entries that keep no page offset. -/

namespace Sys2Proof.Machine

/-- A core at level H whose TLB gives pages 0 and 1 output addresses at no page boundary, which no walk enters there and nothing in the statement excludes, and
whose store buffer holds 30 entries. Its G5 is 4 bytes below page 1. -/
def skewedCore : Core :=
  { run := .running, lctxCur := { hxen := true }, sb := List.replicate 30 { kind := .bitw 0 .flip },
    tlb := [{ stage := 2, inst := 0, lvl := 0, page := 0, oa := 2, perms := 15, mt := 0 }, { stage := 2, inst := 0, lvl := 0, page := 1, oa := 4110, perms := 15, mt := 0 }],
    arch := { banks := [(0, { priv := 2, g := [(5, 4092)] })] } }
def skewed : State := { State.reset with cores := [(0, skewedCore)] }

/-- MVB from G0 to G5, alone in its group, and its slot. -/
def skewedAt : At := { lc := 0, stop := true }
def skewedRegs : RF := ⟨5, 0, 0⟩
def skewedSlot : Slot := { op := .mvb 5 0, mem := true, regs := [5, 0] }

theorem skewed_alone : skewed.Alone skewedAt skewedSlot :=
  { ready := by decide +kernel, stop := rfl, few := by decide, check := ⟨_, rfl⟩, noRep := rfl, room := by decide, aligned := rfl, whole := rfl, backed := by decide +kernel,
    first := rfl, lead := by decide +kernel, turn := fun h => absurd h (by decide) }

/-- The 8 bytes go to 4094 and to 4110, 4 bytes each, and each of these crosses a block of 16 bytes: four entries, for which a buffer of 32 has no room. The core
stays at the move. -/
theorem skewed_move_waits : ((skewed.coreOp skewedAt (mvSlot skewedRegs (.mvb 5 0))).core 0).arch.pc = 0 := by decide +kernel
theorem skewed_move_done : ((skewed.aloneDone 0 skewedSlot).core 0).arch.pc = 4 := by decide +kernel

/-- Refutes O14: of an MVB that takes four entries where two are free, the statement says that it issues. -/
theorem not_loadMultipleMovesAndPrefetchIssue : ¬ Obligations.LoadMultipleMovesAndPrefetchIssue := by
  unfold Obligations.LoadMultipleMovesAndPrefetchIssue
  intro h
  obtain ⟨-, -, hmoves, -⟩ := h skewed skewedAt skewedRegs 0 0
  obtain ⟨hmvb, -⟩ := hmoves rfl (by decide)
  have hissues : Host.Outcome.next (skewed.coreOp skewedAt (mvSlot skewedRegs (.mvb 5 0))) = .next (skewed.aloneDone 0 skewedSlot) := hmvb skewed_alone (by decide)
  have hpc : ((skewed.coreOp skewedAt (mvSlot skewedRegs (.mvb 5 0))).core 0).arch.pc = ((skewed.aloneDone 0 skewedSlot).core 0).arch.pc := by
    injection hissues with e
    rw [e]
  rw [skewed_move_waits, skewed_move_done] at hpc
  exact absurd hpc (by decide)

end Sys2Proof.Machine
end

section
/-! PROOFS. Integer division (04 R182 to R188): with k steps still to run, however the others were mixed, the state holds the quotient and the remainder of the dividend
without its low k bits; DFIN then gives both their signs. -/

namespace Sys2Proof.Machine

/-! ### Division in base 2 -/

/-- The quotient that w steps accumulate: all ones for a divisor of 0 (R188). -/
def quotOf (w m d : Nat) : Nat := if d = 0 then 2 ^ w - 1 else m / d

theorem quotOf_lt {w m : Nat} (d : Nat) (hm : m < 2 ^ w) : quotOf w m d < 2 ^ w := by
  unfold quotOf
  split
  · exact Nat.sub_lt (Nat.two_pow_pos w) one_pos
  · exact (Nat.div_le_self m d).trans_lt hm

section
variable (h b d : Nat) (hb : b < 2)
include hb

/-- Quotient and remainder as the next bit b of the dividend comes down: the divisor goes into the remainder so far once or not at all. -/
theorem div_mod_next_bit (hd : 0 < d) :
    (2 * h + b) / d = 2 * (h / d) + b2n (decide (d ≤ 2 * (h % d) + b))
    ∧ (2 * h + b) % d = 2 * (h % d) + b - d * b2n (decide (d ≤ 2 * (h % d) + b)) := by
  have hlt := Nat.mod_lt h hd
  have hdm := Nat.div_add_mod h d
  rw [Nat.div_mod_unique hd, Nat.mul_add, Nat.mul_left_comm d 2]
  by_cases hle : d ≤ 2 * (h % d) + b <;> simp only [hle, b2n, decide_true, decide_false, if_true, Bool.false_eq_true, if_false] <;> omega

theorem mod_next_bit : (2 * h + b) % d = if d ≤ 2 * (h % d) + b then 2 * (h % d) + b - d else 2 * (h % d) + b := by
  rcases Nat.eq_zero_or_pos d with rfl | hd
  · simp
  · rw [(div_mod_next_bit h b d hb hd).2]
    split <;> simp [b2n, *]

theorem quotOf_next_bit (w : Nat) : quotOf (w + 1) (2 * h + b) d = 2 * quotOf w h d + b2n (decide (d ≤ 2 * (h % d) + b)) := by
  rcases Nat.eq_zero_or_pos d with rfl | hd
  · have := Nat.two_pow_pos w
    simp only [quotOf, if_true, b2n, Nat.zero_le, decide_true, Nat.pow_succ]
    omega
  · simp only [quotOf, hd.ne', if_false, (div_mod_next_bit h b d hb hd).1]

end

/-- A shift of Gd+1 takes out bit k of the dividend, whose k + 1 low bits stand above the quotient bits q. -/
theorem shift_out_bit (m : Nat) {k q : Nat} (hk : k < 64) (hq : q < 2 ^ (63 - k)) :
    b2n (bit (m % 2 ^ (k + 1) * 2 ^ (63 - k) + q) 63) = m / 2 ^ k % 2
    ∧ 2 * (m % 2 ^ (k + 1) * 2 ^ (63 - k) + q) % 2 ^ 64 = m % 2 ^ k * 2 ^ (64 - k) + 2 * q := by
  have hrest : m % 2 ^ k * 2 ^ (63 - k) + 2 ^ (63 - k) ≤ 2 ^ 63 := by
    calc m % 2 ^ k * 2 ^ (63 - k) + 2 ^ (63 - k) = (m % 2 ^ k + 1) * 2 ^ (63 - k) := by ring
      _ ≤ 2 ^ k * 2 ^ (63 - k) := Nat.mul_le_mul_right _ (Nat.mod_lt m (Nat.two_pow_pos k))
      _ = 2 ^ 63 := by rw [← pow_add]; congr 1; omega
  have hsplit : m % 2 ^ (k + 1) * 2 ^ (63 - k) = m % 2 ^ k * 2 ^ (63 - k) + 2 ^ 63 * (m / 2 ^ k % 2) := by
    rw [Nat.mod_pow_succ, add_mul, mul_right_comm, ← pow_add, show k + (63 - k) = 63 by omega]
  have hdbl : m % 2 ^ k * 2 ^ (64 - k) = 2 * (m % 2 ^ k * 2 ^ (63 - k)) := by
    rw [show 64 - k = (63 - k) + 1 by omega, pow_succ]; ring
  have hbit : m / 2 ^ k % 2 < 2 := Nat.mod_lt _ two_pos
  rw [hsplit, hdbl]
  generalize m % 2 ^ k * 2 ^ (63 - k) = lo at *
  generalize m / 2 ^ k % 2 = b at *
  refine ⟨?_, by omega⟩
  have htop : (lo + 2 ^ 63 * b + q) / 2 ^ 63 % 2 = b := by omega
  rw [bit, htop, b2n]
  simp only [decide_eq_true_eq]
  split <;> omega

/-! ### The state with k steps to run -/

/-- The state of a division of m by d on n bits with k steps still to run, c being the control word but for CNT (R182 to R184). -/
def divState (n m d c k : Nat) : DSt := { r := m / 2 ^ k % d, g := m % 2 ^ k * 2 ^ (64 - k) + quotOf (n - k) (m / 2 ^ k) d, dv := d, c := c + k }

/-- Both outcomes of a step in one form. -/
theorem dStep1_state (st : DSt) :
    (dStep1 st).1 =
      { r := (if st.dv ≤ 2 * st.r + b2n (bit st.g 63) then 2 * st.r + b2n (bit st.g 63) - st.dv else 2 * st.r + b2n (bit st.g 63)) % 2 ^ 64,
        g := (2 * st.g % 2 ^ 64 + b2n (decide (st.dv ≤ 2 * st.r + b2n (bit st.g 63)))) % 2 ^ 64, dv := st.dv, c := st.c - 1 } := by
  simp only [dStep1]
  generalize 2 * st.r + b2n (bit st.g 63) = r
  split <;> simp [b2n, *]

section
variable {n m d c k : Nat} (hn : n ≤ 64) (hm : m < 2 ^ n)

include hm

/-- The dividend without its low k bits fits the steps that have run. -/
theorem shifted_lt (hk : k ≤ n) : m / 2 ^ k < 2 ^ (n - k) := by
  rw [Nat.div_lt_iff_lt_mul (Nat.two_pow_pos k), ← pow_add, Nat.sub_add_cancel hk]
  exact hm

include hn

theorem divState_r_lt : (divState n m d c k).r < 2 ^ 64 :=
  ((Nat.mod_le _ _).trans (Nat.div_le_self _ _)).trans_lt (hm.trans_le (Nat.pow_le_pow_right two_pos hn))

theorem divState_g_lt (hk : k ≤ n) : (divState n m d c k).g < 2 ^ 64 := by
  have hq : quotOf (n - k) (m / 2 ^ k) d < 2 ^ (64 - k) := (quotOf_lt d (shifted_lt hm hk)).trans_le (Nat.pow_le_pow_right two_pos (by omega))
  calc m % 2 ^ k * 2 ^ (64 - k) + quotOf (n - k) (m / 2 ^ k) d < (m % 2 ^ k + 1) * 2 ^ (64 - k) := by rw [add_mul, one_mul]; omega
    _ ≤ 2 ^ k * 2 ^ (64 - k) := Nat.mul_le_mul_right _ (Nat.mod_lt m (Nat.two_pow_pos k))
    _ = 2 ^ 64 := by rw [← pow_add, Nat.add_sub_cancel' (hk.trans hn)]

theorem dStep1_divState (hk : k < n) : (dStep1 (divState n m d c (k + 1))).1 = divState n m d c k := by
  have hb : m / 2 ^ k % 2 < 2 := Nat.mod_lt _ two_pos
  have htop : 2 * (m / 2 ^ (k + 1)) + m / 2 ^ k % 2 = m / 2 ^ k := by rw [pow_succ, ← Nat.div_div_eq_div_mul, Nat.div_add_mod]
  have hq : quotOf (n - (k + 1)) (m / 2 ^ (k + 1)) d < 2 ^ (63 - k) :=
    (quotOf_lt d (shifted_lt hm hk)).trans_le (Nat.pow_le_pow_right two_pos (by omega))
  obtain ⟨hbit, hshift⟩ := shift_out_bit m (show k < 64 by omega) hq
  have hrem := mod_next_bit (m / 2 ^ (k + 1)) (m / 2 ^ k % 2) d hb
  have hquot := quotOf_next_bit (m / 2 ^ (k + 1)) (m / 2 ^ k % 2) d hb (n - (k + 1))
  rw [htop] at hrem hquot
  rw [show n - (k + 1) + 1 = n - k by omega] at hquot
  have hr := divState_r_lt (d := d) (c := c) (k := k) hn hm
  have hg := divState_g_lt (d := d) (c := c) hn hm hk.le
  rw [dStep1_state]
  simp only [divState, show 64 - (k + 1) = 63 - k by omega] at hr hg ⊢
  rw [hbit, hshift, ← hrem, add_assoc, ← hquot, Nat.mod_eq_of_lt hr, Nat.mod_eq_of_lt hg]
  rfl

end

/-! ### Runs of steps -/

/-- DSTEP.F goes on after a quotient bit 0 (R185). -/
theorem dStepN_of_count (i : Nat) {st : DSt} (h : fld st.c 0 7 ≠ 0) :
    dStepN (i + 1) st = if (dStep1 st).2 then (dStep1 st).1 else dStepN i (dStep1 st).1 := by
  rw [dStepN, if_neg h]

section
variable {n m d c : Nat} (hn : n ≤ 64) (hc : c % 2 ^ 7 = 0)
include hn hc

theorem divState_count {k : Nat} (hk : k ≤ n) : fld (divState n m d c k).c 0 7 = k := by
  simp only [divState, fld, Nat.pow_zero, Nat.div_one]
  omega

variable (hm : m < 2 ^ n)
include hm

theorem dStep_divState {k : Nat} (hk : k ≤ n) : dStep (divState n m d c k) = divState n m d c (k - 1) := by
  rw [dStep, divState_count hn hc hk]
  cases k with
  | zero => rfl
  | succ k => exact dStep1_divState hn hm hk

/-- Some number of steps is made, and at least one where one is due. -/
theorem dStepN_divState (i : Nat) : ∀ {k : Nat}, k ≤ n → ∃ j ≤ k - 1, dStepN (i + 1) (divState n m d c k) = divState n m d c j := by
  induction i with
  | zero =>
    intro k hk
    refine ⟨k - 1, le_rfl, (?_ : _ = dStep (divState n m d c k)).trans (dStep_divState hn hc hm hk)⟩
    simp only [dStepN, dStep, ite_self]
  | succ i ih =>
    intro k hk
    cases k with
    | zero => exact ⟨0, le_rfl, by rw [dStepN, if_pos (divState_count hn hc hk)]⟩
    | succ k =>
      rw [dStepN_of_count _ (by rw [divState_count hn hc hk]; exact k.succ_ne_zero), dStep1_divState hn hm hk]
      split
      · exact ⟨k, le_rfl, rfl⟩
      · obtain ⟨j, hj, heq⟩ := ih (Nat.le_of_succ_le hk)
        exact ⟨j, hj.trans (Nat.sub_le k 1), heq⟩

/-- DSTEP (`f.1` false), or DSTEP.F in the timing mode of `f.2`. -/
theorem anyStep_divState (f : Bool × Bool) {k : Nat} (hk : k ≤ n) :
    ∃ j ≤ k - 1, (if f.1 then dStepF f.2 (divState n m d c k) else dStep (divState n m d c k)) = divState n m d c j := by
  obtain ⟨fast, ct⟩ := f
  have one : ∃ j ≤ k - 1, dStep (divState n m d c k) = divState n m d c j := ⟨k - 1, le_rfl, dStep_divState hn hc hm hk⟩
  cases fast
  · exact one
  · cases ct
    · exact dStepN_divState hn hc hm 3 hk
    · exact one

theorem steps_divState (steps : List (Bool × Bool)) : ∀ {k : Nat}, k ≤ n →
    ∃ j ≤ k - steps.length, steps.foldl (fun t f => if f.1 then dStepF f.2 t else dStep t) (divState n m d c k) = divState n m d c j := by
  induction steps with
  | nil => exact fun {k} _ => ⟨k, le_rfl, rfl⟩
  | cons f fs ih =>
    intro k hk
    obtain ⟨i, hi, hf⟩ := anyStep_divState hn hc hm (d := d) f hk
    obtain ⟨j, hj, hfs⟩ := ih (k := i) (by omega)
    refine ⟨j, ?_, ?_⟩
    · rw [List.length_cons]; omega
    · rw [List.foldl_cons, hf, hfs]

end

/-! ### Signs (R182, R186) -/

/-- The number of magnitude m that is negative or not. -/
def signed (neg : Bool) (m : Nat) : Int := if neg then -m else m

/-- The width n of a form. -/
def divWidth (w : Bool) : Nat := if w then 32 else 64

/-- An operand of n bits: its value, its sign and its magnitude. -/
def divVal (n : Nat) (sgn : Bool) (a : Nat) : Int := if sgn then sx n a else (a % 2 ^ n : Nat)
def divNeg (n : Nat) (sgn : Bool) (a : Nat) : Bool := sgn && bit (a % 2 ^ n) (n - 1)
def divMag (n : Nat) (sgn : Bool) (a : Nat) : Nat := if divNeg n sgn a then 2 ^ n - a % 2 ^ n else a % 2 ^ n

theorem divWidth_le (w : Bool) : divWidth w ≤ 64 := by cases w <;> decide
theorem divWidth_pos (w : Bool) : 0 < divWidth w := by cases w <;> decide

theorem signed_eq_zero (neg : Bool) (m : Nat) : signed neg m = 0 ↔ m = 0 := by cases neg <;> simp [signed]

/-- Quotient and remainder of signed numbers are those of the magnitudes, the quotient negative where the signs differ, the remainder with the sign of the
dividend. -/
theorem tdiv_signed (s t : Bool) (m d : Nat) : (signed s m).tdiv (signed t d) = signed (s != t) (m / d) := by
  cases s <;> cases t <;> simp [signed, Int.neg_tdiv, Int.tdiv_neg]
theorem tmod_signed (s t : Bool) (m d : Nat) : (signed s m).tmod (signed t d) = signed s (m % d) := by
  cases s <;> cases t <;> simp [signed, Int.neg_tmod, Int.tmod_neg, Int.tmod_eq_emod_of_nonneg]

section
variable {n : Nat} (hn : 0 < n) (sgn : Bool) (a : Nat)
include hn

/-- The top one of n bits says whether they are read as a negative number. -/
theorem bit_top : bit (a % 2 ^ n) (n - 1) = !decide (a % 2 ^ n < 2 ^ (n - 1)) := by
  have hlt : a % 2 ^ n < 2 ^ (n - 1) * 2 := by
    rw [← pow_succ, Nat.sub_add_cancel hn]
    exact Nat.mod_lt _ (Nat.two_pow_pos n)
  have htop : a % 2 ^ n / 2 ^ (n - 1) < 2 := Nat.div_lt_of_lt_mul hlt
  rw [bit, ← decide_not, decide_eq_decide, not_lt, ← Nat.one_le_div_iff (Nat.two_pow_pos (n - 1))]
  generalize a % 2 ^ n / 2 ^ (n - 1) = q at *
  omega

theorem divVal_eq : divVal n sgn a = signed (divNeg n sgn a) (divMag n sgn a) := by
  have hlt := Nat.mod_lt a (Nat.two_pow_pos n)
  unfold divVal divMag divNeg
  rw [bit_top hn]
  cases sgn
  · rfl
  · by_cases h : a % 2 ^ n < 2 ^ (n - 1)
    · simp [sx, signed, h]
    · simp only [sx, signed, h, decide_false, Bool.not_false, Bool.and_true, if_true, if_false]
      omega

theorem divMag_lt : divMag n sgn a < 2 ^ n := by
  have hlt := Nat.mod_lt a (Nat.two_pow_pos n)
  unfold divMag divNeg
  rw [bit_top hn]
  have := Nat.two_pow_pos (n - 1)
  split
  case isTrue h =>
    simp only [Bool.and_eq_true, Bool.not_eq_true', decide_eq_false_iff_not] at h
    omega
  case isFalse => exact hlt

end

/-- The n low bits of a signed number, as DFIN makes them of its magnitude (R186). -/
theorem toNat_signed_emod (neg : Bool) (m n : Nat) :
    (signed neg m % (2 ^ n : Nat)).toNat = if neg then (2 ^ n - m % 2 ^ n) % 2 ^ n else m % 2 ^ n := by
  cases neg
  · simp only [signed, Bool.false_eq_true, if_false]
    rw [← Int.natCast_mod, Int.toNat_natCast]
  · have hle := (Nat.mod_lt m (Nat.two_pow_pos n)).le
    have hdm : ((2 ^ n : Nat) : Int) * (m / 2 ^ n : Nat) + (m % 2 ^ n : Nat) = m := by exact_mod_cast Nat.div_add_mod m (2 ^ n)
    have hwrap : signed true m = ((2 ^ n - m % 2 ^ n : Nat) : Int) + (2 ^ n : Nat) * (-(m / 2 ^ n : Nat) - 1) := by
      rw [signed, if_pos rfl, Nat.cast_sub hle]
      linarith
    rw [hwrap, Int.add_mul_emod_self_left, ← Int.natCast_mod, Int.toNat_natCast, if_pos rfl]

/-! ### The first and the last instruction -/

/-- The control word of R183 but for CNT. -/
def divCtl (w sgn z rneg qneg : Bool) : Nat := b2n z * 2 ^ 12 + b2n rneg * 2 ^ 11 + b2n qneg * 2 ^ 10 + b2n sgn * 2 ^ 9 + b2n w * 2 ^ 8

theorem divCtl_no_count : ∀ w sgn z rneg qneg : Bool, divCtl w sgn z rneg qneg % 2 ^ 7 = 0 := by decide
theorem bit_divCtl : ∀ w sgn z rneg qneg : Bool, bit (divCtl w sgn z rneg qneg) 8 = w ∧ bit (divCtl w sgn z rneg qneg) 9 = sgn
    ∧ bit (divCtl w sgn z rneg qneg) 10 = qneg ∧ bit (divCtl w sgn z rneg qneg) 11 = rneg := by decide

/-- The word in which DFIN gives a number: its low bits, extended by the sign in the form DINIT.W (R186). -/
def divWord (w sgn : Bool) (v : Int) : Nat :=
  let m := (v % (2 ^ divWidth w : Nat)).toNat
  if w && sgn && bit m 31 then m + (2 ^ 64 - 2 ^ 32) else m

theorem dFin_divState (w sgn z rneg qneg : Bool) (m d : Nat) :
    dFin (divState (divWidth w) m d (divCtl w sgn z rneg qneg) 0)
      = (divWord w sgn (signed qneg (quotOf (divWidth w) m d)), divWord w sgn (signed rneg (m % d))) := by
  obtain ⟨hw, hs, hq, hr⟩ := bit_divCtl w sgn z rneg qneg
  rw [dFin, if_neg (not_not.2 (divState_count (divWidth_le w) (divCtl_no_count ..) (Nat.zero_le _)))]
  simp only [divState, Nat.add_zero, hw, hs, hq, hr, divWord, toNat_signed_emod, pow_zero, Nat.div_one, Nat.mod_one, Nat.zero_mul, Nat.zero_add, Nat.sub_zero]
  rfl

/-- The edge results of R188 for a divisor of 0. -/
theorem quotOf_zero_word (w sgn : Bool) (m : Nat) : divWord w sgn (signed false (quotOf (divWidth w) m 0)) = divWord w sgn (-1) := by
  cases w <;> cases sgn <;> rfl

/-- The state of the division of a by b that DINIT begins, with k steps to run. -/
def divRun (w sgn : Bool) (a b k : Nat) : DSt :=
  let n := divWidth w
  let z := decide (divMag n sgn b = 0)
  divState n (divMag n sgn a) (divMag n sgn b) (divCtl w sgn z (divNeg n sgn a) (sgn && !z && (divNeg n sgn a != divNeg n sgn b))) k

section
variable (w sgn : Bool) (a b : Nat)

theorem divMag_width_lt : divMag (divWidth w) sgn a < 2 ^ divWidth w := divMag_lt (divWidth_pos w) sgn a

theorem dInit_divRun : dInit w sgn a b = divRun w sgn a b (divWidth w) := by
  have hm := divMag_width_lt w sgn a
  rw [divRun, divState, Nat.div_eq_of_lt hm, Nat.mod_eq_of_lt hm, Nat.zero_mod, Nat.sub_self, show ∀ d, quotOf 0 0 d = 0 by simp [quotOf]]
  rfl

theorem steps_divRun (steps : List (Bool × Bool)) : ∃ k ≤ divWidth w - steps.length,
    steps.foldl (fun t f => if f.1 then dStepF f.2 t else dStep t) (dInit w sgn a b) = divRun w sgn a b k := by
  rw [dInit_divRun]
  exact steps_divState (divWidth_le w) (divCtl_no_count ..) (divMag_width_lt w sgn a) steps le_rfl

theorem divRun_count {k : Nat} (hk : k ≤ divWidth w) : fld (divRun w sgn a b k).c 0 7 = k :=
  divState_count (divWidth_le w) (divCtl_no_count ..) hk

/-- DFIN once the count is 0, in terms of the operands' values (R188). -/
theorem dFin_divRun :
    let x := divVal (divWidth w) sgn a
    let y := divVal (divWidth w) sgn b
    dFin (divRun w sgn a b 0) = if y = 0 then (divWord w sgn (-1), divWord w sgn x) else (divWord w sgn (x.tdiv y), divWord w sgn (x.tmod y)) := by
  intro x y
  have hx : x = signed (divNeg (divWidth w) sgn a) (divMag (divWidth w) sgn a) := divVal_eq (divWidth_pos w) sgn a
  have hy : y = signed (divNeg (divWidth w) sgn b) (divMag (divWidth w) sgn b) := divVal_eq (divWidth_pos w) sgn b
  rw [divRun, dFin_divState]
  by_cases hd : divMag (divWidth w) sgn b = 0
  · have hy0 : y = 0 := by rw [hy, signed_eq_zero, hd]
    rw [if_pos hy0, hd, Nat.mod_zero, decide_eq_true rfl, Bool.not_true, Bool.and_false, Bool.false_and, quotOf_zero_word, ← hx]
  · have hy0 : y ≠ 0 := by rwa [hy, ne_eq, signed_eq_zero]
    have hsgn : (sgn && (divNeg (divWidth w) sgn a != divNeg (divWidth w) sgn b)) = (divNeg (divWidth w) sgn a != divNeg (divWidth w) sgn b) := by
      cases sgn <;> simp [divNeg]
    rw [if_neg hy0, hx, hy, tdiv_signed, tmod_signed, quotOf, if_neg hd, decide_eq_false hd, Bool.not_false, Bool.and_true, hsgn]

end

/-! ### No trap and no flag -/

theorem dstRes_no_flags (d : Nat) (t : DSt) : (dstRes d t).all (fun f => f.flags = 0) = true := rfl

section
variable (r : RF) (c : Core) (h4 : r.d.toNat % 4 = 0) (hpos : 4 ≤ r.d.toNat)
include h4 hpos

theorem dinitSlot_ok (w sgn : Bool) : dinitSlot r w sgn c = mdSlot (dstRes r.d.toNat (dInit w sgn (c.rg r.a).toNat (c.rg r.b).toNat)) := by
  rw [dinitSlot, divReg_of r.d h4 hpos, Bool.not_true, landSlot_md]

theorem dfinSlot_ok (ha : r.a = 0) (hb : r.b = 0) : dfinSlot r c = mdSlot [resG r.d (BitVec.ofNat 64 (dFin (c.arch.dst r.d.toNat)).1) 1,
    res (.g (r.d.toNat + 1)) (BitVec.ofNat 64 (dFin (c.arch.dst r.d.toNat)).2) 1] := by
  simp only [dfinSlot, divReg_of r.d h4 hpos, ha, hb, ne_eq, not_true_eq_false, decide_false, Bool.not_true, Bool.or_false, landSlot_md]

end

/-- Settles O59: the steps by the state they keep, DFIN by the operands' signs, then the slots. -/
theorem integerDivisionIsExact : Obligations.IntegerDivisionIsExact := by
  unfold Obligations.IntegerDivisionIsExact
  intro w sgn a b steps n x y t word
  obtain ⟨k, hk, ht⟩ := steps_divRun w sgn a.toNat b.toNat steps
  have hcount : fld t.c 0 7 = k := (congrArg (fun e : DSt => fld e.c 0 7) ht).trans (divRun_count w sgn _ _ (hk.trans (Nat.sub_le _ _)))
  refine ⟨fun h0 => ?_, fun h => by rw [dFin, if_pos h], fun hlen => ?_, fun r c op h4 hpos => ⟨?_, ?_, fun ha hb => ?_⟩, dstRes_no_flags⟩
  · rw [show t = divRun w sgn a.toNat b.toNat 0 from ht.trans (by rw [← hcount, h0])]
    exact dFin_divRun w sgn a.toNat b.toNat
  · rw [hcount]
    exact Nat.le_zero.1 (hk.trans (Nat.sub_eq_zero_of_le hlen).le)
  · rw [dinitSlot_ok r c h4 hpos]
    rfl
  · rw [dinitSlot_ok r c h4 hpos]
    exact dstRes_no_flags _ _
  · rw [dstepSlot_ok r op c h4 hpos ha hb, dfinSlot_ok r c h4 hpos ha hb]
    exact ⟨rfl, rfl, rfl⟩

end Sys2Proof.Machine
end

section
/-! PROOFS. Entry (05 R214 to R234, R241): what the bank entered and the bank left hold, and what the state's own steps around the entry keep of it. -/

namespace Sys2Proof.Machine

/-! ### The bank entered and the bank left (R222, R233, R234) -/

/-- A table after the values of f from lo on have been written into it, n of them. -/
theorem Tab.get_foldl_set {α : Type} [DecidableEq α] (d : α) (f : Nat → α) (m : Tab α) (lo j n : Nat) :
    Tab.get d (((List.range n).map (fun k => (lo + k, f (lo + k)))).foldl (fun m p => Tab.set d m p.1 p.2) m) j = if lo ≤ j ∧ j < lo + n then f j else Tab.get d m j := by
  induction n with
  | zero => rw [if_neg (by omega)]; rfl
  | succ n ih =>
    rw [List.range_succ, List.map_append, List.foldl_append, List.map_singleton, List.foldl_cons, List.foldl_nil, Tab.get_set, ih]
    by_cases h : j = lo + n
    · rw [if_pos h, if_pos (by omega), h]
    · rw [if_neg h]
      exact if_congr (by omega) rfl rfl

section
variable (a : Arch) (t : Trap) (cepc : Word) (nb : Nat)

theorem frameSize_eq (fpu : Bool) : frameSize fpu = if fpu then 896 else 640 := by cases fpu <;> rfl

/-- The stack pointer of the level entered, less the frame: G2 of the bank entered (R222). -/
def Arch.entrySp : Word :=
  let lv := t.level a.bk.priv
  (if a.bk.priv.ult lv then (if lv = 1 then a.ssp else a.hsp) else a.bk.rg 2) - BitVec.ofNat 64 (frameSize a.fpu)

/-- The registers of the bank entered: G2, and for SVC the eight arguments (R222, R234). -/
def Arch.entryRegs : Tab Word :=
  (if t.cause = .svc then (List.range 8).map (fun k => (3 + k, a.bk.rg (3 + k))) else []).foldl (fun m p => Tab.set 0 m p.1 p.2) (Tab.set 0 [] 2 (a.entrySp t))

/-- CCAUSE of the bank entered (R241). -/
def Arch.entryCause : Nat := b2n (decide (t.cause = .intr)) * 2 ^ 63 + a.bank * 2 ^ 56 + t.info % 2 ^ 12 * 2 ^ 8 + t.slot % 4 * 2 ^ 6 + t.cause.code

/-- The bank that an entry makes. -/
def Arch.entered : Bank :=
  { g := a.entryRegs t, priv := t.level a.bk.priv, ipl := if t.cause = .intr then BitVec.ofNat 3 t.prio else a.bk.ipl, cepc := maskLow 2 cepc,
    ccause := BitVec.ofNat 64 (a.entryCause t), cbada := BitVec.ofNat 64 t.bada }

/-- The bank that an entry leaves. -/
def Arch.left : Bank :=
  { a.park.bk with cframe := maskLow 4 (a.entrySp t), fpx := a.fpu, pcLow := if t.cause = .ialign then 0 else BitVec.ofNat 2 a.pc.toNat }

theorem Arch.bk_enterTo : (a.enterTo nb t cepc).bk = a.entered t cepc := Tab.get_set_self _ _ _ _

theorem Arch.bkOf_enterTo_left (h : a.bank ≠ nb) : (a.enterTo nb t cepc).bkOf a.bank = a.left t :=
  (Tab.get_set_ne _ _ _ _ _ h).trans (Tab.get_set_self _ _ _ _)

/-- The results in flight leave the registers of the bank alone as they move into its record. -/
theorem Arch.rg_park (k : Nat) : a.park.bk.rg k = a.bk.rg k := by
  rw [show a.park.bk = _ from Arch.bk_setBk a _]
  rfl

theorem Arch.rg_left (k : Nat) : (a.left t).rg k = a.bk.rg k := a.rg_park k

/-- The bank left keeps the poison in flight: beats left and address, in order (R243). -/
theorem Arch.pois_left : (a.left t).pois = a.park.bk.pois := rfl

theorem Arch.rg_entered_two : (a.entered t cepc).rg 2 = a.entrySp t := by
  show Tab.get 0 (a.entryRegs t) 2 = _
  unfold Arch.entryRegs
  split
  · rw [Tab.get_foldl_set, if_neg (by decide), Tab.get_set_self]
  · exact Tab.get_set_self _ _ _ _

theorem Arch.rg_entered_of_svc (ht : t.cause = .svc) (k : Nat) (h3 : 3 ≤ k) (h11 : k < 11) : (a.entered t cepc).rg k = a.bk.rg k := by
  rw [Bank.rg, if_neg (by omega)]
  show Tab.get 0 (a.entryRegs t) k = _
  rw [Arch.entryRegs, if_pos ht, Tab.get_foldl_set, if_pos ⟨h3, h11⟩]

theorem Cause.code_lt (c : Cause) : c.code < 64 := by cases c <;> decide

/-- The fields of CCAUSE fit it (R241). -/
theorem Arch.toNat_ccause_entered (h : a.bank < 6) (hc : t.cause ≠ .intr) (hi : t.info < 4096) (hs : t.slot < 4) :
    (a.entered t cepc).ccause.toNat = a.bank * 2 ^ 56 + t.info * 2 ^ 8 + t.slot * 2 ^ 6 + t.cause.code := by
  have hcode := t.cause.code_lt
  show (BitVec.ofNat 64 (a.entryCause t)).toNat = _
  rw [Arch.entryCause, decide_eq_false hc, Nat.mod_eq_of_lt (show t.info < 2 ^ 12 from hi), Nat.mod_eq_of_lt hs, BitVec.toNat_ofNat, Nat.mod_eq_of_lt]
  · simp only [b2n, Bool.false_eq_true, if_false, Nat.zero_mul, Nat.zero_add]
  · simp only [b2n, Bool.false_eq_true, if_false]
    omega

end

/-! ### The core as it enters (R216 to R218) -/

theorem Trap.inBank_of_ne_six (t : Trap) {k : Nat} (h : k ≠ 6) : t.inBank k = t := by simp [Trap.inBank, h]
theorem Trap.inBank_of_mchk (t : Trap) (k : Nat) (h : t.cause = .mchk) : t.inBank k = t := by simp [Trap.inBank, h]

section
variable (c : Core) (t : Trap) (cepc : Word)

/-- An event that its bank takes as it is enters the bank above, or bank 7; an interrupt alone clears a pending bit. -/
theorem Core.arch_enter (ht : t.inBank c.arch.bank = t) : (c.enter t cepc).arch =
    { c.arch.enterTo (t.bankFrom c.arch.bank) t cepc with
      vpend := if t.cause = .intr then c.arch.vpend &&& ~~~(BitVec.ofNat 64 (2 ^ (t.info % 64))) else c.arch.vpend } := by
  have hat : (decide (t.cause = .svc) && decide (c.arch.bank = 6)) = false := by
    rw [Bool.and_eq_false_iff, decide_eq_false_iff_not, decide_eq_false_iff_not]
    refine or_iff_not_imp_left.2 fun hs h6 => ?_
    rw [not_not] at hs
    rw [h6] at ht
    have hx := congrArg Trap.cause ht
    simp [Trap.inBank, hs] at hx
  unfold Core.enter
  simp only [ht, hat]
  cases t.fipa <;> by_cases hi : t.cause = .intr <;> simp [hi] <;> rfl

theorem Core.enter_arch_congr (d : Core) (h : c.arch = d.arch) : (c.enter t cepc).arch = (d.enter t cepc).arch := by
  unfold Core.enter
  simp only [h]
  cases t.fipa <;> split <;> rfl
end

/-! ### The state as a core enters (R219, R224, 06 R268, R298) -/

section
variable (s : State) (l : Nat)

theorem State.arch_capture : ((s.capture l).core l).arch = (s.core l).arch := s.capture_keeps (·.arch) l fun _ _ _ _ _ => rfl

/-- The beats of RX7-compatible mode count in the position of E alone. -/
theorem State.arch_rxBeats (n : Nat) : ∃ p, ((s.rxBeats l n).core l).arch = { (s.core l).arch with pos := p } := by
  unfold State.rxBeats
  split
  · exact ⟨(s.core l).arch.pos + n, by rw [State.core_setPair, State.modCore, State.core_setCore_self]⟩
  · exact ⟨_, rfl⟩

theorem State.arch_enter (t : Trap) (cepc : Word) (hk : (s.core l).arch.bank ≠ 7) (hc : t.cause ≠ .intr) (ht : t.inBank (s.core l).arch.bank = t) :
    ∃ p, ((s.enter l t cepc).core l).arch = { (s.core l).arch.enterTo (t.bankFrom (s.core l).arch.bank) t cepc with pos := p } := by
  obtain ⟨p, hp⟩ := ((s.capture l).setCore l (((s.capture l).core l).enter t cepc)).arch_rxBeats l 6
  refine ⟨p, ?_⟩
  rw [State.core_setCore_self, Core.enter_arch_congr _ t cepc (s.core l) (s.arch_capture l), Core.arch_enter _ t cepc ht, if_neg hc] at hp
  rw [State.enter, State.enterThen, if_neg hk]
  simp only [hc, decide_false, Bool.false_and, Bool.false_eq_true, if_false, id]
  rw [State.arch_capture, hp]
  rfl

end

/-- Settles O24: the bank entered and the bank left, field by field. -/
theorem entryTakesTheNextBank : Obligations.EntryTakesTheNextBank := by
  unfold Obligations.EntryTakesTheNextBank
  intro s l t cepc a b lv sp g2 base hk hi hm hinfo hslot r
  have hin : t.inBank a.bank = t := t.inBank_of_ne_six (by omega)
  have hnext : t.bankFrom a.bank = a.bank + 1 := if_neg hm
  obtain ⟨p, hr⟩ := s.arch_enter l t cepc (show a.bank ≠ 7 by omega) hi hin
  replace hr : r = { a.enterTo (a.bank + 1) t cepc with pos := p } := by rw [← hnext]; exact hr
  have hbk : r.bk = a.entered t cepc := (congrArg Arch.bk hr).trans (a.bk_enterTo t cepc (a.bank + 1))
  have hleft : r.bkOf a.bank = a.left t := (congrArg (Arch.bkOf · a.bank) hr).trans (a.bkOf_enterTo_left t cepc (a.bank + 1) (Nat.ne_of_lt a.bank.lt_succ_self))
  have hsp : a.entrySp t = g2 := by rw [Arch.entrySp, frameSize_eq]
  have hoff : t.offset = 0x100 * t.cause.code := if_neg hi
  refine ⟨?_, ?_, ?_, ?_, ?_, ?_, ?_, ?_, ?_, ?_, ?_, fun k h3 h11 ht => ?_, fun k _ _ => ?_⟩
  · rw [hr]; rfl
  · rw [hbk]; rfl
  · rw [hbk]; rfl
  · rw [hbk]; exact if_neg hi
  · rw [hbk]; rfl
  · rw [hbk, Arch.rg_entered_two, hsp]
  · rw [hbk]; exact a.toNat_ccause_entered t cepc hk hi hinfo hslot
  · rw [hbk]; rfl
  · rw [← hoff, hr]; rfl
  · rw [hr]; rfl
  · rw [hleft, ← hsp]; rfl
  · rw [hbk]; exact a.rg_entered_of_svc t cepc ht k h3 h11
  · rw [hleft]; exact a.rg_left t k

end Sys2Proof.Machine
end

section
/-! PROOFS. The vector that a core takes (05 R245): the fold over the deliverable vectors finds the one of the highest rank. -/

namespace Sys2Proof.Machine

/-- The order of R245: the priority, then level H, then the lower number. -/
def CoreVec.rank (x : CoreVec) (v : Nat) : Nat ×ₗ Bool ×ₗ Natᵒᵈ := toLex (x.prio.toNat, toLex (x.lvl, OrderDual.toDual v))

theorem CoreVec.rank_lt_rank (x y : CoreVec) (u v : Nat) : x.rank u < y.rank v ↔
    x.prio.toNat < y.prio.toNat ∨ (x.prio = y.prio ∧ ((y.lvl = true ∧ x.lvl = false) ∨ (y.lvl = x.lvl ∧ v < u))) := by
  rw [CoreVec.rank, CoreVec.rank, Prod.Lex.toLex_lt_toLex, Prod.Lex.toLex_lt_toLex, BitVec.toNat_inj, Bool.lt_iff, OrderDual.toDual_lt_toDual,
    and_comm (a := x.lvl = false), eq_comm (a := x.lvl) (b := y.lvl)]

/-- No two vectors have one rank: the number tells them apart. -/
theorem rank_injective (f : Nat → CoreVec) : Function.Injective (fun v => (f v).rank v) := fun u v h => by
  have h2 : toLex ((f u).lvl, OrderDual.toDual u) = toLex ((f v).lvl, OrderDual.toDual v) := congrArg (fun p => (ofLex p).2) h
  exact congrArg (fun p => OrderDual.ofDual (ofLex p).2) h2

section
variable (s : State) (l : Nat)

/-- The better of two vectors is the one of the higher rank. -/
theorem State.better_eq (a b : Nat) : s.better l a b = if (s.cv l a).rank a < (s.cv l b).rank b then b else a := by
  unfold State.better
  simp only [CoreVec.rank_lt_rank, BitVec.ult, decide_eq_true_eq]
  rcases lt_trichotomy (s.cv l a).prio.toNat (s.cv l b).prio.toNat with h | h | h
  · rw [if_neg h.not_gt, if_pos h, if_pos (.inl h)]
  · have hp : (s.cv l a).prio = (s.cv l b).prio := BitVec.eq_of_toNat_eq h
    have hmin : Nat.min a b = if b < a then b else a := (min_def a b).trans (by simp only [← not_lt, ite_not])
    simp only [hp, hmin, lt_irrefl, if_false, false_or, true_and]
    cases (s.cv l a).lvl <;> cases (s.cv l b).lvl <;> simp
  · have hp : (s.cv l a).prio ≠ (s.cv l b).prio := fun e => h.ne (congrArg BitVec.toNat e.symm)
    rw [if_pos h, if_neg (by simp [h.not_gt, hp])]

theorem State.not_deliverable_of_vpend_zero (ie : Bool) (v : Nat) (h : (s.core l).arch.vpend = 0) : s.deliverable l ie v = false := by
  simp [State.deliverable, bit, h]

theorem State.bestVec_eq_argmax (ie : Bool) :
    s.bestVec l ie = List.argmax (fun v => (s.cv l v).rank v) ((List.range 64).filter (s.deliverable l ie)) := by
  unfold State.bestVec
  split
  · next h =>
    rw [List.filter_eq_nil_iff.2 fun v _ => by simp [s.not_deliverable_of_vpend_zero l ie v h]]
    rfl
  · unfold List.argmax
    congr 1
    funext r v
    cases r with
    | none => rfl
    | some u =>
      simp only [List.argAux, State.better_eq]
      split <;> rfl

end

/-- An element of the highest rank, when the rank tells elements apart, is above every other. -/
theorem argmax_eq_some_iff_of_injective {α β : Type} [DecidableEq α] [LinearOrder β] (f : α → β) (hf : Function.Injective f) (xs : List α) (m : α) :
    xs.argmax f = some m ↔ m ∈ xs ∧ ∀ a ∈ xs, a ≠ m → f a < f m := by
  rw [List.argmax_eq_some_iff]
  constructor
  · rintro ⟨hm, hle, -⟩
    exact ⟨hm, fun a ha hne => (hle a ha).lt_of_ne fun e => hne (hf e)⟩
  · rintro ⟨hm, hlt⟩
    have hle : ∀ a ∈ xs, f m ≤ f a → a = m := fun a ha h => by_contra fun hne => (hlt a ha hne).not_ge h
    exact ⟨hm, fun a ha => (em (a = m)).elim (fun e => e ▸ le_rfl) fun hne => (hlt a ha hne).le, fun a ha h => by rw [hle a ha h]⟩

/-- The vector taken is the deliverable one of the highest rank. -/
theorem State.bestVec_eq_some_iff (s : State) (l : Nat) (ie : Bool) (v : Nat) : s.bestVec l ie = some v ↔
    (v < 64 ∧ s.deliverable l ie v = true) ∧ ∀ u, u < 64 ∧ s.deliverable l ie u = true → u ≠ v → (s.cv l u).rank u < (s.cv l v).rank v := by
  rw [State.bestVec_eq_argmax, argmax_eq_some_iff_of_injective _ (rank_injective (s.cv l))]
  simp only [List.mem_filter, List.mem_range]

/-- The entry of an interrupt clears the pending bit of its vector and no other (R245). -/
theorem Core.vpend_enter_intr (c : Core) (t : Trap) (cepc : Word) (hc : t.cause = .intr) (hv : t.info < 64) (hk : c.arch.bank ≠ 6) (u : Nat) :
    (c.enter t cepc).arch.vpend.getLsbD u = (c.arch.vpend.getLsbD u && decide (u ≠ t.info)) := by
  rw [Core.arch_enter c t cepc (t.inBank_of_ne_six hk)]
  simp only [hc, if_true, Nat.mod_eq_of_lt hv, BitVec.getLsbD_and, BitVec.getLsbD_not, BitVec.getLsbD_ofNat, Nat.testBit_two_pow]
  by_cases hu : u < 64
  · simp [hu, eq_comm]
  · simp [BitVec.getLsbD_of_ge _ u (not_lt.1 hu)]

/-- Settles O23: the vector of the highest rank, then the bit that its entry clears. -/
theorem theBestVectorIsTaken : Obligations.TheBestVectorIsTaken := by
  unfold Obligations.TheBestVectorIsTaken
  intro s l v ie x
  refine ⟨?_, fun c t cepc hc hi hv hk => ?_⟩
  · simp only [State.bestVec_eq_some_iff, CoreVec.rank_lt_rank, and_assoc, and_imp]
    rfl
  · subst hi
    have hbit := c.vpend_enter_intr t cepc hc hv (by omega)
    exact ⟨by simp [hbit], fun u hu => by simp [hbit, hu]⟩

end Sys2Proof.Machine
end

section
/-! PROOFS. Entries at a boundary, and the end of WAIT (05 R240 to R245, 03 R163, 06 R262): what each event's command takes, and what the bank left keeps. -/

namespace Sys2Proof.Machine

section
variable (s : State) (l : Nat)

/-- With no miss outstanding and no poison that comes before it, an event that no walk has made enters at once. -/
theorem State.take_eq_enter (t : Trap) (cepc : Word) (ht : t.hole = none) (hm : (s.core l).misses = [])
    (hp : t.cause ≠ .mchk → (s.core l).poisonFlight = none) : s.take l t cepc = s.enter l t cepc := by
  have hw : s.walkHole l t = s := by rw [State.walkHole, ht]
  unfold State.take
  simp only [hw, ht, hm, Option.isSome_none, Bool.false_and, Bool.false_eq_true, if_false, List.isEmpty_nil, if_true]
  by_cases hc : t.cause = .mchk
  · rw [if_pos hc]
  · rw [if_neg hc, hp hc]

theorem Core.markRep_of_none (c : Core) (h : c.arch.repLeft = none) : c.markRep = c := by simp [Core.markRep, h]

/-- A core that stands as d, between no two iterations of a repeat, enters from there. -/
theorem State.takeHere_setCore (d : Core) (t : Trap) (hr : d.arch.repLeft = none) (ht : t.hole = none) (hm : d.misses = [])
    (hp : t.cause ≠ .mchk → d.poisonFlight = none) : (s.setCore l d).takeHere l t = (s.setCore l d).enter l t d.arch.pc := by
  unfold State.takeHere
  simp only [State.core_setCore_self, Core.markRep_of_none d hr, State.setCore_setCore]
  exact State.take_eq_enter _ l t _ ht (by rw [State.core_setCore_self, hm]) fun hc => by rw [State.core_setCore_self, hp hc]

/-- The bank left by a machine check keeps the poison in flight (R243). -/
theorem State.pois_enter_mchk (t : Trap) (cepc : Word) (ht : t.cause = .mchk) (hk : (s.core l).arch.bank < 7) :
    (((s.enter l t cepc).core l).arch.bkOf (s.core l).arch.bank).pois = (s.core l).arch.park.bk.pois := by
  obtain ⟨p, hp⟩ := s.arch_enter l t cepc hk.ne (by simp [ht]) (t.inBank_of_mchk _ ht)
  have hnb : (s.core l).arch.bank ≠ t.bankFrom (s.core l).arch.bank := by
    rw [Trap.bankFrom, if_pos ht]
    exact hk.ne
  rw [hp]
  exact (congrArg Bank.pois (Arch.bkOf_enterTo_left _ t cepc _ hnb)).trans (Arch.pois_left _ t)

end

/-- A machine check with the cause, fault and address given (R241). -/
def mchkTrap (n a : Nat) : Trap := { cause := .mchk, info := n, bada := a, hyp := true }

section
variable {s : State} {l : Nat} (hb : s.canEnter l = true)
include hb

theorem exec_machineCheck_of_poisoned {a : Nat} (hp : (s.core l).poisoned = some a) : exec (.machineCheck l) s =
    .next ((s.setCore l { s.core l with poisoned := none }).takeHere l (mchkTrap (poisonSrc a) (s.poisonAddr a))) := by
  change execMachineCheck l s = _
  simp only [execMachineCheck, hb, hp, Bool.not_true, Bool.false_eq_true, if_false]
  rfl

theorem exec_machineCheck_of_routed {n a : Nat} (hp : (s.core l).poisoned = none) (hm : (s.core l).mchk = some (n, a)) : exec (.machineCheck l) s =
    .next ((s.setCore l { s.core l with mchk := none, mchkIn := some (n, a) }).takeHere l (mchkTrap n a)) := by
  change execMachineCheck l s = _
  simp only [execMachineCheck, hb, hp, hm, Bool.not_true, Bool.false_eq_true, if_false]
  rfl

theorem exec_interruptEntry_of_best {v : Nat} (hm : (s.core l).mchk = none) (hp : (s.core l).poisoned = none) (hk : (s.core l).arch.bank ≠ 7)
    (hv : s.bestVec l (s.core l).arch.bk.ie = some v) : exec (.interruptEntry l) s = .next (s.takeHere l (s.intrTrap l v)) := by
  change execInterruptEntry l s = _
  simp only [execInterruptEntry, hb, hm, hp, hk, hv, Bool.not_true, Option.isSome_none, decide_false, Bool.or_false, Bool.false_eq_true, if_false]

end

/-- What ends WAIT completes it on a split half, and is an input of a checked pair (R163, 06 R262). -/
theorem exec_waitWakeup {s : State} {l : Nat} (hs : s.moduleStopped = false) (hw : (s.core l).waiting = true) (hk : s.wakes l = true) : exec (.waitWakeup l) s =
    .next (if s.checkedPair l then
        (if (s.core l).inputs.any (fun i => decide (i.kind = .wake)) then s else s.setCore l { s.core l with inputs := (s.core l).inputs ++ [{ kind := .wake, e := none, o := none }] })
      else s.waitEnd l) := by
  change execWaitWakeup l s = _
  simp only [execWaitWakeup, s.live_of_running _ hs, hw, hk, Bool.not_true, Bool.or_false, Bool.false_eq_true, if_false]

/-- Settles O22: each of the two entries by what its command takes, then WAIT. -/
theorem interruptsAndMachineChecksEnter : Obligations.InterruptsAndMachineChecksEnter := by
  unfold Obligations.InterruptsAndMachineChecksEnter
  intro s l v n a c x mchk enters
  refine ⟨fun hb hm hr => ?_, fun hs hw hk => ⟨fun hp => ?_, fun hp hin => ?_⟩⟩
  · have hentry : ∀ (d : Core) (n a : Nat), d.arch = c.arch → d.misses = c.misses → exec (.machineCheck l) s = .next ((s.setCore l d).takeHere l (mchkTrap n a)) →
        enters d (mchk n a) := by
      intro d n a harch hmiss hexec
      have hin := State.pois_enter_mchk (s.setCore l d) l (mchkTrap n a) c.arch.pc rfl
      rw [State.core_setCore_self, harch] at hin
      rw [s.takeHere_setCore l d _ (by rw [harch, hr]) rfl (hmiss.trans hm) (absurd rfl), harch] at hexec
      exact ⟨hexec, fun hk => (hin hk).trans (congrArg Bank.pois (Arch.bk_setBk c.arch _))⟩
    refine ⟨fun hmc hpo hfl hbk hv => ?_, fun hp => ?_, fun hp hmc => ?_⟩
    · have hself : s.takeHere l (s.intrTrap l v) = (s.setCore l c).takeHere l (s.intrTrap l v) := by simp [State.takeHere, c]
      rw [exec_interruptEntry_of_best hb hmc hpo hbk hv, hself, s.takeHere_setCore l c _ hr rfl hm fun _ => hfl]
      rfl
    · exact hentry _ _ _ rfl rfl (exec_machineCheck_of_poisoned hb hp)
    · exact hentry _ _ _ rfl rfl (exec_machineCheck_of_routed hb hp hmc)
  · rw [exec_waitWakeup hs hw hk, hp]
    rfl
  · rw [exec_waitWakeup hs hw hk, hp, show (s.core l).inputs = [] from hin]
    rfl

end Sys2Proof.Machine
end

section
/-! PROOFS. The event router (05 R246 to R249): what the input of a source, a write of ERCTL and the end of a moderation interval do. -/

namespace Sys2Proof.Machine

section
variable (s : State) (n : Nat)

@[simp] theorem State.setEr_setEr (x y : ErSrc) : (s.setEr n x).setEr n y = s.setEr n y := by simp [State.setEr]
@[simp] theorem State.lcExists_setEr (l : Nat) (x : ErSrc) : (s.setEr n x).lcExists l = s.lcExists l := rfl
@[simp] theorem State.checkedPair_setEr (l : Nat) (x : ErSrc) : (s.setEr n x).checkedPair l = s.checkedPair l := rfl
@[simp] theorem State.core_setEr (l : Nat) (x : ErSrc) : (s.setEr n x).core l = s.core l := rfl

/-- Outside a duplex pair an input takes effect at once (16 R749). -/
theorem State.agree_of_not_paired (i : AgreedIn) (t : State) (h : s.dpx.st ≠ .paired) : s.agree i t = t := if_neg h

/-! ### Events (R246, R247) -/

/-- A split half takes an event that neither pends nor waits to be agreed at once (06 R262). -/
theorem State.raiseCore_of_split (l v : Nat) (hb : bit (s.core l).arch.vpend.toNat v = false) (hi : (s.core l).hasIntr v = false) (hp : s.checkedPair l = false) :
    s.raiseCore l v = s.setCore l ((s.core l).setVpend v) := by
  simp [State.raiseCore, hb, hi, hp]

theorem State.erEvent_of_core (hen : (s.er n).en = true) (hv : (s.er n).virt = false) (hx : s.lcExists (s.er n).lc = true) :
    s.erEvent n = (s.setEr n { s.er n with last := some (s.er n).dst }).raiseCore (s.er n).lc (s.er n).vec := by
  simp [State.erEvent, hen, hv, hx]

theorem State.erEvent_of_disabled (hen : (s.er n).en = false) : s.erEvent n = s.setEr n { s.er n with held := true, last := none } := by
  simp [State.erEvent, hen]

theorem State.erRise_of_high (h : (s.er n).level = true) : s.erRise n = s := if_pos h
theorem State.erRise_of_low (h : (s.er n).level = false) : s.erRise n = (s.setEr n { s.er n with level := true }).erEvent n := by simp [State.erRise, h]

theorem State.erRecheck_of_not_held (h : (s.er n).held = false) : s.erRecheck n = s := by simp [State.erRecheck, h]
theorem State.erRecheck_of_held (h : (s.er n).held = true) (hen : (s.er n).en = true) (hx : (s.er n).virt = true ∨ s.lcExists (s.er n).lc = true) :
    s.erRecheck n = (s.setEr n { s.er n with held := false }).erEvent n := by
  simp [State.erRecheck, h, hen, hx]

/-! ### ERCTL (R246, R247, R249) -/

section
variable (w : Nat)

/-- The source with MODE and EN as a write of ERCTL gives them. -/
def State.erWritten : State := s.setEr n { s.er n with mode := bit w 1, en := bit w 0 }

/-- A write of ERCTL is an event of its own when MODE becomes 1 while the source is asserted, its event neither held nor standing. -/
theorem State.erctlSet_of_mode_rise (hm : (s.er n).mode = false) (hw : bit w 1 = true) (hl : (s.er n).level = true) (hh : (s.er n).held = false)
    (hs : s.erStands n = false) : s.erctlSet n w = (s.erWritten n w).erEvent n := by
  simp [State.erctlSet, State.erWritten, hm, hw, hl, hh, hs]

theorem State.erctlSet_of_no_rise (h : (s.er n).mode = true ∨ bit w 1 = false ∨ (s.er n).level = false ∨ (s.er n).held = true ∨ s.erStands n = true) :
    s.erctlSet n w = (s.erWritten n w).erRecheck n := by
  refine if_neg ?_
  rcases h with h | h | h | h | h <;> simp [h]

end

/-! ### The commands -/

variable (hn : n < 2048)
include hn

theorem exec_eventSourceAssert (hd : s.dpx.st ≠ .paired) : exec (.eventSourceAssert n) s = .next (s.erRise n) := by
  change execEventSourceAssert n s = _
  rw [execEventSourceAssert, if_pos hn, s.agree_of_not_paired _ _ hd]

theorem exec_eventSourceDeassert (hd : s.dpx.st ≠ .paired) : exec (.eventSourceDeassert n) s = .next (s.erFall n) := by
  change execEventSourceDeassert n s = _
  rw [execEventSourceDeassert, if_pos hn, s.agree_of_not_paired _ _ hd]

theorem exec_erctlWrite (w : Word) : exec (.erctlWrite n w) s = .next (s.erctlSet n w.toNat) := by
  change execErctlWrite n w s = _
  rw [execErctlWrite, if_pos hn]

end

section
variable (s : State) (l v addr size : Nat) (w : Word)

/-- A moderation interval ends at its tick, and not before (R248). -/
theorem exec_routerModerationExpiry (hl : l < 128) (hv : v < 64) :
    exec (.routerModerationExpiry l v) s = .next (if (s.cv l v).next ≤ s.time.ticks then s.setCv l v (s.cv l v) else s) := by
  change execRouterModerationExpiry l v s = _
  simp only [execRouterModerationExpiry, hl, hv, decide_true, Bool.true_and, decide_eq_true_eq]
  split
  · next h => rw [show Nat.min (s.cv l v).next s.time.ticks = (s.cv l v).next from Nat.min_eq_left h]
  · rfl

/-- A store by level H to control space is the write of a register, or an error (R17, 07 R342). -/
theorem exec_controlSpaceWrite (hx : s.lcExists l = true) (hs : s.moduleStopped = false) (hc : isCtl addr = true) (ha : isAperture addr = false)
    (hsize : size ∈ [1, 2, 4, 8]) (hal : addr % size = 0) :
    exec (.controlSpaceWrite l addr size w) s = .next ((s.ctlWrite 2 addr size w.toNat).getD (s.devError l addr true)) := by
  have hok : (decide (size = 1) || decide (size = 2) || decide (size = 4) || decide (size = 8)) = true := by
    simpa only [List.mem_cons, List.not_mem_nil, or_false, Bool.or_eq_true, decide_eq_true_eq, or_assoc] using hsize
  change execControlSpaceWrite l addr size w s = _
  simp only [execControlSpaceWrite, hx, hs, hc, ha, hok, hal, decide_true, Bool.not_true, Bool.or_false, Bool.and_true, Bool.false_eq_true, if_false, if_true]

end

/-- Settles O31: the source's input, the moderation interval, ERCTL with and without a held event, control space. -/
theorem eventsReachTheirVector : Obligations.EventsReachTheirVector := by
  unfold Obligations.EventsReachTheirVector
  intro s l v n addr size w e up s1
  have hrise : (s.setEr n { e with level := true }).er n = { e with level := true } := State.er_setEr_self _ _ _
  have hwritten : s1.er n = { e with mode := bit w.toNat 1, en := bit w.toNat 0 } := State.er_setEr_self _ _ _
  refine ⟨fun hn hd => ⟨fun hl => ?_, fun hl hen hv hx hp hb hi => ?_, fun hl hen => ?_, exec_eventSourceDeassert s n hn hd⟩, fun hl hv => ⟨fun ht => ?_, fun ht => ?_⟩,
    fun hn hh => ⟨fun hno => ?_, fun hm hw hl hst => ?_⟩, fun hn hh hw hx => ?_, exec_controlSpaceWrite s l addr size w⟩
  · rw [exec_eventSourceAssert s n hn hd, s.erRise_of_high n hl]
  · rw [exec_eventSourceAssert s n hn hd, s.erRise_of_low n hl,
      State.erEvent_of_core _ n ((congrArg ErSrc.en hrise).trans hen) ((congrArg ErSrc.virt hrise).trans hv) (by rw [hrise]; exact hx), hrise, State.setEr_setEr]
    exact congrArg _ (up.raiseCore_of_split e.lc e.vec hb hi hp)
  · rw [exec_eventSourceAssert s n hn hd, s.erRise_of_low n hl, State.erEvent_of_disabled _ n ((congrArg ErSrc.en hrise).trans hen), hrise, State.setEr_setEr]
  · rw [exec_routerModerationExpiry s l v hl hv, if_pos ht]
  · rw [exec_routerModerationExpiry s l v hl hv, if_neg ht.not_ge]
  · rw [exec_erctlWrite s n hn, s.erctlSet_of_no_rise n w.toNat (by tauto)]
    exact congrArg _ (s1.erRecheck_of_not_held n ((congrArg ErSrc.held hwritten).trans hh))
  · rw [exec_erctlWrite s n hn, s.erctlSet_of_mode_rise n w.toNat hm hw hl hh hst]
    rfl
  · rw [exec_erctlWrite s n hn, s.erctlSet_of_no_rise n w.toNat (.inr (.inr (.inr (.inl hh))))]
    exact congrArg _ (s1.erRecheck_of_held n ((congrArg ErSrc.held hwritten).trans hh) ((congrArg ErSrc.en hwritten).trans hw) (by rw [hwritten]; exact hx))

end Sys2Proof.Machine
end

section
/-! PROOFS. Release from the store buffer (06 R272, 07 R316, R333), and the completion of barriers, of TLB invalidations and of the clean of a CCTL change
(07 R321 to R323, R351, R371, R372). -/

namespace Sys2Proof.Machine

/-! ### What the oldest entry does as it leaves -/

section
variable (s : State) (l pa : Nat) (bs : List Byte)

/-- A store through the caches reads its line first unless it writes the whole of it (R316). -/
theorem State.releaseMem_of_cached (hc : isCarve pa = false) (hb : s.backed pa = true) :
    s.releaseMem l pa bs false = (if bs.length = 128 then s else s.coreSees l pa 0x02).coreStore (pairOf l) pa bs := by
  simp only [State.releaseMem, hc, hb, Bool.not_true, Bool.false_eq_true, if_false]
  split <;> rfl

/-- A store of an uncached type goes to memory as an agent's (R333). -/
theorem State.releaseMem_of_uncached (hc : isCarve pa = false) (hb : s.backed pa = true) :
    s.releaseMem l pa bs true = (s.coreSees l pa 0x02).agentPart pa bs := by
  simp only [State.releaseMem, hc, hb, Bool.not_true, Bool.false_eq_true, if_false, if_true]

theorem State.releaseKind_scr (hb : s.backed pa = true) : s.releaseKind l (.scr pa bs) = s.scrWrite (pairOf l) (pa % 2 ^ 20) bs := if_pos hb

/-- Maintenance of a line of memory: what its operation does to the line (R355). -/
theorem State.releaseKind_maint (op : MaintOp) {n : Nat} (hn : n < 2 ^ 45) : s.releaseKind l (.maint op n) =
    match op with
    | .clean => s.cleanLine n
    | .inval => s.dropLine n
    | .clinv => s.flushLine n :=
  if_neg hn.not_ge

end

section
variable {s : State} {l : Nat} {e : SbEntry} {rest : List SbEntry}
variable (hn : s.lcNumbered l = true) (hs : s.moduleStopped = false) (hsb : (s.core l).sb = e :: rest)
include hn hs hsb

theorem exec_storeRelease_of_unsealed (hcov : e.cov ≠ 2) : exec (.storeRelease l) s = .next s := by
  change execStoreRelease l s = _
  simp only [execStoreRelease, hn, hs, hsb, hcov, ne_eq, not_false_eq_true, decide_true, Bool.not_true, Bool.or_false, Bool.true_or, Bool.false_eq_true, if_false, if_true]

/-- The oldest entry that a seal covers leaves in its turn, with its grants (R272, 16 R747). -/
theorem exec_storeRelease_of_sealed (hcov : e.cov = 2) (hr : (s.core l).readFirst = false) (hw : s.releaseWaits l e.kind = false)
    (ht : s.turns (e.kind.grants l) = true) : exec (.storeRelease l) s =
    .next ((e.kind.grants l).foldl State.grant (((s.setCore l { s.core l with sb := rest }).releaseKind l e.kind).afterRelease l)) := by
  change execStoreRelease l s = _
  simp only [execStoreRelease, hn, hs, hsb, hcov, hr, hw, ht, ne_eq, not_true_eq_false, decide_false, Bool.not_true, Bool.or_false, Bool.false_eq_true, if_false]

end

/-! ### Barriers -/

/-- The entry is a store to a DEV page. -/
def SbEntry.isDev (e : SbEntry) : Bool := match e.kind with | .dev _ _ _ _ => true | _ => false

theorem any_isDev_eq_false (sb : List SbEntry) (h : sb.all (fun e => match e.kind with | .dev _ _ _ _ => false | _ => true) = true) : sb.any SbEntry.isDev = false := by
  rw [List.any_eq_false]
  intro e he
  have hkind := List.all_eq_true.mp h e he
  unfold SbEntry.isDev
  split at hkind
  · exact absurd hkind Bool.false_ne_true
  · exact Bool.false_ne_true

/-- The barrier of a TLB invalidation (R371). -/
def Barrier.isTlbi : Barrier → Bool
  | .tlbiV _ _ | .tlbiI _ | .tlbiA => true
  | .fence | .fenceS | .fenceD => false

section
variable {s : State} {l : Nat} (hs : s.moduleStopped = false) (hr : s.mayRetire l = true)
include hs hr

theorem exec_fenceComplete (hb : (s.core l).barrier = some .fence) (hsb : (s.core l).sb = []) (hm : (s.core l).misses = []) :
    exec (.fenceComplete l) s = .next (s.barrierDone l) := by
  change execFenceComplete l s = _
  simp [execFenceComplete, s.live_of_running _ hs, hr, hb, hsb, hm]

theorem exec_fenceSComplete (hb : (s.core l).barrier = some .fenceS) (hsb : (s.core l).sb = []) (hm : (s.core l).misses = []) :
    exec (.fenceSComplete l) s = .next (s.barrierDone l) := by
  change execFenceSComplete l s = _
  simp [execFenceSComplete, s.live_of_running _ hs, hr, hb, hsb, hm]

/-- A FENCE.D waits for DEV accesses alone, sent or still to be sent (R323). -/
theorem exec_fenceDComplete (hb : (s.core l).barrier = some .fenceD) (ho : (s.core l).devOut = [])
    (hd : (s.core l).sb.any SbEntry.isDev = false) (hm : (s.core l).misses = []) : exec (.fenceDComplete l) s = .next (s.barrierDone l) := by
  have hgo : (decide ((s.core l).barrier = some .fenceD) && (s.core l).devOut.isEmpty && !(s.core l).sb.any SbEntry.isDev && (s.core l).misses.isEmpty && s.mayRetire l) = true := by
    simp only [hr, hb, ho, hd, hm, decide_true, List.isEmpty_nil, Bool.not_false, Bool.and_self]
  exact (congrArg Host.Outcome.next (s.live_of_running _ hs)).trans (congrArg Host.Outcome.next (if_pos hgo))

/-- A TLB invalidation waits until every core has performed what it translated (R372). -/
theorem exec_tlbiComplete (b : Barrier) (hi : b.isTlbi = true) (hall : s.allPerformed = true) (hsb : (s.core l).sb = []) (hb : (s.core l).barrier = some b) :
    exec (.tlbiComplete l) s = .next ((s.tlbDrop b).barrierDone l) := by
  change execTlbiComplete l s = _
  cases b with
  | fence | fenceS | fenceD => exact absurd hi Bool.false_ne_true
  | tlbiV _ _ | tlbiI _ | tlbiA => simp [execTlbiComplete, s.live_of_running _ hs, hr, hb, hsb, hall]

theorem exec_cacheCleanComplete (hf : (s.core l).freezes.contains .cacheClean = true) : exec (.cacheCleanComplete l) s =
    .next ((s.setCore l { s.core l with freezes := (s.core l).freezes.erase .cacheClean }).retire l) := by
  change execCacheCleanComplete l s = _
  simp only [execCacheCleanComplete, s.live_of_running _ hs, hf, hr, Bool.and_self, if_true]

end

/-- Settles O26: the oldest entry by its kind, then the barriers. -/
theorem sealedStoresLeaveAndBarriersComplete : Obligations.SealedStoresLeaveAndBarriersComplete := by
  unfold Obligations.SealedStoresLeaveAndBarriersComplete
  refine ⟨?_, ?_⟩
  · intro s l e rest c left goes hn hs hsb
    refine ⟨exec_storeRelease_of_unsealed hn hs hsb, fun hcov hr hw ht => ?_⟩
    have hgoes : ∀ (k : SbKind) (t : State), e.kind = k → left.releaseKind l k = t → goes t := by
      rintro k t rfl rfl
      exact exec_storeRelease_of_sealed hn hs hsb hcov hr hw ht
    refine ⟨fun pa bs hk hc hb => hgoes _ _ hk (left.releaseMem_of_cached l pa bs hc hb), fun pa bs hk hc hb => hgoes _ _ hk (left.releaseMem_of_uncached l pa bs hc hb),
      fun pa bs hk hb => hgoes _ _ hk (left.releaseKind_scr l pa bs hb), fun pa n v h hk => hgoes _ _ hk rfl, fun ba op hk => hgoes _ _ hk rfl, fun n hlt => ⟨?_, ?_, ?_⟩⟩
    all_goals exact fun hk => hgoes _ _ hk (left.releaseKind_maint l _ hlt)
  · intro s l va i c done noDev inval hf hs hrun
    have hr : s.mayRetire l = true := by simp only [State.mayRetire, show (s.core l).run = .running from hrun, hf, decide_true, Bool.not_false, Bool.and_self]
    refine ⟨⟨fun hm => ⟨fun hb hsb => exec_fenceComplete hs hr hb hsb hm, fun hb hsb => exec_fenceSComplete hs hr hb hsb hm,
      fun hb ⟨ho, hd⟩ => exec_fenceDComplete hs hr hb ho (any_isDev_eq_false _ hd) hm⟩, fun hsb hall => ?_⟩, exec_cacheCleanComplete hs hr⟩
    exact ⟨exec_tlbiComplete hs hr _ rfl hall hsb, exec_tlbiComplete hs hr _ rfl hall hsb, exec_tlbiComplete hs hr _ rfl hall hsb⟩

end Sys2Proof.Machine
end

section
/-! PROOFS. Agreed inputs (06 R262 to R267): what the halves take as an input is presented, and what its agreed value does. -/

namespace Sys2Proof.Machine

/-! ### Presentation -/

section
variable {s : State} {l : Nat} (e o : Option Sample) (hs : s.moduleStopped = false)
include hs

/-- The halves sample an input that waits to be sampled (R262). -/
theorem exec_inputPresented_of_waiting (i : InKind) (id : Nat) (hi : (s.core l).inputs = [{ kind := i, e := none, o := none, id := id }]) :
    exec (.inputPresented l i e o) s = .next (s.setCore l { s.core l with inputs := [{ kind := i, e := e, o := o, id := id }] }) := by
  change execInputPresented l i e o s = _
  simp [execInputPresented, s.live_of_running _ hs, hi]

/-- A halt that is requested becomes an input of a checked pair (R266, R267). -/
theorem exec_inputPresented_halt_of_asked (hi : (s.core l).inputs = []) (hq : (s.core l).haltReq ≠ []) (hh : (s.core l).halting = false)
    (hr : (s.core l).run = .running) (hp : s.checkedPair l = true) :
    exec (.inputPresented l .halt e o) s = .next (s.setCore l { s.core l with inputs := [{ kind := .halt, e := e, o := o }] }) := by
  change execInputPresented l .halt e o s = _
  simp [execInputPresented, s.live_of_running _ hs, hi, hq, hh, hr, hp]

/-- Without a request no halt is presented (R267). -/
theorem exec_inputPresented_halt_of_unasked (hi : (s.core l).inputs = []) (hq : (s.core l).haltReq = []) : exec (.inputPresented l .halt e o) s = .next s := by
  change execInputPresented l .halt e o s = _
  simp [execInputPresented, s.live_of_running _ hs, hi, hq]

end

/-! ### Agreement -/

/-- An agreement that comes late makes a CE record (R263). -/
def State.reportLate (s : State) (l : Nat) (r : InputReq) : State := if lateInput r then s.pairReport l 2 clCE else s

/-- The input that core l of s has taken, which leaves t, ends a WAIT that it can (03 R163). -/
def State.wakenBy (s : State) (l : Nat) (t : State) : State := if (s.core l).waiting && t.wakes l then t.waitEnd l else t

/-- Core l with its only input taken from the queue. -/
def State.inputTaken (s : State) (l : Nat) : Core := { s.core l with inputs := [] }

/-- Vector v pends at core l, whose only input has been taken, and enters O's log (R264, R299). -/
def State.vectorTaken (s : State) (l v : Nat) : State := (s.setCore l ((s.inputTaken l).setVpend v)).rxLog l (BitVec.ofNat 64 v)

/-- The time v takes the place of every result that waits for input id (R265). -/
def Core.timeAgreed (c : Core) (id : Nat) (v : Word) : Core :=
  { c with arch := { c.arch with infl := c.arch.infl.map (fun f => if f.wait = some id then { f with val := v, wait := none } else f) } }

section
variable {s : State} {l id : Nat} {e o : Option Sample} (hs : s.moduleStopped = false)
include hs

theorem exec_inputAgreed_intr {v : Nat} (hi : (s.core l).inputs = [{ kind := .intr v, e := e, o := o, id := id }]) :
    exec (.inputAgreed l 0) s = .next ((s.wakenBy l (s.vectorTaken l v)).reportLate l { kind := .intr v, e := e, o := o, id := id }) := by
  change execInputAgreed l 0 s = _
  simp only [execInputAgreed, s.live_of_running _ hs, hi, List.getElem?_cons_zero, List.eraseIdx_cons_zero, State.modCore, State.core_setCore_self, State.setCore_setCore]
  rfl

/-- A wake-up makes the best vector pend, or leaves the reason of the WAIT's end where it stands (R262). -/
theorem exec_inputAgreed_wake (hi : (s.core l).inputs = [{ kind := .wake, e := e, o := o, id := id }]) :
    exec (.inputAgreed l 0) s = .next ((s.wakenBy l (match s.bestVec l true with
      | some v => s.vectorTaken l v
      | none => (s.setCore l (s.inputTaken l)).rxLog l 0)).reportLate l { kind := .wake, e := e, o := o, id := id }) := by
  change execInputAgreed l 0 s = _
  simp only [execInputAgreed, s.live_of_running _ hs, hi, List.getElem?_cons_zero, List.eraseIdx_cons_zero, State.modCore, State.core_setCore_self, State.setCore_setCore]
  rfl

theorem exec_inputAgreed_halt (hi : (s.core l).inputs = [{ kind := .halt, e := e, o := o, id := id }]) (hq : (s.core l).haltReq ≠ []) (hr : (s.core l).run = .running) :
    exec (.inputAgreed l 0) s = .next ((((s.setCore l (s.inputTaken l)).rxLog l 0).beginHalt l).reportLate l { kind := .halt, e := e, o := o, id := id }) := by
  have hgo : (!(s.core l).haltReq.isEmpty && decide ((s.core l).run = .running)) = true := by simp [hq, hr]
  change execInputAgreed l 0 s = _
  simp only [execInputAgreed, s.live_of_running _ hs, hi, hgo, List.getElem?_cons_zero, List.eraseIdx_cons_zero, if_true]
  rfl

section
variable (hi : (s.core l).inputs = [{ kind := .rdtime, e := e, o := o, id := id }])
include hi

/-- The freeze of the module holds an agreement of RDTIME back (16 R748). -/
theorem exec_inputAgreed_rdtime_of_frozen (hf : s.dpx.frozen = true) : exec (.inputAgreed l 0) s = .next s := by
  change execInputAgreed l 0 s = _
  simp only [execInputAgreed, s.live_of_running _ hs, hi, hf, List.getElem?_cons_zero, if_true]

variable (hf : s.dpx.frozen = false)
include hf

theorem exec_inputAgreed_rdtime_of_agreed {v : Word} (ht : agreedTime s.time.dtime { kind := .rdtime, e := e, o := o, id := id } = some v) :
    exec (.inputAgreed l 0) s = .next ((((((s.setCore l ((s.inputTaken l).timeAgreed id v)).rxLog l v).endFreeze l .agreement).grant
      { kind := 2, addr := 0, agent := l, val := v })).reportLate l { kind := .rdtime, e := e, o := o, id := id }) := by
  change execInputAgreed l 0 s = _
  simp only [execInputAgreed, s.live_of_running _ hs, hi, hf, ht, List.getElem?_cons_zero, List.eraseIdx_cons_zero, Bool.false_eq_true, if_false, State.modArch, State.modCore,
    State.core_setCore_self, State.setCore_setCore]
  rfl

theorem exec_inputAgreed_rdtime_of_apart (ht : agreedTime s.time.dtime { kind := .rdtime, e := e, o := o, id := id } = none) :
    exec (.inputAgreed l 0) s = .next ((s.setCore l (s.inputTaken l)).mismatch l) := by
  change execInputAgreed l 0 s = _
  simp only [execInputAgreed, s.live_of_running _ hs, hi, hf, ht, List.getElem?_cons_zero, List.eraseIdx_cons_zero, Bool.false_eq_true, if_false]
  rfl

end
end

section
variable (now : Word) (i : InKind) (id : Nat) (a b : Sample)

/-- Two samples of which O's is not the earlier, by one at most, agree on O's (R265). -/
theorem agreedTime_of_later (h : b.val = a.val ∨ b.val = a.val + 1) : agreedTime now { kind := i, e := some a, o := some b, id := id } = some b.val := by
  by_cases heq : a.val = b.val
  · simp only [agreedTime, heq, if_true]
  · obtain hb | hb := h
    · exact absurd hb.symm heq
    · simp only [agreedTime, heq, hb.symm, if_false, if_true]

theorem agreedTime_of_apart (h : a.val ≠ b.val) (hb : a.val + 1 ≠ b.val) (ha : b.val + 1 ≠ a.val) :
    agreedTime now { kind := i, e := some a, o := some b, id := id } = none := by
  simp only [agreedTime, h, hb, ha, if_false]

theorem lateInput_of_same_clock (h : a.clk = b.clk) : lateInput { kind := i, e := some a, o := some b, id := id } = false := by
  simp [lateInput, h]

end

/-- Settles O28: presentation, then the agreement of each kind of input. -/
theorem inputsAreAgreedByBothHalves : Obligations.InputsAreAgreedByBothHalves := by
  unfold Obligations.InputsAreAgreedByBothHalves
  intro s l v id e o a b c d one late ends wakes pends hs
  refine ⟨exec_inputPresented_of_waiting e o hs (.intr v) id, exec_inputPresented_halt_of_asked e o hs, exec_inputPresented_halt_of_unasked e o hs,
    exec_inputAgreed_intr hs, fun hi => ⟨fun hv => ?_, fun hv => ?_⟩, exec_inputAgreed_halt hs, fun hi hf hb hc => ?_, exec_inputAgreed_rdtime_of_frozen hs,
    fun hi hf h hb ha => exec_inputAgreed_rdtime_of_apart hs hi hf (agreedTime_of_apart _ _ _ _ _ h hb ha)⟩
  · have hw := exec_inputAgreed_wake hs hi
    rwa [hv] at hw
  · have hw := exec_inputAgreed_wake hs hi
    rwa [hv] at hw
  · have hw := exec_inputAgreed_rdtime_of_agreed hs hi hf (agreedTime_of_later _ _ _ _ _ hb)
    rwa [State.reportLate, lateInput_of_same_clock _ _ _ _ hc, if_neg Bool.false_ne_true] at hw

end Sys2Proof.Machine
end

section
/-! PROOFS. Checkpoints and retry (06 R268 to R281): what a capture and its seal change, and that a rollback goes back to the sealed checkpoint. -/

namespace Sys2Proof.Machine

/-! ### Capture (R268) -/

section
variable {s : State} {l : Nat}

theorem exec_checkpointCapture (hx : s.lcExists l = true) (hs : s.moduleStopped = false) (h7 : s.isRx7 l = false) (hm : (s.core l).misses = [])
    (hi : (s.core l).arch.infl.any (fun f => f.wait.isSome) = false) (ho : (s.core l).owed = 0) : exec (.checkpointCapture l) s = .next (s.capture l) := by
  change execCheckpointCapture l s = _
  simp only [execCheckpointCapture, hx, hs, h7, hm, hi, ho, ne_eq, not_true_eq_false, decide_false, List.isEmpty_nil, Bool.not_true, Bool.false_and, Bool.or_false,
    Bool.false_eq_true, if_false]

/-- A running core that no restore, BIST or sparing stops is captured. -/
theorem State.capture_of_running (hr : (s.core l).run = .running) (hp : (s.core l).persistent = false) (hres : (s.core l).freezes.contains .restore = false)
    (hspa : (s.core l).freezes.contains .sparing = false) : s.capture l = s.setCore l { s.core l with
      capturing := some (s.ckpt l), sb := (s.core l).sb.map (fun e => if e.cov = 0 then { e with cov := 1 } else e),
      once := (s.core l).once.map (fun e => if e.again then e else { e with cap := true }), capDue := false, groups := 0, exec := (s.core l).exec + 1 } := by
  simp only [State.capture, hr, hp, hres, hspa, ne_eq, not_true_eq_false, decide_false, Bool.false_and, Bool.or_false, Bool.false_eq_true, if_false]

end

/-! ### Seal (R269 to R274) -/

/-- Core c as the seal of capture k leaves it, but for an agreed halt. -/
def Core.sealWith (c : Core) (k : Ckpt) : Core :=
  { c with sealed := k, capturing := none, sb := c.sb.map (fun e => if e.cov = 1 then { e with cov := 2 } else e), acks := [], once := c.once.filter (fun e => !e.cap),
           retries := 0, inRetry := false, vecIn := [], mchkIn := if c.entryWait.isSome then c.mchkIn else none }

/-- The state once the seal of k has left core l as d: O has reached the capture, its acknowledgements are made, the pair drops what it kept for a rollback, and
the DEV load whose turn has come is sent. -/
def State.sealedAs (s : State) (l : Nat) (k : Ckpt) (d : Core) : State :=
  ((((s.core l).acks.foldl (fun t v => t.ackEvent l v) ((s.setCore l d).rxReach l k.arch.pos)).sealPair l k).sendHead l)

section
variable {s : State} {l : Nat} {k : Ckpt} (hs : s.moduleStopped = false) (hk : (s.core l).capturing = some k) (hr : (s.core l).inRetry = false)
include hs hk hr

/-- Signatures that agree seal the capture; an agreed halt that does not find the core where it was captured waits for another capture (R266). -/
theorem exec_sealCompare_of_equal : exec (.sealCompare l true) s =
    .next (let halt := (s.core l).halting && (s.core l).standsAt k
      let u := s.sealedAs l k { (s.core l).sealWith k with
        run := if halt then .halted else (s.core l).run, group := if halt then [] else (s.core l).group, barrier := if halt then none else (s.core l).barrier }
      if (s.core l).halting && !halt then u.settle l else u) := by
  change execSealCompare l true s = _
  simp only [execSealCompare, s.live_of_running _ hs, hk, hr, Bool.false_eq_true, if_false, if_true]
  rfl

theorem exec_sealCompare_of_running (hh : (s.core l).halting = false) : exec (.sealCompare l true) s = .next (s.sealedAs l k ((s.core l).sealWith k)) := by
  rw [exec_sealCompare_of_equal hs hk hr]
  simp only [hh, Bool.false_and, Bool.false_eq_true, if_false]
  rfl

/-- An agreed halt takes effect at the boundary that the seal covers (R266). -/
theorem exec_sealCompare_of_halting (hh : (s.core l).halting = true) (hst : (s.core l).standsAt k = true) :
    exec (.sealCompare l true) s = .next (s.sealedAs l k { (s.core l).sealWith k with run := .halted, group := [], barrier := none }) := by
  rw [exec_sealCompare_of_equal hs hk hr]
  simp only [hh, hst, Bool.and_self, Bool.not_true, Bool.and_false, Bool.false_eq_true, if_false, if_true]

end

/-! ### Rollback (R275 to R279) -/

/-- Core c as a rollback leaves it before the once-only accesses of the checkpoint meet their log (R276). -/
def Core.unwound (c : Core) : Core :=
  { c with
    capturing := none, sb := c.sb.filter (fun e => decide (e.cov = 2)), misses := c.sealed.misses, group := [], barrier := none, waiting := c.sealed.waiting, entryWait := none,
    owed := 0, poisoned := none, inputs := c.inputs.filter (fun r => decide (r.kind ≠ .rdtime)), acks := [], rlog := [], groups := 0, capDue := false,
    mchk := c.mchkIn.or c.mchk, mchkIn := none, vecIn := [], devOut := c.devOut.map (fun d => { d with miss := none }),
    once := c.once.map (fun e => { e with cap := false, again := true }), lctxCur := c.sealed.lctxCur, arch := { c.sealed.arch with vpend := c.sealed.arch.vpend ||| c.sealed.agreed },
    retries := c.retries + 1, inRetry := true, persistent := decide (3 ≤ c.retries), freezes := if 3 ≤ c.retries then [.sparing] else [.restore] }

section
variable (c : Core)

theorem Core.rollback_eq : c.rollback = c.sealed.misses.foldl Core.rejoin c.unwound := by
  simp only [Core.rollback, Core.unwound, decide_eq_true_eq]

/-- What the log of once-only accesses cannot change of a core. -/
theorem Core.rejoin_frame (m : Miss) : ∃ a ms dv on cd, c.rejoin m = { c with arch := a, misses := ms, devOut := dv, once := on, capDue := cd } := by
  unfold Core.rejoin
  split
  · exact ⟨_, _, _, _, _, rfl⟩
  · split <;> exact ⟨_, _, _, _, _, rfl⟩

theorem Core.rejoin_of_unkeyed (m : Miss) (h : m.key = none) : c.rejoin m = c := by simp only [Core.rejoin, h]

theorem Core.foldl_rejoin_frame (ms : List Miss) : ∃ a ms' dv on cd, ms.foldl Core.rejoin c = { c with arch := a, misses := ms', devOut := dv, once := on, capDue := cd } := by
  induction ms generalizing c with
  | nil => exact ⟨_, _, _, _, _, rfl⟩
  | cons m ms ih =>
    obtain ⟨a, xs, dv, on, cd, hm⟩ := c.rejoin_frame m
    obtain ⟨a', xs', dv', on', cd', hms⟩ := ih (c.rejoin m)
    exact ⟨a', xs', dv', on', cd', by rw [List.foldl_cons, hms, hm]⟩

theorem Core.foldl_rejoin_of_unkeyed (ms : List Miss) (h : ms.all (fun m => m.key.isNone) = true) : ms.foldl Core.rejoin c = c := by
  induction ms with
  | nil => rfl
  | cons m ms ih =>
    obtain ⟨hm, hms⟩ := Bool.and_eq_true_iff.mp h
    rw [List.foldl_cons, c.rejoin_of_unkeyed m (Option.isNone_iff_eq_none.mp hm), ih hms]

end

section
variable {s : State} {l : Nat} (hx : s.lcExists l = true) (hs : s.moduleStopped = false) (hr : (s.core l).run = .running ∨ (s.core l).run = .halted)
  (hp : (s.core l).persistent = false)

include hs hr hp in
/-- A core that runs or stands halted rolls back, with what its pair holds and the vectors' deliveries. -/
theorem State.mismatch_of_active : s.mismatch l = ((s.setCore l (s.core l).rollback).vecBack l (s.core l).vecIn).restoreShared l (s.core l).sealed := by
  have hrun : (decide ((s.core l).run = .running) || decide ((s.core l).run = .halted)) = true := by
    simpa only [Bool.or_eq_true, decide_eq_true_eq] using hr
  simp only [State.mismatch, hrun, hp, hs, Bool.not_false, Bool.and_self, if_true]

include hx in
theorem exec_pressMismatch : exec (.pressMismatch l) s = .next (s.mismatch l) := by
  change execPressMismatch l s = _
  rw [execPressMismatch, if_pos hx]

include hs in
/-- Signatures that differ are a mismatch (R278). -/
theorem exec_sealCompare_of_differing {k : Ckpt} (hk : (s.core l).capturing = some k) : exec (.sealCompare l false) s = .next (s.mismatch l) := by
  change execSealCompare l false s = _
  simp only [execSealCompare, s.live_of_running _ hs, hk, Bool.false_eq_true, if_false]

end

/-! ### What a pair holds goes back with its core (R276) -/

section
variable (s : State) (l : Nat) (k : Ckpt)

theorem State.pmAdvance_pairs (key : Nat) : (s.pmAdvance key).pairs = s.pairs := by
  unfold State.pmAdvance
  split <;> rfl

theorem State.pmSettleAll_pairs (n : Nat) (p : Nat → Bool) : (s.pmSettleAll n p).pairs = s.pairs := by
  unfold State.pmSettleAll
  induction List.range 174 generalizing s with
  | nil => rfl
  | cons i is ih =>
    rw [List.foldl_cons, ih]
    split
    · exact s.pmAdvance_pairs _
    · rfl

theorem State.restorePair_of_checked (h : s.checkedPair l = true) : (s.restorePair l k).pair (pairOf l) = { (s.pair (pairOf l)).cctlBack k with lead := 0 } := by
  simp only [State.restorePair, h, if_true]
  exact State.pair_setPair_self _ _ _

theorem State.cctl_restoreShared (h : s.checkedPair l = true) : ((s.restoreShared l k).pair (pairOf l)).cctl = k.cctl := by
  have hpair : (s.pmSettleAll (pairOf l) (fun _ => true)).pair (pairOf l) = s.pair (pairOf l) := congrArg (Tab.get ({} : Pair) · (pairOf l)) (s.pmSettleAll_pairs _ _)
  have hchecked : (s.pmSettleAll (pairOf l) (fun _ => true)).checkedPair l = true := (congrArg (fun p : Pair => decide (p.mode ≠ .split)) hpair).trans h
  rw [State.restoreShared, if_pos h, State.restorePair_of_checked _ l k hchecked]
  rfl

end

/-! ### The end of a freeze (R95, R278) -/

section
variable {s : State} {l : Nat}

theorem State.endFreeze_of_contains (f : Freeze) (hf : (s.core l).freezes.contains f = true) (hz : s.dpx.frozen = false) :
    s.endFreeze l f = ((s.setCore l (Core.resume { s.core l with freezes := (s.core l).freezes.erase f })).sendHead l).finish l := by
  simp only [State.endFreeze, hf, hz, Bool.not_false, Bool.and_self, if_true]
  rfl

theorem exec_restoreComplete (hs : s.moduleStopped = false) : exec (.restoreComplete l) s = .next (s.endFreeze l .restore) := by
  change execRestoreComplete l s = _
  rw [execRestoreComplete, s.live_of_running _ hs]

end

/-- Settles O29: the capture, its seal, the rollback by what starts it, and the end of the restore. -/
theorem checkpointsSealOrRollBack : Obligations.CheckpointsSealOrRollBack := by
  unfold Obligations.CheckpointsSealOrRollBack
  intro s l k c seals sealed
  refine ⟨exec_checkpointCapture, State.capture_of_running, ⟨rfl, rfl, rfl, rfl, rfl⟩,
    fun hs hk hr => ⟨exec_sealCompare_of_running hs hk hr, exec_sealCompare_of_halting hs hk hr⟩, fun e he hx hs hk hr hp => ?_, s.cctl_restoreShared l k, fun hs hf hz => ?_⟩
  · have hmis : exec e s = .next (s.mismatch l) := by
      obtain rfl | rfl : e = .sealCompare l false ∨ e = .pressMismatch l := by simpa using he
      · exact exec_sealCompare_of_differing hs hk
      · exact exec_pressMismatch hx
    rw [State.mismatch_of_active hs hr hp] at hmis
    obtain ⟨a, ms, dv, on, cd, hframe⟩ := c.unwound.foldl_rejoin_frame c.sealed.misses
    have hroll : c.rollback = { c.unwound with arch := a, misses := ms, devOut := dv, once := on, capDue := cd } := c.rollback_eq.trans hframe
    refine ⟨c.rollback, hmis, ?_⟩
    refine ⟨congrArg Core.mchk hroll, (congrArg Core.sealed hroll :), congrArg Core.sb hroll, congrArg Core.capturing hroll, congrArg Core.group hroll, congrArg Core.retries hroll,
      congrArg Core.persistent hroll, congrArg Core.freezes hroll, fun hkeys => ?_⟩
    have hplain : c.rollback = c.unwound := c.rollback_eq.trans (c.unwound.foldl_rejoin_of_unkeyed _ hkeys)
    exact ⟨congrArg Core.arch hplain, congrArg Core.misses hplain⟩
  · rw [exec_restoreComplete hs, State.endFreeze_of_contains .restore hf hz]

end Sys2Proof.Machine
end

section
/-! PROOFS. Failed halves (06 R280 to R288): corrected errors, a checkpoint store that fails, built-in test and sparing. -/

namespace Sys2Proof.Machine

section
variable {s : State} {l : Nat}

theorem exec_halfEccError_of_corrected (o : Bool) (hx : s.lcExists l = true) :
    exec (.halfEccError l o true) s = .next (s.report (s.coreSrc (pairOf l) o 0) (s.payPair l clCE)) := by
  change execHalfEccError l o true s = _
  simp only [execHalfEccError, hx, Bool.not_true, Bool.false_eq_true, if_false, if_true]

theorem exec_checkpointStoreUe (hx : s.lcExists l = true) (hs : s.moduleStopped = false) :
    exec (.checkpointStoreUe l) s = .next ((s.offline l).pairReport l 3 clFC) := by
  change execCheckpointStoreUe l s = _
  simp only [execCheckpointStoreUe, hx, s.live_of_running _ hs, Bool.not_true, Bool.false_eq_true, if_false]

end

/-! ### Built-in test of a checked pair (R283, R284, R287, R288) -/

/-- The chiplet's spare for the O halves, or for the E halves, is free. -/
def Chip.spare (ch : Chip) (o : Bool) : Bool := if o then ch.spareO else ch.spareE

section
variable {s : State} {l : Nat} (hs : s.moduleStopped = false) (hc : (s.core l).persistent = true) (hr : (s.core l).run = .running ∨ (s.core l).run = .halted)
  (hm : (s.pair (pairOf l)).mode = .checked)
include hs hc hr hm

/-- A pair whose halves both pass becomes suspect (R287). -/
theorem exec_bistComplete_of_passed (hsus : (s.pair (pairOf l)).suspect = false) : exec (.bistComplete l true true) s =
    .next ((((s.setPair (pairOf l) { s.pair (pairOf l) with suspect := true }).setCore l
      { s.core l with persistent := false, retries := 0, inRetry := false }).endFreeze l .sparing).pairReport l 3 clDE) := by
  change execBistComplete l true true s = _
  obtain hrun | hrun := hr <;> simp [execBistComplete, s.live_of_running _ hs, hc, hrun, hm, hsus]

/-- The half that failed alone is replaced by its spare (R284). -/
theorem exec_bistComplete_of_spare (o : Bool) (hsp : (s.chip (pairOf l / 16)).spare o = true) : exec (.bistComplete l o (!o)) s =
    .next (((s.replaceHalf (pairOf l) o).setCore l { s.core l with persistent := false }).pairReport l 3 clCE) := by
  change execBistComplete l o (!o) s = _
  cases o with
  | false =>
    have he : (s.chip (pairOf l / 16)).spareE = true := hsp
    obtain hrun | hrun := hr <;> simp [execBistComplete, s.live_of_running _ hs, hc, hrun, hm, he]
  | true =>
    have ho : (s.chip (pairOf l / 16)).spareO = true := hsp
    obtain hrun | hrun := hr <;> simp [execBistComplete, s.live_of_running _ hs, hc, hrun, hm, ho]

/-- Without a spare for it the core goes offline (R288). -/
theorem exec_bistComplete_of_no_spare (o : Bool) (hsp : (s.chip (pairOf l / 16)).spare o = false) : exec (.bistComplete l o (!o)) s =
    .next ((s.offline l).pairReport l 3 clFC) := by
  change execBistComplete l o (!o) s = _
  cases o with
  | false =>
    have he : (s.chip (pairOf l / 16)).spareE = false := hsp
    obtain hrun | hrun := hr <;> simp [execBistComplete, s.live_of_running _ hs, hc, hrun, hm, he]
  | true =>
    have ho : (s.chip (pairOf l / 16)).spareO = false := hsp
    obtain hrun | hrun := hr <;> simp [execBistComplete, s.live_of_running _ hs, hc, hrun, hm, ho]

end

/-- The pair resumes at the checkpoint, its retries at 0 (R285). -/
theorem exec_sparingResume {s : State} {l : Nat} (hs : s.moduleStopped = false) (hf : (s.core l).freezes.contains .sparing = true)
    (hp : (s.core l).persistent = false) :
    exec (.sparingResume l) s = .next ((s.setCore l { s.core l with persistent := false, retries := 0, inRetry := false }).endFreeze l .sparing) := by
  have hgo : ((s.core l).freezes.contains .sparing && !(s.core l).persistent) = true := by rw [hf, hp]; rfl
  have hcore : ({ s.core l with retries := 0, inRetry := false } : Core) = { s.core l with persistent := false, retries := 0, inRetry := false } :=
    congrArg (fun b : Bool => ({ s.core l with persistent := b, retries := 0, inRetry := false } : Core)) hp
  change execSparingResume l s = _
  simp only [execSparingResume, s.live_of_running _ hs, hgo, if_true, hcore]

/-- Settles O30: the two errors, the outcomes of built-in test, and the resumption. -/
theorem failedHalvesAreSpared : Obligations.FailedHalvesAreSpared := by
  unfold Obligations.FailedHalvesAreSpared
  intro s l o c n p ch ends
  exact ⟨fun hx => ⟨exec_halfEccError_of_corrected o hx, exec_checkpointStoreUe hx⟩,
    fun hs hc hr hm => ⟨exec_bistComplete_of_passed hs hc hr hm, exec_bistComplete_of_spare hs hc hr hm false, exec_bistComplete_of_spare hs hc hr hm true,
      exec_bistComplete_of_no_spare hs hc hr hm false⟩,
    exec_sparingResume⟩

end Sys2Proof.Machine
end

section
/-! PROOFS. The core-pair, port and far-memory commands of the mailboxes (06 R284 to R298, 10 R498, 13 R651, 15 R725, R729): the hand-over of a slot, and what
each command does once it runs. -/

namespace Sys2Proof.Machine

/-! ### The hand-over of a slot (R267, R290, R293, R297) -/

section
variable (s : State) (m n : Nat) (mode : PairMode → Bool) (pre : Option Nat) (go : State → State)

/-- Mailbox m has raised the halt request of a core of slot n. -/
def State.haltAsked : Bool := (s.slotCores n).any (fun l => (s.core l).haltReq.contains (m + 1))

/-- The refusal of mailbox m's hand-over of slot n: with its halt request up only for a slot that went offline meanwhile. -/
def State.handRefusal : Option Nat :=
  if s.haltAsked m n && !s.slotTaken m n then (if s.slotOffline n then some scPairOffline else none) else s.pairRefusal m n mode

/-- Nothing refuses the hand-over, whether or not its halt request is up. -/
def State.handOpens : Prop := if s.haltAsked m n then s.slotTaken m n = false ∧ s.slotOffline n = false else s.pairRefusal m n mode = none

/-- A hand-over is refused by its slot or by what it needs besides, or else goes on as far as the slot's halt allows. -/
theorem State.handOver_eq : s.handOver m n mode pre go = ((s.handRefusal m n mode).or pre).elim
    (if s.slotHeld n then go s else if s.haltAsked m n then s else s.haltSlot n (m + 1) true)
    (fun st => (if s.haltAsked m n && !s.slotTaken m n then s.haltSlot n (m + 1) false else s).mbDone m st []) := by
  cases hr : s.handRefusal m n mode <;> cases pre <;>
    · unfold State.handRefusal State.haltAsked at hr
      simp only [State.handOver, hr]
      rfl

variable {s m n mode}

theorem State.handRefusal_of_unasked (ha : s.haltAsked m n = false) : s.handRefusal m n mode = s.pairRefusal m n mode := by
  simp only [State.handRefusal, ha, Bool.false_and, Bool.false_eq_true, if_false]

theorem State.handRefusal_of_opens (h : s.handOpens m n mode) : s.handRefusal m n mode = none := by
  unfold State.handOpens at h
  split at h
  · next ha =>
    obtain ⟨ht, ho⟩ := h
    simp only [State.handRefusal, ha, ht, ho, Bool.not_false, Bool.and_self, Bool.false_eq_true, if_false, if_true]
  · next ha => rw [State.handRefusal_of_unasked (Bool.eq_false_iff.mpr ha), h]

theorem State.handOver_of_refused {st : Nat} (ha : s.haltAsked m n = false) (hr : s.pairRefusal m n mode = some st) :
    s.handOver m n mode pre go = s.mbDone m st [] := by
  simp only [State.handOver_eq, State.handRefusal_of_unasked ha, hr, ha, Option.some_or, Option.elim_some, Bool.false_and, Bool.false_eq_true, if_false]

theorem State.handOver_of_lacking (st : Nat) (ha : s.haltAsked m n = false) (hr : s.handRefusal m n mode = none) :
    s.handOver m n mode (some st) go = s.mbDone m st [] := by
  simp only [State.handOver_eq, hr, ha, Option.none_or, Option.elim_some, Bool.false_and, Bool.false_eq_true, if_false]

theorem State.handOver_halts (ha : s.haltAsked m n = false) (hr : s.pairRefusal m n mode = none) (hh : s.slotHeld n = false) :
    s.handOver m n mode none go = s.haltSlot n (m + 1) true := by
  simp only [State.handOver_eq, State.handRefusal_of_unasked ha, hr, ha, hh, Option.none_or, Option.elim_none, Bool.false_eq_true, if_false]

theorem State.handOver_goes (ho : s.handOpens m n mode) (hh : s.slotHeld n = true) : s.handOver m n mode none go = go s := by
  simp only [State.handOver_eq, State.handRefusal_of_opens ho, hh, Option.none_or, Option.elim_none, if_true]

end

/-! ### What a hand-over does with the slot that it holds -/

section
variable (s : State) (m n : Nat)

/-- PAIR_SPLIT of the context block bs: O starts from it beside E (R290, R291). -/
def State.splitSlot (bs : List Byte) : State :=
  let e := (s.core (2 * n)).withdraw (m + 1)
  (((s.setCore (2 * n) e).startO n (archOfCtx e.arch bs)).setPair n { s.pair n with mode := .split }).erRecheckAll.mbDone m scOk []

/-- What remains of O's core when it follows E again: its LCTX, its FIPA and its watchdog's limit (R293). -/
def Core.joined (o : Core) : Core := { lctx := o.lctx, lctxCur := o.lctxCur, fipa := o.fipa, wdN := o.wdN }

/-- PAIR_JOIN, once every store has left: E goes on alone, and O's pending vectors are the response (R293). -/
def State.joinSlot : State :=
  let e := s.core (2 * n)
  let o := s.core (2 * n + 1)
  if !(e.storesOut && o.storesOut) then s
  else (((s.setCore (2 * n) (e.withdraw (m + 1))).setCore (2 * n + 1) o.joined).setPair n { s.pair n with mode := .checked }).mbDone m scOk (leBytes 8 o.arch.vpend.toNat)

/-- PAIR_SET_RX7 (R298). -/
def State.rx7Slot (on : Bool) : State :=
  ((s.haltSlot n (m + 1) false).setPair n { s.pair n with mode := if on then .rx7 else .checked, lead := 0 }).mbDone m scOk []

theorem State.joinSlot_of_stores_out (he : (s.core (2 * n)).sb = []) (ho : (s.core (2 * n + 1)).sb = []) : s.joinSlot m n =
    (((s.setCore (2 * n) ((s.core (2 * n)).withdraw (m + 1))).setCore (2 * n + 1) (s.core (2 * n + 1)).joined).setPair n { s.pair n with mode := .checked }).mbDone m scOk
      (leBytes 8 (s.core (2 * n + 1)).arch.vpend.toNat) := by
  simp only [State.joinSlot, Core.storesOut, he, ho, List.isEmpty_nil, Bool.and_self, Bool.not_true, Bool.false_eq_true, if_false]

/-- The context block that PAIR_SPLIT names, if it can be read and its fields are in range (R296). -/
def State.splitCtx : Option (List Byte) := (s.readCtx (s.mbP m 8 8)).filter ctxOk

variable {s m}

theorem exec_pairSplit (h : s.runs m 0x0302 = true) : exec (.pairSplit m) s = .next (s.handOver m (s.mbP m 0 1) (fun x => decide (x = .checked))
    (if (s.splitCtx m).isNone then some scCtxFault else none) (fun t => t.splitSlot m (s.mbP m 0 1) ((s.splitCtx m).getD []))) := by
  change execPairSplit m s = _
  simp only [execPairSplit, h, Bool.not_true, Bool.false_eq_true, if_false]
  rfl

theorem exec_pairJoin (h : s.runs m 0x0303 = true) : exec (.pairJoin m) s = .next (s.handOver m (s.mbP m 0 1) (fun x => decide (x = .split)) none
    (fun t => t.joinSlot m (s.mbP m 0 1))) := by
  change execPairJoin m s = _
  simp only [execPairJoin, h, Bool.not_true, Bool.false_eq_true, if_false]
  rfl

/-- PAIR_SET_RX7 enters the mode from checked mode, and leaves it when the command names another (R298). -/
theorem exec_pairSetRx7 (on : Bool) (h : s.runs m 0x0305 = true) (hon : decide (s.mbP m 1 1 = 1) = on) : exec (.pairSetRx7 m) s =
    .next (s.handOver m (s.mbP m 0 1) (fun x => if on then decide (x = .checked) else decide (x = .rx7)) none (fun t => t.rx7Slot m (s.mbP m 0 1) on)) := by
  change execPairSetRx7 m s = _
  simp only [execPairSetRx7, h, hon, Bool.not_true, Bool.false_eq_true, if_false]
  rfl

end

/-! ### The other core-pair commands -/

section
variable {s : State} {m : Nat}

/-- PAIR_STATUS answers five bytes, the third and fourth of which are the physical pairs of the halves (R725). -/
theorem exec_pairStatus (h : s.runs m 0x0301 = true) : ∃ mode flags e o spares, exec (.pairStatus m) s = .next (s.mbDone m 0 [mode, flags, e, o, spares])
    ∧ e.toNat = s.physPair (s.mbP m 0 1) false % 256 ∧ o.toNat = s.physPair (s.mbP m 0 1) true % 256 := by
  change ∃ mode flags e o spares, execPairStatus m s = _ ∧ _
  simp only [execPairStatus, h, Bool.not_true, Bool.false_eq_true, if_false]
  exact ⟨_, _, _, _, _, rfl, BitVec.toNat_ofNat _ _, BitVec.toNat_ofNat _ _⟩

theorem exec_pairRecover {l : Nat} (h : s.runs m 0x0304 = true) (ht : s.slotTaken m (s.mbP m 0 1) = false) (hb : s.slotBusy (s.mbP m 0 1) = false)
    (hl : (s.slotCores (s.mbP m 0 1)).find? (fun l => decide ((s.core l).run = .offline)) = some l) (hal : s.mbP m 8 8 % 256 = 0) (hm : isMem (s.mbP m 8 8) = true)
    (hc : isCarve (s.mbP m 8 8) = false) (hc' : isCarve (s.mbP m 8 8 + 16639) = false) (hk : s.backed (s.mbP m 8 8) = true) (hk' : s.backed (s.mbP m 8 8 + 16639) = true) :
    exec (.pairRecover m) s = .next ((s.agentWrite (s.mbP m 8 8) (s.ctxBlock (s.core l))).mbDone m 0 []) := by
  have hend : s.mbP m 8 8 + ctxSize - 1 = s.mbP m 8 8 + 16639 := rfl
  change execPairRecover m s = _
  simp only [execPairRecover, h, ht, hb, hl, hal, hm, hend, hc, hc', hk, hk', ne_eq, not_true_eq_false, decide_false, Bool.not_true, Bool.or_false, Bool.false_eq_true, if_false]
  rfl

theorem exec_spareClear_closed (pass : List Nat) (h : s.runs m 0x0306 = true) (hm : s.pup.maint = false) : exec (.spareClear m pass) s = .next (s.mbDone m 0x0007 []) := by
  change execSpareClear m pass s = _
  simp only [execSpareClear, h, hm, Bool.not_true, Bool.not_false, Bool.false_eq_true, if_false, if_true]
  rfl

/-- The suspect marks of the slots ns are cleared. -/
def State.unsuspect (s : State) (ns : List Nat) : State := ns.foldl (fun t n => t.setPair n { t.pair n with suspect := false }) s

theorem State.suspect_unsuspect (s : State) (ns : List Nat) (k : Nat) (h : k ∈ ns ∨ (s.pair k).suspect = false) : ((s.unsuspect ns).pair k).suspect = false := by
  induction ns generalizing s with
  | nil => exact h.resolve_left List.not_mem_nil
  | cons n ns ih =>
    refine ih _ ?_
    by_cases hk : k = n
    · exact .inr (by rw [hk, State.pair_setPair_self])
    · rw [State.pair_setPair_ne _ _ _ _ hk]
      simpa [hk] using h

/-- In a maintenance window the halves that pass take their places again and every suspect mark of the chiplet goes (R284, R287). -/
theorem exec_spareClear_tests (pass : List Nat) (h : s.runs m 0x0306 = true) (hm : s.pup.maint = true) :
    let halves := (s.chip (s.mbP m 0 1)).excluded.filter pass.contains
    exec (.spareClear m pass) s = .next (((halves.foldl (fun t x => t.freeHalf (s.mbP m 0 1) x) s).unsuspect (rangeFrom (16 * s.mbP m 0 1) 16)).mbDone m 0 (leBytes 1 halves.length)) := by
  intro halves
  change execSpareClear m pass s = _
  simp only [execSpareClear, h, hm, Bool.not_true, Bool.false_eq_true, if_false]
  rfl

end

theorem mem_rangeFrom (a n k : Nat) : k ∈ rangeFrom a n ↔ a ≤ k ∧ k < a + n := by
  simp only [rangeFrom, List.mem_map, List.mem_range]
  constructor
  · rintro ⟨i, hi, rfl⟩
    omega
  · exact fun h => ⟨k - a, by omega, by omega⟩

/-! ### Ports and far memory (10 R498, 13 R651, R652) -/

section
variable {s : State} {m : Nat}

theorem exec_portConfig_used (h : s.runs m 0x0501 = true) (hu : s.groupUsed (s.mbP m 0 1) = true) : exec (.portConfig m) s = .next (s.mbDone m 0x0318 []) := by
  change execPortConfig m s = _
  simp only [execPortConfig, h, hu, Bool.true_or, Bool.not_true, Bool.false_eq_true, if_false, if_true]
  rfl

/-- A module alone owns every group (16 R735). -/
theorem State.peerGroup_of_standalone (g : Nat) (hd : s.dpx.st = .standalone) : s.peerGroup g = false := by simp [State.peerGroup, hd]

theorem exec_portConfig_alone (h : s.runs m 0x0501 = true) (hu : s.groupUsed (s.mbP m 0 1) = false) (hd : s.dpx.st = .standalone) :
    let g := s.mbP m 0 1
    let ps := s.cfgPorts m
    exec (.portConfig m) s = .next (((List.range 8).foldl (fun t k => t.setPort (8 * g + k) { st := if k < ps.length then 1 else 0 })
      ((s.setGroup g { mode := s.mbP m 1 1, ports := ps }).reslot g (s.mbP m 1 1) ps.length)).mbDone m 0 []) := by
  intro g ps
  change execPortConfig m s = _
  simp only [execPortConfig, h, hu, State.peerGroup_of_standalone _ hd, Bool.and_false, Bool.or_false, Bool.not_true, Bool.false_eq_true, if_false]
  rfl

theorem exec_portStatus (h : s.runs m 0x0502 = true) : exec (.portStatus m) s =
    .next (s.mbDone m 0 (leBytes 1 (s.port (s.mbP m 0 1)).st ++ leBytes 1 (s.port (s.mbP m 0 1)).lanes ++ leBytes 1 (s.port (s.mbP m 0 1)).rate)) := by
  change execPortStatus m s = _
  simp only [execPortStatus, h, Bool.not_true, Bool.false_eq_true, if_false]
  rfl

theorem exec_pathStatus (h : s.runs m 0x0503 = true) : exec (.pathStatus m) s =
    .next (s.mbDone m 0 ((List.range 8).flatMap (fun k => leBytes 1 ((s.ep (s.mbP m 0 2)).path k).st.code))) := by
  change execPathStatus m s = _
  simp only [execPathStatus, h, Bool.not_true, Bool.false_eq_true, if_false]
  rfl

theorem exec_farOnline_refused (h : s.runs m 0x0504 = true) (hx : (s.farSlot (s.mbP m 0 1)).cxl = false ∨ (s.farSlot (s.mbP m 0 1)).online = true) :
    exec (.farOnline m) s = .next (s.mbDone m 0x031A []) := by
  have hno : (!(s.farSlot (s.mbP m 0 1)).cxl || (s.farSlot (s.mbP m 0 1)).online) = true := by simpa using hx
  change execFarOnline m s = _
  simp only [execFarOnline, h, hno, Bool.not_true, Bool.false_eq_true, if_false, if_true]
  rfl

/-- The size that comes online is drawn: a free value in the form of R652. -/
theorem exec_farOnline_draws (h : s.runs m 0x0504 = true) (hc : (s.farSlot (s.mbP m 0 1)).cxl = true) (ho : (s.farSlot (s.mbP m 0 1)).online = false)
    (hp : (s.port (s.farSlot (s.mbP m 0 1)).port).st = 2) :
    let size := farUsable s.draw.1.toNat
    exec (.farOnline m) s = .next ((s.draw.2.setFarSlot (s.mbP m 0 1) { s.farSlot (s.mbP m 0 1) with online := true, size := size }).mbDone m 0 (leBytes 8 size)) := by
  have hok : (!(s.farSlot (s.mbP m 0 1)).cxl || (s.farSlot (s.mbP m 0 1)).online) = false := by rw [hc, ho]; rfl
  change execFarOnline m s = _
  simp only [execFarOnline, h, hok, hp, ne_eq, not_true_eq_false, Bool.not_true, Bool.false_eq_true, if_false]
  rfl

theorem exec_farOffline_refused (h : s.runs m 0x0505 = true) (hx : (s.farSlot (s.mbP m 0 1)).cxl = false ∨ (s.farSlot (s.mbP m 0 1)).online = false) :
    exec (.farOffline m) s = .next (s.mbDone m 0x031A []) := by
  have hno : (!(s.farSlot (s.mbP m 0 1)).cxl || !(s.farSlot (s.mbP m 0 1)).online) = true := by simpa using hx
  change execFarOffline m s = _
  simp only [execFarOffline, h, hno, Bool.not_true, Bool.false_eq_true, if_false, if_true]
  rfl

theorem exec_farOffline_empties (h : s.runs m 0x0505 = true) (hc : (s.farSlot (s.mbP m 0 1)).cxl = true) (ho : (s.farSlot (s.mbP m 0 1)).online = true) :
    exec (.farOffline m) s = .next ((s.setFarSlot (s.mbP m 0 1) { s.farSlot (s.mbP m 0 1) with online := false, size := 0 }).mbDone m 0 []) := by
  have hok : (!(s.farSlot (s.mbP m 0 1)).cxl || !(s.farSlot (s.mbP m 0 1)).online) = false := by rw [hc, ho]; rfl
  change execFarOffline m s = _
  simp only [execFarOffline, h, hok, Bool.not_true, Bool.false_eq_true, if_false]
  rfl

end

/-- Settles O50: the hand-overs by how far they get, then command by command. -/
theorem pairPortAndFarCommands : Obligations.PairPortAndFarCommands := by
  unfold Obligations.PairPortAndFarCommands
  intro s m st bs pass f n p e o asked held opens refuses halts back ps grp x size
  have hpre : s.splitCtx m ≠ none → (if (s.splitCtx m).isNone then some scCtxFault else none) = none := fun h => if_neg (by simpa using h)
  refine ⟨fun hr => ?_, fun hr ha hst => ?_, fun hr ha hst => ?_, fun _ hctx hr ha hno hh => ?_, fun hr ha hno hh => ?_, fun hon hr ha hno hh => ?_,
    fun hr ho => ⟨fun hctx ha => ?_, fun hctx hok hh => ?_⟩, fun hr ho hh he hso => ?_, fun l => exec_pairRecover, fun hr hh => ⟨fun hon ho => ?_, fun hon ho => ?_⟩,
    fun hr => ⟨exec_spareClear_closed pass hr, fun hm => ?_⟩, fun hr => ⟨exec_portConfig_used hr, exec_portConfig_alone hr⟩, exec_portStatus, exec_pathStatus,
    fun hr => ⟨exec_farOnline_draws hr, exec_farOnline_refused hr⟩, fun hr => ⟨exec_farOffline_empties hr, exec_farOffline_refused hr⟩⟩
  · obtain ⟨mode, flags, pe, po, spares, hx, hpe, hpo⟩ := exec_pairStatus hr
    exact ⟨_, hx, rfl, hpe, hpo⟩
  · rw [exec_pairSplit hr, State.handOver_of_refused _ _ ha hst]
  · rw [exec_pairJoin hr, State.handOver_of_refused _ _ ha hst]
  · rw [exec_pairSplit hr, hpre hctx, State.handOver_halts _ ha hno hh]
    rfl
  · rw [exec_pairJoin hr, State.handOver_halts _ ha hno hh]
    rfl
  · exact (exec_pairSetRx7 true hr (decide_eq_true hon)).trans (congrArg _ (State.handOver_halts _ ha hno hh))
  · have hnone : s.splitCtx m = none := congrArg (Option.filter ctxOk) hctx
    rw [exec_pairSplit hr, hnone]
    exact congrArg _ (State.handOver_of_lacking _ _ ha (State.handRefusal_of_opens ho))
  · have hsome : s.splitCtx m = some bs := (congrArg (Option.filter ctxOk) hctx).trans (Option.filter_some_pos hok)
    rw [exec_pairSplit hr, hpre (by simp [hsome]), hsome, State.handOver_goes _ ho hh]
    rfl
  · rw [exec_pairJoin hr, State.handOver_goes _ ho hh, State.joinSlot_of_stores_out s m _ he hso]
    rfl
  · exact (exec_pairSetRx7 true hr (decide_eq_true hon)).trans (congrArg _ (State.handOver_goes _ ho hh))
  · have hoff : s.mbP m 1 1 ≠ 1 := fun h1 => absurd (hon.symm.trans h1) (by decide)
    exact (exec_pairSetRx7 false hr (decide_eq_false hoff)).trans (congrArg _ (State.handOver_goes _ ho hh))
  · exact ⟨_, exec_spareClear_tests pass hr hm, fun k hlo hhi => State.suspect_unsuspect _ _ k (.inl ((mem_rangeFrom _ _ _).mpr ⟨hlo, hhi⟩))⟩

end Sys2Proof.Machine
end

section
/-! PROOFS. DEV accesses (07 R338 to R342, 10 R509, 16 R749): what an access that completes leaves of its core, by its value, as an error or by its timeout, and what
the two commands answer with. -/

namespace Sys2Proof.Machine

/-! ### What a DEV access leaves as it completes (R338, R340, R342) -/

/-- The size and extension of the load that waits for a DEV access; where none waits any more, its own size with zeros. -/
def DevAcc.ext (d : DevAcc) (c : Core) : LdExt :=
  (c.misses.findSome? (fun m => if some m.id = d.miss then (match m.src with | .dev x => some x | _ => none) else none)).getD (d.size, .zero)

/-- What a DEV load reads: its value, or all ones (R342). -/
def DevAcc.raw (d : DevAcc) (val : Option Word) : Nat := val.elim (2 ^ (8 * d.size) - 1) BitVec.toNat

/-- The core as a DEV load of it gives v: logged, and fixed in the miss that waits for it; where a rollback has dropped that miss, the result waits in
the log for the load to be executed again (06 R274, R275). -/
def Core.takeDev (c : Core) (d : DevAcc) (v : Word) : Core :=
  d.miss.elim { c.logOnce d.key d.ex v with once := (c.logOnce d.key d.ex v).once.map (fun a => if some a.key = d.key ∧ a.ex = d.ex then { a with again := true } else a) }
    (fun id => (c.logOnce d.key d.ex v).fixMiss id [v])

/-- The k-th access of core l is no longer outstanding, and the capture that follows it is due. -/
def State.devLeft (s : State) (l k : Nat) : State := s.setCore l { s.core l with devOut := (s.core l).devOut.eraseIdx k, capDue := true }

section
variable {s : State} {l k : Nat} {d : DevAcc}

theorem State.devAnswer_of_value (v : Word) : s.devAnswer l k true v = s.devDone l k (some v) := rfl

variable (hd : (s.core l).devOut[k]? = some d)
include hd

theorem State.devAnswer_of_error_load (v : Word) (hw : d.write = false) : s.devAnswer l k false v = s.devDone l k none := by
  simp [State.devAnswer, hd, hw]

variable (hturn : ((s.core l).devOut.take k).any (fun e => decide (e.ep = d.ep)) = false)
include hturn

theorem State.devDone_of_store (val : Option Word) (hw : d.write = true) :
    s.devDone l k val = (if val.isNone then (s.devLeft l k).devError l d.pa true else s.devLeft l k).settle l := by
  simp only [State.devDone, State.devLeft, hd, hturn, hw, Bool.false_eq_true, if_false, if_true]

theorem State.devDone_of_load (val : Option Word) (hw : d.write = false) :
    let t := if val.isNone then (s.devLeft l k).devError l d.pa false else s.devLeft l k
    s.devDone l k val = t.setCore l ((t.core l).takeDev d (extVal (d.ext (s.core l)) (d.raw val))) := by
  intro t
  cases hm : d.miss <;> cases val <;>
    · simp only [State.devDone, hd, hturn, hw, hm, Core.takeDev, DevAcc.ext, Bool.and_eq_true, decide_eq_true_eq, Bool.false_eq_true, if_false]
      rfl

/-- Only a store that no acknowledgement of the endpoint follows reports no error (10 R509). -/
theorem State.devAnswer_of_error_store (v : Word) (hw : d.write = true) :
    s.devAnswer l k false v = (if d.wack then (s.devLeft l k).devError l d.pa true else s.devLeft l k).settle l := by
  cases ha : d.wack <;> simp [State.devAnswer, hd, hw, ha, State.devDone_of_store hd hturn]

end

/-! ### The commands -/

section
variable {s : State} {l k : Nat} (hs : s.moduleStopped = false)
include hs

theorem exec_devAccessComplete (ok : Bool) (v : Word) (hp : s.dpx.st ≠ .paired) : exec (.devAccessComplete l k ok v) s = .next (s.devAnswer l k ok v) := by
  change execDevAccessComplete l k ok v s = _
  rw [execDevAccessComplete, s.live_of_running _ hs, s.agree_of_not_paired _ _ hp]

theorem exec_devAccessComplete_of_paired (ok : Bool) (v : Word) (hp : s.dpx.st = .paired) :
    exec (.devAccessComplete l k ok v) s = .next { s with dpx := { s.dpx with inputs := s.dpx.inputs ++ [(s.time.ticks, .dev l k ok v)] } } := by
  change execDevAccessComplete l k ok v s = _
  rw [execDevAccessComplete, s.live_of_running _ hs, State.agree, if_pos hp]

/-- The timeout comes when its whole ticks have passed, and not before (R341). -/
theorem exec_devCompletionTimeout {d : DevAcc} (hd : (s.core l).devOut[k]? = some d) :
    exec (.devCompletionTimeout l k) s = .next (if d.sent + 1 + d.tmo ≤ s.time.ticks then s.devDone l k none else s) := by
  change execDevCompletionTimeout l k s = _
  simp only [execDevCompletionTimeout, s.live_of_running _ hs, hd]

end

/-- Settles O27: stores, loads with a miss that waits and loads without one, each by its value, its error and its timeout; then agreement and the time before the timeout. -/
theorem devAccessesComplete : Obligations.DevAccessesComplete := by
  unfold Obligations.DevAccessesComplete
  intro s l k id v ok d c sent both out x takes keeps ones hs hd hturn
  have hanswer (b : Bool) {u : State} (hu : s.devAnswer l k b v = u) : both u b := fun hp => (exec_devAccessComplete hs b v hp).trans (congrArg _ hu)
  have htime {u : State} (hu : s.devDone l k none = u) : out u := fun ht => (exec_devCompletionTimeout hs hd).trans (congrArg _ ((if_pos ht).trans hu))
  have hload {g : State → Nat → State} (hw : d.write = false) (hg : ∀ t raw, t.setCore l ((t.core l).takeDev d (extVal x raw)) = g t raw) :
      both (g sent v.toNat) true ∧ both (g (sent.devError l d.pa false) ones) false ∧ out (g (sent.devError l d.pa false) ones) := by
    have hgood : s.devDone l k (some v) = g sent v.toNat := (State.devDone_of_load hd hturn (some v) hw).trans (hg _ _)
    have hbad : s.devDone l k none = g (sent.devError l d.pa false) ones := (State.devDone_of_load hd hturn none hw).trans (hg _ _)
    exact ⟨hanswer true ((State.devAnswer_of_value v).trans hgood), hanswer false ((State.devAnswer_of_error_load hd v hw).trans hbad), htime hbad⟩
  refine ⟨fun hw => ⟨hanswer true ((State.devAnswer_of_value v).trans (State.devDone_of_store hd hturn (some v) hw)), hanswer false ?_,
      htime (State.devDone_of_store hd hturn none hw)⟩,
    fun hw hm => hload hw fun t raw => ?_, fun hw hm => hload hw fun t raw => ?_, exec_devAccessComplete_of_paired hs ok v, fun ht => ?_⟩
  · rw [State.devAnswer_of_error_store hd hturn v hw, apply_ite (State.settle · l)]
    rfl
  · rw [Core.takeDev, hm]
    rfl
  · rw [Core.takeDev, hm]
    rfl
  · rw [exec_devCompletionTimeout hs hd, if_neg ht.not_ge]

end Sys2Proof.Machine
end

section
/-! PROOFS. What a waiting sequencer waited for (09 R458, R461, R465, R469): an OR result, a bit, tokens, and the end of its transfer, by the ways in which a Mould's
share of it stops. -/

namespace Sys2Proof.Machine

section
variable {s : State} {q : Nat} (hs : s.moduleStopped = false)
include hs

/-! ### The OR result and the bits of shared bit RAM (R458, R461, R469) -/

theorem exec_orResultReady_of_orrd {d : Nat} (hst : (s.sq q).st = .wait) (hw : (s.sq q).waits = .orrd d) :
    exec (.orResultReady q) s = .next (s.sqOrRead q ((s.sq q).cycles (s.sq q).orLeft (s.sq q).gl) d) := by
  change execOrResultReady q s = _
  simp [execOrResultReady, hs, hst, hw]

theorem exec_orResultReady_of_bor {inv : Bool} {t : Nat} (hst : (s.sq q).st = .wait) (hw : (s.sq q).waits = .bor inv t) :
    exec (.orResultReady q) s = .next (s.sqOrGo q ((s.sq q).cycles (s.sq q).orLeft (s.sq q).gl) inv t) := by
  change execOrResultReady q s = _
  simp [execOrResultReady, hs, hst, hw]

theorem exec_sbwaitSatisfied {ba : Nat} (hst : (s.sq q).st = .wait) (hw : (s.sq q).waits = .sbwait ba) (hb : s.bitGet 0 (bitAt ba) = true) :
    let u := s.sqWaited q (2 ^ 48)
    exec (.sbwaitSatisfied q) s = .next (u.sqOn q (u.sq q) 1 (u.sq q).gl) := by
  change execSbwaitSatisfied q s = _
  simp only [execSbwaitSatisfied, hw, hs, hst, hb, ne_eq, not_true_eq_false, decide_false, Bool.not_true, Bool.or_false, Bool.false_eq_true, if_false]

theorem exec_sbldReturn {d ba : Nat} (hst : (s.sq q).st = .run) (hw : (s.sq q).waits = .sbld d ba) :
    let u := s.sqWaited q 64
    exec (.sbldReturn q) s = .next (u.sqOn q ((u.sq q).setSr d (BitVec.ofNat 64 (b2n (s.bitGet 0 (bitAt ba))))) 1 (u.sq q).gl) := by
  change execSbldReturn q s = _
  simp only [execSbldReturn, hw, hs, hst, ne_eq, not_true_eq_false, decide_false, Bool.or_false, Bool.false_eq_true, if_false]

/-! ### Transfers (R465; 08 R415, R419 to R421; 12 R610) -/

/-- An XFER that waits for tokens tries again, whatever the operands that the command names now. -/
theorem exec_xfer_of_tokens (o : SqOp) {idx a : Nat} {as : List Nat} (hw : (s.sq q).waits = .tokens idx a as) (hst : (s.sq q).st = .wait)
    (hf : s.dpx.frozen = false) :
    exec (.xfer q o) s = .next (((s.setSq q { s.sq q with waits := .none }).sqWaited q (2 ^ 48)).startXfer q idx a) := by
  change execXfer q o s = _
  simp only [execXfer, hw, hs, hf, hst, ne_eq, not_true_eq_false, decide_false, Bool.or_false, Bool.false_eq_true, if_false]

/-- What a Mould leaves of transfer idx of sequencer q as its units stop: the job's end, the fault of a pair, or the transfer, over or not. -/
def mouldLeaves (q idx : Nat) (vs : List Nat) : State × XferSt × UnitEnd → State
  | (t, _, .ended st) => t.endJob q st idx
  | (t, x, .differs v) => (t.setSq q { t.sq q with xfer := some x }).arrayFail q .compare v 0 0 255
  | (t, x, _) => if x.over vs then t.xferOver q else t.setSq q { t.sq q with xfer := some x }

variable {f : XferSt} (hx : (s.sq q).xfer = some f)
include hx

theorem exec_mouldTransferEnd_of_range (m : MouldShare) (hst : (s.sq q).st = .run ∨ (s.sq q).st = .wait) (hv : s.xVats q f.entry = none) :
    exec (.mouldTransferEnd q m) s = .next (s.endJob q 0x210 f.idx) := by
  have hgo : (decide ((s.sq q).st = .run) || decide ((s.sq q).st = .wait)) = true := by simpa using hst
  change execMouldTransferEnd q m s = _
  simp only [execMouldTransferEnd, hs, hgo, hx, hv, scMouldRange, Bool.not_true, Bool.or_false, Bool.false_eq_true, if_false]

variable {vs : List Nat} {a : Nat} (n : Nat) (hv : s.xVats q f.entry = some vs)
include hv

theorem exec_mouldTransferEnd_of_free (hst : (s.sq q).st = .run ∨ (s.sq q).st = .wait) (hb : s.mouldBusy q a = false) :
    exec (.mouldTransferEnd q ⟨a, n⟩) s = .next (mouldLeaves q f.idx vs (State.moveUnits q vs a (Nat.min n (xShare f.entry vs (xTotal f.entry) a - f.on a)) s f)) := by
  have hgo : (decide ((s.sq q).st = .run) || decide ((s.sq q).st = .wait)) = true := by simpa using hst
  change execMouldTransferEnd q ⟨a, n⟩ s = _
  simp only [execMouldTransferEnd, hs, hgo, hx, hv, hb, Bool.not_true, Bool.or_false, Bool.false_eq_true, if_false]
  rfl

omit hs in
theorem exec_mouldTransferEnd_of_busy (hb : s.mouldBusy q a = true) : exec (.mouldTransferEnd q ⟨a, n⟩) s = .next s := by
  change execMouldTransferEnd q ⟨a, n⟩ s = _
  simp [execMouldTransferEnd, hx, hv, hb]

end

/-- Settles O36: each thing waited for by the command that brings it, and a Mould's share by the three ways in which its units stop. -/
theorem waitingSequencersGoOn : Obligations.WaitingSequencersGoOn := by
  unfold Obligations.WaitingSequencersGoOn
  intro s q d ba t n a o inv f vs x y waited hs
  refine ⟨fun hst => ⟨exec_orResultReady_of_orrd hs hst, exec_orResultReady_of_bor hs hst, exec_sbwaitSatisfied hs hst⟩, exec_sbldReturn hs,
    fun as hw hst => exec_xfer_of_tokens hs o hw hst, fun hst hx => ⟨exec_mouldTransferEnd_of_range hs hx ⟨a, n⟩ hst, exec_mouldTransferEnd_of_busy hx n, ?_⟩⟩
  intro hv hb r ends
  have hends {u : State} (hu : mouldLeaves q f.idx vs r = u) : ends u := (exec_mouldTransferEnd_of_free hs hx n hv hst hb).trans (congrArg _ hu)
  clear_value r
  obtain ⟨u, g, e⟩ := r
  refine ⟨?ended, ?differs, ?stands⟩
  case ended =>
    rintro st rfl
    exact hends rfl
  case differs =>
    rintro v rfl
    exact hends rfl
  case stands =>
    intro he
    have hl : mouldLeaves q f.idx vs (u, g, e) = if g.over vs then u.xferOver q else u.setSq q { u.sq q with xfer := some g } := by
      obtain rfl | rfl := he <;> rfl
    exact ⟨fun ho => hends (hl.trans (if_pos ho)), fun ho => hends (hl.trans (if_neg (by simp [ho])))⟩

end Sys2Proof.Machine
end

section
/-! PROOFS. Array jobs (09 R443, R447, R474 to R484): the program load that a job begins with, the PE registers, restart, the epoch limit, and a fault of a sequencer. -/

namespace Sys2Proof.Machine

/-! ### A job is taken (R474 to R476) -/

/-- A job begins on the used sequencer of its partition, all of whose Vats are READY. -/
theorem exec_arun_begins {s s0 : State} {qp ph : Nat} {p : PartH} {x : Sequencer} {d : List Byte} (h0 : s.skipRefused qp = s0) (hqp : (s0.qp qp).ph = ph)
    (hp : s0.part ph = p) (hx : s0.sq p.sq = x) (hd : s0.headIs qp 0x40 = some d) (hok : arunOk d = true) (hph : dF d 0 2 = ph) (hkept : p.kept.job = none)
    (hused : x.used = true) (hst : x.st ≠ .stopped) (hxph : x.ph = ph) (hjob : x.job = none) (hcap : s0.cap p.sq = none) (hne : s0.partVats p.sq ≠ [])
    (hv : ∀ v ∈ s0.partVats p.sq ++ p.vats, (s0.vat v).st = .ready) :
    let t := s0.headOn qp
    let j := arunJob qp (t.qp qp).head (s0.ins (s0.qpOwner qp)).gen d
    exec (.arun qp) s = .next (t.setSq p.sq { x.begin j 0 with job := some j, epochs := 0, inst := s0.qpOwner qp }) := by
  have hempty : (s0.partVats p.sq).isEmpty = false := by simpa using hne
  have hready : (s0.partVats p.sq).any (fun v => decide ((s0.vat v).st ≠ .ready)) = false := by
    simpa using fun v hm => hv v (List.mem_append_left _ hm)
  have htwins : p.vats.all (fun v => decide ((s0.vat v).st = .ready)) = true := by
    simpa using fun v hm => hv v (List.mem_append_right _ hm)
  change execArun qp s = _
  simp only [execArun, h0, hqp, hp, hx, hd, hok, hph, hkept, hused, hst, hxph, hjob, hcap, hempty, hready, htwins, ne_eq, not_true_eq_false, decide_false,
    Option.isSome_none, Bool.not_true, Bool.and_false, Bool.or_self, Bool.false_eq_true, if_false]

section
variable {s : State} {q : Nat} {j : ArrJob}

/-! ### The program load, restart and the epoch limit (R475, R478, R479, R482, R484) -/

/-- Every PE of the partition of sequencer q as its program load leaves it (R479). -/
def State.startPes (s : State) (q : Nat) : State := (s.partVats q).foldl (fun u v => u.setVat v { u.vat v with pe := .start }) s

section
variable (hs : s.moduleStopped = false) (hj : (s.sq q).job = some j)
include hs hj

theorem exec_progloadComplete_of_kept (hst : (s.sq q).st = .progload) (hf : bit j.flags 2 = true) :
    exec (.progloadComplete q) s = .next ((s.startPes q).setSq q { (s.startPes q).sq q with st := .run, imem := (s.sq q).imem }) := by
  change execProgloadComplete q s = _
  simp [execProgloadComplete, State.startPes, hs, hj, hst, hf]

theorem exec_progloadComplete_of_fault {a : Nat} {t : State} (hst : (s.sq q).st = .progload) (hf : bit j.flags 2 = false)
    (hg : s.agentGet 3 q (s.sq q).inst j.prog (8 * j.plen) = (t, .fault a)) : exec (.progloadComplete q) s = .next (t.endJob q 0x302 255) := by
  change execProgloadComplete q s = _
  simp [execProgloadComplete, hs, hj, hst, hf, hg, scJobFault]

theorem exec_arrayJobRestart (hst : (s.sq q).st = .stopped) : exec (.arrayJobRestart q) s = .next (s.setSq q ((s.sq q).begin j ((s.sq q).att + 1))) := by
  change execArrayJobRestart q s = _
  simp [execArrayJobRestart, hs, hj, hst]

theorem exec_arrayJobLimit (hst : (s.sq q).st = .progload ∨ (s.sq q).st = .run ∨ (s.sq q).st = .wait) (hl : j.limit ≠ 0) (he : j.limit ≤ (s.sq q).epochs)
    (hc : s.cap q = none) : exec (.arrayJobLimit q) s = .next ((s.setCap q none).endJob q 0x214 255) := by
  have hdue : s.limitDue q = true := by
    simpa [State.limitDue, hs, hj, hl, he, or_assoc] using hst
  change execArrayJobLimit q s = _
  rw [execArrayJobLimit, if_pos hdue, State.limitEnd, hc]
  rfl

end

/-! ### A fault of a sequencer (R443, R447) -/

/-- A fault of the instruction memory or of the scalar registers is a fault of no Vat: it is reported, and the attempt ends. -/
theorem exec_arrayFault_seqMemory (hst : (s.sq q).st = .progload ∨ (s.sq q).st = .run ∨ (s.sq q).st = .wait) (hq : q < s.nSqs)
    (hs : (s.arrayReport q .seqMemory 0 0 0).moduleStopped = false) (hc : (s.arrayReport q .seqMemory 0 0 0).cap q = none) :
    exec (.arrayFault q .seqMemory 0 0 0) s = .next (((s.arrayReport q .seqMemory 0 0 0).setCap q none).endAttempt q 255) := by
  have hgo : (decide ((s.sq q).st = .progload) || decide ((s.sq q).st = .run) || decide ((s.sq q).st = .wait)) = true := by simpa [or_assoc] using hst
  have hcap : (s.sq q).st ≠ .captured := by
    obtain h | h | h := hst <;> rw [h] <;> decide
  have hfail : s.arrayFail q .seqMemory 0 0 0 255 = ((s.arrayReport q .seqMemory 0 0 0).setCap q none).endAttempt q 255 := by
    simp [State.arrayFail, hs, hc, hcap, hgo]
  change execArrayFault q .seqMemory 0 0 0 s = _
  simp [execArrayFault, Nat.not_le.mpr hq, hfail]

end

/-- Settles O37: the job that begins, then the commands of a job in progress. -/
theorem arrayJobsRun : Obligations.ArrayJobsRun := by
  unfold Obligations.ArrayJobsRun
  intro s qp q d j s0 ph p x t y running
  refine ⟨exec_arun_begins rfl rfl rfl rfl, fun hj hs => ?_⟩
  exact ⟨exec_progloadComplete_of_kept hs hj, fun hst hf _ _ => exec_progloadComplete_of_fault hs hj hst hf,
    exec_arrayJobRestart hs hj, exec_arrayJobLimit hs hj, exec_arrayFault_seqMemory⟩

end Sys2Proof.Machine
end

section
/-! PROOFS. Captures (08 R436 to R441), the clearing of Vats (08 R433), and the switch of a sequencer from one partition to another (09 R487 to R491, 12 R613). -/

namespace Sys2Proof.Machine

/-! ### The capture edge (R436) -/

section
variable (s : State) (q : Nat) (c : Capture)

/-- The Vats that a capture edge of sequencer q captures. -/
def State.readyVats : List Nat := (s.partVats q).filter (fun v => decide ((s.vat v).st = .ready))

/-- The Vats of sequencer q as its capture edge leaves them. -/
def State.vatsCaptured : State := (s.readyVats q).foldl (fun t v => t.setVat v { t.vat v with st := .captured }) s

/-- The capture after its edge: its Vats have their blocks before it, but for twins, and the VSTAT of each is that of the edge (R438). -/
def State.edged : Capture :=
  { c with edge := true, pre := (s.sq q).st, todo := (s.readyVats q).filter (fun v => !s.isTwin v),
           vstats := (s.readyVats q).foldl (fun (m : Tab Nat) v => Tab.set 0 m v ((s.vatsCaptured q).vstat v)) [] }

/-- The state at the capture edge, before the sequencer's block is written. -/
def State.heldAtEdge : State := ((s.vatsCaptured q).setSq q { s.sq q with st := .captured }).setCap q (some (s.edged q c))

end

section
variable {s u : State} {q v : Nat} {c : Capture} (hc : s.cap q = some c) (hs : s.moduleStopped = false)
include hc hs

theorem exec_captureEdge (he : c.edge = false) (hf : c.failed = false) (hw : (s.sq q).waits = .none) (hp : (s.sq q).st ≠ .progload)
    (hu : (s.sq q).st ≠ .unused) (hok : (s.heldAtEdge q c).capWrite q (s.edged q c) 0 ((s.sq q).block (s.sq q).st) = (u, .ok)) :
    exec (.captureEdge q) s = .next (if (s.edged q c).todo.isEmpty then u.capDone q (s.edged q c) else u) := by
  change execCaptureEdge q s = _
  simp only [State.heldAtEdge, State.edged, State.vatsCaptured, State.readyVats] at hok ⊢
  simp only [execCaptureEdge, hc]
  rw [if_neg (by simp [he, hs, hw, hp, hu]), if_neg (by simp [hf]), hok]
  rfl

/-! ### The readout of a Vat (R438 to R441, R444) -/

variable (hq : (s.vat v).part = q) (he : c.edge = true) (hv : v ∈ c.todo)
include hq he hv

theorem exec_captureReadoutComplete_of_same (hsame : (s.vat v).chk = true → s.pairSame v = true)
    (hok : s.capWrite q c (seqBlockLen + vatBlockLen * (s.partOrder q).idxOf v) (s.vatBlock v (Tab.get 0 c.vstats v)) = (u, .ok)) :
    let rest := { c with todo := c.todo.filter (· ≠ v) }
    let t := (u.vatReady v).setCap q (some rest)
    exec (.captureReadoutComplete v true) s = .next (if rest.todo.isEmpty then t.capDone q rest else t) := by
  subst hq
  have hcmp : ((s.vat v).chk && !(true && s.pairSame v)) = false := by simpa using hsame
  change execCaptureReadoutComplete v true s = _
  simp only [execCaptureReadoutComplete, hc, he, hs, hcmp, hok, List.contains_iff_mem.mpr hv, Bool.not_true, Bool.or_false, Bool.false_eq_true, if_false]

theorem exec_captureReadoutComplete_of_differing (hchk : (s.vat v).chk = true) (hd : s.pairSame v = false) :
    exec (.captureReadoutComplete v true) s = .next (s.capCompare q v c) := by
  subst hq
  change execCaptureReadoutComplete v true s = _
  simp [execCaptureReadoutComplete, hc, he, hs, hv, hchk, hd]

end

/-! ### Clearing (R433) -/

/-- A cleared Vat is no longer to be cleared, so clearing the Vats of a list that are to be cleared clears each once. -/
theorem State.vat_foldl_cleared (k : Nat) (vs : List Nat) (s : State) :
    (vs.foldl (fun t v => if (t.vat v).clearing then t.setVat v (t.vat v).cleared else t) s).vat k
      = if k ∈ vs ∧ (s.vat k).clearing = true then (s.vat k).cleared else s.vat k := by
  induction vs generalizing s with
  | nil => simp
  | cons v vs ih =>
    rw [List.foldl_cons, ih]
    by_cases hk : k = v
    · subst hk
      cases hc : (s.vat k).clearing <;> simp [hc, Vat.cleared]
    · have hkeep : (if (s.vat v).clearing then s.setVat v (s.vat v).cleared else s).vat k = s.vat k := by
        split
        · exact s.vat_setVat_ne v k _ hk
        · rfl
      simp [hkeep, hk]

theorem exec_vatClearComplete {s : State} (chip : Nat) (hs : s.moduleStopped = false) :
    ∃ t, exec (.vatClearComplete chip) s = .next t
      ∧ ∀ k, t.vat k = if 64 * chip ≤ k ∧ k < 64 * chip + 64 ∧ (s.vat k).clearing = true then (s.vat k).cleared else s.vat k := by
  refine ⟨_, congrArg Host.Outcome.next (s.live_of_running _ hs), fun k => ?_⟩
  rw [State.vat_foldl_cleared]
  exact if_congr (by rw [mem_rangeFrom, and_assoc]) rfl rfl

/-! ### A switch (R487, R488, R491) -/

section
variable {s : State} {q : Nat}

theorem exec_partitionSwitch {ph : Nat} (hs : s.moduleStopped = false) (hu : (s.sq q).used = true) (ht : s.time.atEpoch = true) (hc : s.cap q = none)
    (hn : s.nextPart q = some ph) (hw : s.hasArrWork (s.sq q).ph = false) : exec (.partitionSwitch q ph) s = .next (s.beginSwitch q ph) := by
  have hdue : s.switchDue q = true := by simp [State.switchDue, hu, ht, hs, hc, hw]
  change execPartitionSwitch q ph s = _
  simp [execPartitionSwitch, hdue, hn]

theorem State.part_setCap (x : Option Capture) (p : Nat) : (s.setCap q x).part p = s.part p := rfl

/-- Partition ph reapplied on sequencer q as its capture ends; what the handle kept of it is given up. -/
def State.reapplied (s : State) (q ph : Nat) (f : Option Nat) : State × Bool :=
  ((s.setCap q none).setPart ph { s.part ph with kept := {}, saved := false, saveValid := false }).reapply q ph f

/-- The number of a restore names its sequencer, and from 16 on the section of a hardware fault. -/
theorem restoreFault_eq (hq : q < 16) (f : Nat) : (if q + 16 * f < 16 then none else some ((q + 16 * f) / 16 - 1)) = if f = 0 then none else some (f - 1) := by
  have hdiv : (q + 16 * f) / 16 = f := by omega
  rw [hdiv]
  exact if_congr (by omega) rfl rfl

theorem exec_partitionRestore_of_unsaved {c : Capture} (f : Nat) (hs : s.moduleStopped = false) (hc : s.cap q = some c) (hby : c.by_ = 2) (he : c.edge = true)
    (htodo : c.todo = []) (hvs : s.partVats q = []) (hsaved : (s.part c.mb).saved = false) (hq : q < 16)
    (hfree : ((s.part c.mb).image.isEmpty || (s.imageRules (s.part c.mb).image).isSome || (s.imageBusy (s.part c.mb).image [q]).isNone) = true) :
    let r := s.reapplied q c.mb (if f = 0 then none else some (f - 1))
    exec (.partitionRestore (q + 16 * f)) s = .next (if r.2 then r.1 else r.1.jobLost q (s.part c.mb).kept) := by
  intro r
  have hmod : (q + 16 * f) % 16 = q := by omega
  have hgo : (!(s.part c.mb).image.isEmpty && (s.imageRules (s.part c.mb).image).isNone && (s.imageBusy (s.part c.mb).image [q]).isSome) = false := by
    simpa [or_assoc, imp_iff_not_or, Option.isSome_iff_ne_none] using hfree
  have hr : s.reapplied q c.mb (if f = 0 then none else some (f - 1)) = r := rfl
  clear_value r
  rw [State.reapplied] at hr
  change execPartitionRestore (q + 16 * f) s = _
  simp only [execPartitionRestore, hmod, restoreFault_eq hq, hc, hby, he, htodo, hs, hgo, hvs, hsaved, State.part_setCap, hr, ne_eq, not_true_eq_false, decide_false,
    List.isEmpty_nil, List.filter_nil, List.foldl_nil, Bool.not_true, Bool.or_false, Bool.false_and, Bool.false_eq_true, if_false, Bool.not_false, if_true]
  obtain ⟨t, _ | _⟩ := r <;> rfl

end

/-- Settles O38, command by command. The VSTAT of the edge in a Vat's block (log entry 71) and the end of a job whose stored image is refused (log entry 165)
are the model's choices. -/
theorem capturesAndSwitches : Obligations.CapturesAndSwitches := by
  unfold Obligations.CapturesAndSwitches
  intro s u q v ph chip f c x vs caps e held rest
  refine ⟨exec_captureEdge, exec_captureReadoutComplete_of_same, exec_captureReadoutComplete_of_differing, exec_vatClearComplete chip, exec_partitionSwitch, ?_⟩
  intro hs hc hvs hsaved hq p r hfree
  have hout := exec_partitionRestore_of_unsaved f hs hc rfl rfl rfl hvs hsaved hq hfree
  exact hout

end Sys2Proof.Machine
end

section
/-! PROOFS. The words of array instructions (09 R450, R456 to R458): which word given fields spell, and that a word with its sequencer and the instruction
it names determine each other. -/

namespace Sys2Proof

/-! ### What the parts of a concatenation are (02 R77) -/

section
variable {k m n s : Nat} {w : BitVec k}

theorem append_eq_extractLsb'_iff {x : BitVec m} {y : BitVec n} :
    x ++ y = w.extractLsb' s (m + n) ↔ x = w.extractLsb' (s + n) m ∧ y = w.extractLsb' s n := by
  rw [← BitVec.extractLsb'_append_extractLsb'_eq_extractLsb' (x := w) (rfl : s + n = s + n)]
  refine ⟨fun h => ⟨?high, ?low⟩, fun ⟨hx, hy⟩ => by rw [hx, hy]⟩
  case high => simpa only [BitVec.extractLsb'_append_eq_left] using congrArg (BitVec.extractLsb' n m) h
  case low => simpa only [BitVec.extractLsb'_append_eq_right] using congrArg (BitVec.extractLsb' 0 n) h

theorem ofBool_eq_extractLsb'_iff {b : Bool} : BitVec.ofBool b = w.extractLsb' s 1 ↔ b = w.getLsbD s := by
  have hbit : w.extractLsb' s 1 = BitVec.ofBool (w.getLsbD s) := by
    ext i hi
    obtain rfl : i = 0 := by omega
    simp
  rw [hbit, BitVec.ofBool_eq_iff_eq]

end

/-! ### A word and its fields (R450, R456) -/

theorem wordA_eq_iff {c : BitVec 4} {p : BitVec 6} {o : SqOp} {w : AWord} : wordA c p o = w ↔ c = w.cls ∧ p = w.op ∧ o = w.fields := by
  obtain ⟨d, a, b, z, imm⟩ := o
  have hparts : c ++ p ++ d ++ a ++ b ++ z ++ imm = w.extractLsb' 0 (4 + 6 + 4 + 4 + 4 + 10 + 32)
      ↔ c = w.cls ∧ p = w.op ∧ (⟨d, a, b, z, imm⟩ : SqOp) = w.fields := by
    rw [AWord.fields, SqOp.mk.injEq]
    repeat rw [append_eq_extractLsb'_iff]
    simp only [and_assoc]
    rfl
  rwa [BitVec.extractLsb'_eq_self] at hparts

theorem wordCell_eq_iff {c : CellOp} {w : AWord} : wordCell c = w ↔ w.cls = 0 ∧ c = w.cell := by
  obtain ⟨slot, i0, i1, i2, rd, cd, gang, pr, pw, rix, wix, gle, gln, ors, z⟩ := c
  have hparts : wordCell ⟨slot, i0, i1, i2, rd, cd, gang, pr, pw, rix, wix, gle, gln, ors, z⟩
        = w.extractLsb' 0 (4 + 4 + 5 + 5 + 5 + 3 + 1 + 1 + 10 + 10 + 4 + 4 + 1 + 3 + 3 + 1)
      ↔ 0 = w.cls ∧ (⟨slot, i0, i1, i2, rd, cd, gang, pr, pw, rix, wix, gle, gln, ors, z⟩ : CellOp) = w.cell := by
    rw [AWord.cell, CellOp.mk.injEq, wordCell]
    repeat rw [append_eq_extractLsb'_iff]
    simp only [ofBool_eq_extractLsb'_iff, and_assoc]
    rfl
  rwa [BitVec.extractLsb'_eq_self, eq_comm (a := 0)] at hparts

section
variable (c : BitVec 4) (p : BitVec 6) (o : SqOp)

theorem wordA_parts : c = (wordA c p o).cls ∧ p = (wordA c p o).op ∧ o = (wordA c p o).fields := wordA_eq_iff.mp rfl
@[simp] theorem wordA_cls : (wordA c p o).cls = c := (wordA_parts c p o).left.symm
@[simp] theorem wordA_op : (wordA c p o).op = p := (wordA_parts c p o).right.left.symm
@[simp] theorem wordA_fields : (wordA c p o).fields = o := (wordA_parts c p o).right.right.symm

end

@[simp] theorem wordCell_cls (c : CellOp) : (wordCell c).cls = 0 := (wordCell_eq_iff.mp rfl).left
@[simp] theorem wordCell_cell (c : CellOp) : (wordCell c).cell = c := (wordCell_eq_iff.mp rfl).right.symm

theorem AWord.eq_wordA {w : AWord} {c : BitVec 4} {p : BitVec 6} (hc : w.cls = c) (hp : w.op = p) : wordA c p w.fields = w :=
  wordA_eq_iff.mpr ⟨hc.symm, hp.symm, rfl⟩
theorem AWord.eq_wordCell {w : AWord} (hc : w.cls = 0) : wordCell w.cell = w := wordCell_eq_iff.mpr ⟨hc, rfl⟩

/-! ### Decoding and encoding (R457, R458) -/

/-- The word of an array instruction names it. -/
theorem decodeArray_of_encodeArray {i : Instr} {q : Nat} {w : AWord} (h : encodeArray i = some (q, w)) : decodeArray q w = some i := by
  cases i
  case cell =>
    cases h
    rw [decodeArray, wordCell_cls, wordCell_cell]
    rfl
  case sadd | ssub | sand | sor | sxor | sshl | sshr | saddi | sli | slih
     | sqBr | bz | bnz | sqBor | sqBnor | loop
     | xfer | xwait | lockw | ulockw
     | glset | orrd
     | sbset | sbclr | sbld | sbwait
     | sqNop | done | note | capture =>
    cases h
    rw [decodeArray, wordA_cls, wordA_op, wordA_fields]
    rfl
  -- no other command has an array word
  all_goals exact nomatch h

/-- The instruction that an array word names has that word, class by class. -/
theorem encodeArray_of_decodeArray {i : Instr} {q : Nat} {w : AWord} (h : decodeArray q w = some i) : encodeArray i = some (q, w) := by
  unfold decodeArray at h
  dsimp only at h
  split at h
  -- CLASS 0
  case h_1 =>
    cases h
    exact congrArg (fun u => some (q, u)) (AWord.eq_wordCell ‹_›)
  -- CLASS 1 to 6, whose OP names the instruction
  case h_2 | h_3 | h_4 | h_5 | h_6 | h_7 =>
    split at h <;> cases h <;> exact congrArg (fun u => some (q, u)) (AWord.eq_wordA ‹_› ‹_›)
  -- an undefined CLASS
  case h_8 => cases h

/-- Settles O58: one direction goes along the instructions, the other along the decoder's table. -/
theorem arrayWordsAndInstructionsAgree : Obligations.ArrayWordsAndInstructionsAgree :=
  fun _ _ _ => ⟨decodeArray_of_encodeArray, encodeArray_of_decodeArray⟩

end Sys2Proof
end

section
/-! PROOFS. The instructions of a sequencer (09 R445 to R471): how one that is legal issues and what follows it, then what those of each class give. -/

namespace Sys2Proof.Machine

/-! ### The next instruction (R462 to R464) -/

theorem Sequencer.after_of_inner_none {x : Sequencer} (h : x.inner x.pc = none) (k : Nat) : x.after (k + 1) = { x with pc := x.pc + 1 } := by
  rw [Sequencer.after, h]

theorem State.sqPlace_of_lt {s : State} {q : Nat} {x : Sequencer} (h : x.pc < 8192) : s.sqPlace q x = s.setSq q { x with st := .run, waits := .none } :=
  if_neg h.not_ge

section
variable (x : Sequencer) (d : Nat) (w : Word)

@[simp] theorem Sequencer.setSr_pc : (x.setSr d w).pc = x.pc := by
  unfold Sequencer.setSr
  split <;> rfl

@[simp] theorem Sequencer.setSr_inner (p : Nat) : (x.setSr d w).inner p = x.inner p := by
  unfold Sequencer.setSr
  split <;> rfl

end

/-! ### The checks of the fields (R456 to R458) -/

/-- A legal instruction: a field that is not used is 0. -/
theorem opBad_of_legal {o : SqOp} {d a b : Bool} (hz : o.z = 0) (hd : d = true ∨ o.d = 0) (ha : a = true ∨ o.a = 0) (hb : b = true ∨ o.b = 0) :
    opBad o d a b = false := by
  simp only [opBad, Bool.or_eq_false_iff, Bool.and_eq_false_iff, Bool.not_eq_false', decide_eq_false_iff_not, not_not]
  exact ⟨⟨⟨hz, hd⟩, ha⟩, hb⟩

section
variable {o : SqOp} (ht : o.imm.toNat < 8192)
include ht

theorem opTarget_of_lt : opTarget o = o.imm.toNat := Nat.mod_eq_of_lt ht
theorem opTargetOnly_of_lt : opTargetOnly o = true := decide_eq_true ht

end

section
variable {s : State} {q : Nat} (hg : s.sqGoes q)
include hg

/-! ### Issue (R446, R457, R459) -/

theorem State.sqGoes.waits_eq : (s.sq q).waits = .none := by
  obtain ⟨hready, -⟩ := hg
  simp only [State.sqReady, Bool.and_eq_true, decide_eq_true_eq] at hready
  obtain ⟨⟨⟨⟨-, hwaits⟩, -⟩, -⟩, -⟩ := hready
  exact hwaits

/-- A legal instruction acts. -/
theorem State.sqGoes.issue {illegal : Bool} (hi : illegal = false) (act : Sequencer → State) : s.sqIssue q illegal act = act (s.sq q) := by
  obtain ⟨hready, hdef, -⟩ := hg
  simp [State.sqIssue, hready, hdef, hi]

section
variable {y : Sequencer} (hpc : y.pc = (s.sq q).pc) (hl : y.inner (s.sq q).pc = (s.sq q).inner (s.sq q).pc)
include hpc hl

/-- No loop ends at pc: the next index follows. -/
theorem State.sqGoes.after_eq : y.after 5 = { y with pc := (s.sq q).pc + 1 } := by
  obtain ⟨-, -, hinner, -⟩ := hg
  rw [Sequencer.after_of_inner_none (by rw [hpc, hl, hinner]), hpc]

/-- The next index is a place in the instruction memory. -/
theorem State.sqGoes.sqPlace_after (t : State) : t.sqPlace q (y.after 5) = t.setSq q { y with pc := (s.sq q).pc + 1, st := .run, waits := .none } := by
  obtain ⟨-, -, -, hlt⟩ := id hg
  rw [hg.after_eq hpc hl]
  exact State.sqPlace_of_lt (Nat.succ_lt_succ hlt)

/-- One cycle passes, and the next instruction follows. -/
theorem State.sqGoes.sqOn_eq (t : State) (g : BitVec 8) : t.sqOn q y 1 g = t.setSq q ((s.sq q).stepped y g) := by
  have hplace := hg.sqPlace_after (y := ({ y with lastPc := y.pc } : Sequencer).cycles 1 g) hpc hl t
  rw [State.sqOn, hplace, hpc]
  rfl

end

/-- A legal instruction of one cycle; most leave pc and the loops as they are. -/
theorem State.sqGoes.exec_sqOn {c : Instr} {illegal : Bool} {act : Sequencer → State} {t : State} {y : Sequencer} {g : BitVec 8}
    (hc : exec c s = .next (s.sqIssue q illegal act)) (hi : illegal = false) (hact : act (s.sq q) = t.sqOn q y 1 g)
    (hpc : y.pc = (s.sq q).pc := by rfl) (hl : y.inner (s.sq q).pc = (s.sq q).inner (s.sq q).pc := by rfl) :
    exec c s = .next (t.setSq q ((s.sq q).stepped y g)) := by
  rw [hc, hg.issue hi, hact, hg.sqOn_eq hpc hl]

/-- A legal instruction of one cycle that writes a scalar register. -/
theorem State.sqGoes.exec_setSr {c : Instr} {illegal : Bool} {act : Sequencer → State} {d : Nat} {w : Word} (hc : exec c s = .next (s.sqIssue q illegal act))
    (hi : illegal = false) (hact : act (s.sq q) = s.sqOn q ((s.sq q).setSr d w) 1 (s.sq q).gl) :
    exec c s = .next (s.setSq q ((s.sq q).stepped ((s.sq q).setSr d w) (s.sq q).gl)) :=
  hg.exec_sqOn hc hi hact (Sequencer.setSr_pc _ _ _) (Sequencer.setSr_inner _ _ _ _)

/-! ### Branches (R460, R461) -/

section
variable {o : SqOp} (ht : o.imm.toNat < 8192)

omit hg in
include ht in
theorem State.sqBranch_of_taken : s.sqBranch q o (s.sq q) true = s.sqJump q (s.sq q) o.imm.toNat := by
  rw [State.sqBranch, if_pos rfl, opTarget_of_lt ht]

theorem State.sqGoes.sqBranch_of_not_taken : s.sqBranch q o (s.sq q) false = s.setSq q ((s.sq q).stepped (s.sq q) (s.sq q).gl) :=
  hg.sqOn_eq rfl rfl s _

variable (hz : o.z = 0) (hd : o.d = 0) (hb : o.b = 0)
include ht hz hd hb

section
variable {c : Instr} {a : Bool} {taken : Sequencer → Bool} (ha : a = true ∨ o.a = 0)
  (hc : exec c s = .next (s.sqIssue q (opBad o false a false || !opTargetOnly o) (fun x => s.sqBranch q o x (taken x))))
include ha hc

/-- A legal branch that its issue resolves. -/
theorem State.sqGoes.exec_sqBranch : exec c s = .next (s.sqBranch q o (s.sq q) (taken (s.sq q))) := by
  have hlegal : (opBad o false a false || !opTargetOnly o) = false := by
    rw [opBad_of_legal hz (.inr hd) ha (.inr hb), opTargetOnly_of_lt ht]
    rfl
  rw [hc, hg.issue hlegal]

theorem State.sqGoes.exec_of_taken (hv : taken (s.sq q) = true) : exec c s = .next (s.sqJump q (s.sq q) o.imm.toNat) := by
  rw [hg.exec_sqBranch ht hz hd hb ha hc, hv, State.sqBranch_of_taken ht]

theorem State.sqGoes.exec_of_not_taken (hv : taken (s.sq q) = false) : exec c s = .next (s.setSq q ((s.sq q).stepped (s.sq q) (s.sq q).gl)) := by
  rw [hg.exec_sqBranch ht hz hd hb ha hc, hv, hg.sqBranch_of_not_taken]

end

section
variable (ha : o.a = 0) (hor : (s.sq q).orHas = true) (inv : Bool)
include ha hor

theorem State.sqGoes.sqOrBranch_eq :
    s.sqOrBranch q o inv = if 0 < (s.sq q).orLeft then s.sqWait q (.bor inv o.imm.toNat) else s.sqBranch q o (s.sq q) ((s.sq q).orVal != inv) := by
  have hlegal : (opBad o false false false || !opTargetOnly o || !(s.sq q).orHas) = false := by
    rw [opBad_of_legal hz (.inr hd) (.inr ha) (.inr hb), opTargetOnly_of_lt ht, hor]
    rfl
  refine (hg.issue hlegal _).trans ?_
  rw [← opTarget_of_lt ht]
  rfl

theorem State.sqGoes.sqOrBranch_of_waiting (hleft : 0 < (s.sq q).orLeft) : s.sqOrBranch q o inv = s.sqWait q (.bor inv o.imm.toNat) :=
  (hg.sqOrBranch_eq ht hz hd hb ha hor inv).trans (if_pos hleft)

theorem State.sqGoes.sqOrBranch_of_readable (hleft : (s.sq q).orLeft = 0) : s.sqOrBranch q o inv = s.sqBranch q o (s.sq q) ((s.sq q).orVal != inv) :=
  (hg.sqOrBranch_eq ht hz hd hb ha hor inv).trans (if_neg hleft.not_gt)

end

end

/-! ### LOOP (R462) -/

/-- The sequencer with its counter n at the head of a body. -/
def Sequencer.counting (x : Sequencer) (n cnt : Nat) : Sequencer := { x with lc := Tab.set 0 x.lc n cnt, ix := Tab.set 0 x.ix n 0 }

section
variable {o : SqOp} (ht : o.imm.toNat < 8192) (hz : o.z = 0) (hb : o.b = 0) (hn : o.d.toNat < 4) (ha : o.a ≠ 0) (hoff : (s.sq q).loopOn o.d.toNat = false)
include ht hz hb hn ha hoff

omit hg in
/-- A LOOP whose count stands in a register, on a counter whose loop is not active, is legal (R462, R463). -/
theorem State.loop_legal :
    (opBad o true true false || decide (4 ≤ o.d.toNat) || (if o.a = 0 then decide (o.imm.toNat / 2 ^ 13 % 8 ≠ 0) else !opTargetOnly o)
      || (s.sq q).loopOn o.d.toNat) = false := by
  rw [opBad_of_legal hz (.inl rfl) (.inl rfl) (.inr hb), decide_eq_false hn.not_ge, if_neg ha, opTargetOnly_of_lt ht, hoff]
  rfl

theorem exec_loop_of_zero (hc : ((s.sq q).sr o.a.toNat).toNat % 2 ^ 16 = 0) :
    exec (.loop q o) s = .next (s.sqJump q ((s.sq q).counting o.d.toNat (((s.sq q).sr o.a.toNat).toNat % 2 ^ 16)) (o.imm.toNat + 1)) := by
  refine congrArg _ ((hg.issue (State.loop_legal ht hz hb hn ha hoff) _).trans ?_)
  rw [if_neg ha, if_pos hc, opTarget_of_lt ht]
  rfl

theorem exec_loop_of_ne_zero (hc : ((s.sq q).sr o.a.toNat).toNat % 2 ^ 16 ≠ 0) :
    exec (.loop q o) s = .next (s.setSq q
      { (s.sq q).stepped ((s.sq q).counting o.d.toNat (((s.sq q).sr o.a.toNat).toNat % 2 ^ 16)) (s.sq q).gl with
        lfirst := Tab.set 0 (s.sq q).lfirst o.d.toNat ((s.sq q).pc + 1), lend := Tab.set 0 (s.sq q).lend o.d.toNat o.imm.toNat,
        lact := Tab.set false (s.sq q).lact o.d.toNat true }) := by
  obtain ⟨-, -, -, hlt⟩ := id hg
  refine congrArg _ ((hg.issue (State.loop_legal ht hz hb hn ha hoff) _).trans ?_)
  have hnext := hg.after_eq
    (y := ({ (s.sq q).counting o.d.toNat (((s.sq q).sr o.a.toNat).toNat % 2 ^ 16) with lastPc := (s.sq q).pc } : Sequencer).cycles 1 (s.sq q).gl) rfl rfl
  rw [Sequencer.counting] at hnext
  rw [if_neg ha, if_neg hc, opTarget_of_lt ht]
  dsimp only
  rw [hnext]
  exact State.sqPlace_of_lt (Nat.succ_lt_succ hlt)

end

/-! ### CELL (R394, R401, R450, R461) -/

/-- The OR result of CELL instruction k, latched in z as the sequencer x issues it. -/
def Sequencer.latching (x : Sequencer) (k : CellOp) (v : Bool) (z : Sequencer) : Sequencer :=
  if k.ors = 0 then z else { z with orHas := true, orVal := v, orLeft := x.lat - 1 }

section
variable {k : CellOp} (hk : CellOp.illegal k = false)
include hk

theorem exec_cell_of_same (hd : (s.cellCycle q k).differs = []) :
    exec (.cell q k) s = .next ((s.cellCycle q k).st.setSq q
      ((s.sq q).latching k (s.cellCycle q k).or_ ((s.sq q).stepped ((s.cellCycle q k).st.sq q) (s.cellCycle q k).drv))) := by
  obtain ⟨f, hf⟩ := s.cellCycle_sq q k
  refine congrArg _ ((hg.issue hk _).trans ?_)
  dsimp only
  rw [hd, hf]
  refine (hg.sqPlace_after ?pc ?loops _).trans ?_
  case pc => split <;> rfl
  case loops => split <;> rfl
  unfold Sequencer.latching
  split <;> rfl

theorem exec_cell_of_differing {v : Nat} {vs : List Nat} (hd : (s.cellCycle q k).differs = v :: vs) :
    exec (.cell q k) s = .next (vs.foldl (fun t w => t.arrayReport q .compare w 0 0)
      (((s.cellCycle q k).st.setSq q ((s.sq q).latching k (s.cellCycle q k).or_
        (({ (s.cellCycle q k).st.sq q with lastPc := ((s.cellCycle q k).st.sq q).pc } : Sequencer).cycles 1 (s.cellCycle q k).drv))).arrayFail q .compare v 0 0 255)) := by
  obtain ⟨f, hf⟩ := s.cellCycle_sq q k
  refine congrArg _ ((hg.issue hk _).trans ?_)
  dsimp only
  rw [hd, hf]
  rfl

end

/-! ### Transfers and captures (R465, R470, R471) -/

section
variable {o : SqOp} (hz : o.z = 0) (hd : o.d = 0) (hb : o.b = 0)
include hz hd hb

/-- XFER, which no earlier instruction keeps waiting. -/
theorem exec_xfer_of_goes :
    exec (.xfer q o) s = .next (if (s.sq q).xfer.isSome then s.sqWait q (.xfer (o.imm.toNat % 256) ((s.sq q).sr o.a.toNat).toNat)
      else s.startXfer q (o.imm.toNat % 256) ((s.sq q).sr o.a.toNat).toNat) := by
  change execXfer q o s = _
  rw [execXfer, hg.waits_eq]
  exact congrArg _ (hg.issue (opBad_of_legal hz (.inr hd) (.inl rfl) (.inr hb)) _)

theorem exec_capture_of_aligned (hc : s.cap q = none) (ha : ((s.sq q).sr o.a.toNat).toNat % 4096 = 0) :
    exec (.capture q o) s = .next ((s.setSq q { (s.sq q).stepped (s.sq q) (s.sq q).gl with waits := .capture }).setCap q
      (some { addr := ((s.sq q).sr o.a.toNat).toNat, by_ := 0, mb := 0, pre := .run, edge := false, todo := [], failed := false })) := by
  obtain ⟨-, -, -, hlt⟩ := id hg
  have hnext := hg.after_eq (y := ({ s.sq q with lastPc := (s.sq q).pc } : Sequencer).cycles 1 (s.sq q).gl) rfl rfl
  have hplace : ((s.sq q).pc + 1) % 8192 = (s.sq q).pc + 1 := Nat.mod_eq_of_lt (Nat.succ_lt_succ hlt)
  refine congrArg _ ((hg.issue (opBad_of_legal hz (.inr hd) (.inl rfl) (.inr hb)) _).trans ?_)
  rw [hc, Option.isSome_none, if_neg Bool.false_ne_true]
  dsimp only
  rw [if_neg (not_not_intro ha), hnext, hplace]
  rfl

end

end

/-- Settles O32: the operations of two registers, then SADDI, SLI, SLIH and NOP. -/
theorem sequencerScalarResults : Obligations.SequencerScalarResults := by
  unfold Obligations.SequencerScalarResults
  intro s q o x a b i gives hg hz
  have hlegal : opBad o true true true = false := opBad_of_legal hz (.inl rfl) (.inl rfl) (.inl rfl)
  have ofTwo {c : Instr} {act : Sequencer → State} {w : Word} (hc : exec c s = .next (s.sqIssue q (opBad o true true true) act))
      (hact : act x = s.sqOn q (x.setSr o.d.toNat w) 1 x.gl) : gives c w := hg.exec_setSr hc hlegal hact
  refine ⟨ofTwo rfl rfl, ofTwo rfl rfl, ofTwo rfl rfl, ofTwo rfl rfl, ofTwo rfl rfl, ofTwo rfl rfl, ofTwo rfl rfl,
    fun hb => ?addImmediate, fun ha hb => ?immediates, fun hd ha hb => ?nop⟩
  case addImmediate => exact hg.exec_setSr rfl (opBad_of_legal hz (.inl rfl) (.inl rfl) (.inr hb)) rfl
  case immediates =>
    have hlegal : opBad o true false false = false := opBad_of_legal hz (.inl rfl) (.inr ha) (.inr hb)
    exact ⟨hg.exec_setSr rfl hlegal rfl, hg.exec_setSr rfl hlegal rfl⟩
  case nop => exact hg.exec_sqOn rfl (opBad_of_legal hz (.inr hd) (.inr ha) (.inr hb)) rfl

/-- Settles O33: the branches by whether they are taken, those on the OR result first by whether it is readable, then LOOP by its count. -/
theorem sequencerBranchesAndLoops : Obligations.SequencerBranchesAndLoops := by
  unfold Obligations.SequencerBranchesAndLoops
  intro s q o x t falls jumps waits hg hz hb ht
  have taken : s.sqBranch q o x true = s.sqJump q x t := State.sqBranch_of_taken ht
  have notTaken : s.sqBranch q o x false = s.setSq q (x.stepped x x.gl) := hg.sqBranch_of_not_taken
  refine ⟨fun hd ha => ⟨?br, ?orWaits, ?orOne, ?orZero⟩, fun hd => ⟨fun h => ?zero, fun h => ?nonzero⟩,
    fun hn ha hoff => ⟨exec_loop_of_zero hg ht hz hb hn ha hoff, exec_loop_of_ne_zero hg ht hz hb hn ha hoff⟩⟩
  case br => exact hg.exec_of_taken ht hz hd hb (.inr ha) rfl rfl
  case orWaits =>
    intro hor hleft
    have hwait (inv : Bool) := hg.sqOrBranch_of_waiting ht hz hd hb ha hor inv hleft
    exact ⟨congrArg _ (hwait false), congrArg _ (hwait true)⟩
  case orOne =>
    intro hor hleft hv
    have hgo (inv : Bool) := hg.sqOrBranch_of_readable ht hz hd hb ha hor inv hleft
    rw [hv] at hgo
    exact ⟨congrArg _ ((hgo false).trans taken), congrArg _ ((hgo true).trans notTaken)⟩
  case orZero =>
    intro hor hleft hv
    have hgo (inv : Bool) := hg.sqOrBranch_of_readable ht hz hd hb ha hor inv hleft
    rw [hv] at hgo
    exact ⟨congrArg _ ((hgo false).trans notTaken), congrArg _ ((hgo true).trans taken)⟩
  case zero =>
    exact ⟨hg.exec_of_taken ht hz hd hb (.inl rfl) rfl (decide_eq_true h),
      hg.exec_of_not_taken ht hz hd hb (.inl rfl) rfl (decide_eq_false (not_not_intro h))⟩
  case nonzero =>
    exact ⟨hg.exec_of_not_taken ht hz hd hb (.inl rfl) rfl (decide_eq_false h), hg.exec_of_taken ht hz hd hb (.inl rfl) rfl (decide_eq_true h)⟩

/-- Settles O34: CELL by whether a pair differs, then the instructions of classes 3 to 5. -/
theorem sequencerArrayInstructions : Obligations.SequencerArrayInstructions := by
  unfold Obligations.SequencerArrayInstructions
  intro s q o k ba x i gives bit_ hg
  refine ⟨fun hk => ⟨?kept, s.cellCycle_quiet q k, exec_cell_of_same hg hk, fun v vs => exec_cell_of_differing hg hk⟩,
    fun hz hb => ⟨fun ha => ?locks, ?glset, fun ha hor hleft => ?orrd, fun hd hbit => ?bits, fun hbit => ?sbld⟩⟩
  case kept =>
    obtain ⟨f, hf⟩ := s.cellCycle_sq q k
    change (s.cellCycle q k).st.sq q = { s.sq q with xfer := ((s.cellCycle q k).st.sq q).xfer }
    rw [hf]
  case locks =>
    have hlegal : opBad o true false false = false := opBad_of_legal hz (.inl rfl) (.inr ha) (.inr hb)
    exact ⟨hg.exec_sqOn rfl hlegal rfl, hg.exec_sqOn rfl hlegal rfl⟩
  case glset => exact hg.exec_sqOn rfl (opBad_of_legal hz (.inl rfl) (.inl rfl) (.inr hb)) rfl
  case orrd =>
    have hlegal : (opBad o true false false || !(s.sq q).orHas) = false := by
      rw [opBad_of_legal hz (.inl rfl) (.inr ha) (.inr hb), hor]
      rfl
    exact hg.exec_setSr rfl hlegal (if_neg hleft.not_gt)
  case bits =>
    have hlegal : opBad o false true false = false := opBad_of_legal hz (.inr hd) (.inl rfl) (.inr hb)
    have hwrite (v : Bool) : s.sqBitWrite q o v = bit_ v := (hg.issue hlegal _).trans (by rw [hbit])
    refine ⟨congrArg _ (hwrite true), congrArg _ (hwrite false), fun hv => hg.exec_sqOn rfl hlegal ?_⟩
    rw [hbit]
    exact if_pos hv
  case sbld => exact congrArg _ ((hg.issue (opBad_of_legal hz (.inl rfl) (.inl rfl) (.inr hb)) _).trans (by rw [hbit]))

/-- Settles O35: XFER, XWAIT and DONE by whether a transfer is in progress, then NOTE and CAPTURE. -/
theorem sequencerTransfersAndEnds : Obligations.SequencerTransfersAndEnds := by
  unfold Obligations.SequencerTransfersAndEnds
  intro s q o x a idx waits hg hz hb hd
  have hlegal (ha : o.a = 0) : opBad o false false false = false := opBad_of_legal hz (.inr hd) (.inr ha) (.inr hb)
  have idle (hx : x.xfer = none) : ¬ x.xfer.isSome = true := by simp [hx]
  have busy (hx : x.xfer ≠ none) : x.xfer.isSome = true := Option.isSome_iff_ne_none.mpr hx
  refine ⟨fun hx => ?xferStarts, fun hx => ?xferWaits, fun ha hx => ⟨?xwaitGoes, ?doneEnds⟩, fun ha hx => ⟨?xwaitWaits, ?doneWaits⟩, fun ha => ?note,
    exec_capture_of_aligned hg hz hd hb⟩
  case xferStarts => exact (exec_xfer_of_goes hg hz hd hb).trans (congrArg _ (if_neg (idle hx)))
  case xferWaits => exact (exec_xfer_of_goes hg hz hd hb).trans (congrArg _ (if_pos (busy hx)))
  case xwaitGoes => exact hg.exec_sqOn rfl (hlegal ha) (if_neg (idle hx))
  case doneEnds => exact congrArg _ ((hg.issue (hlegal ha) _).trans (if_neg (idle hx)))
  case xwaitWaits => exact congrArg _ ((hg.issue (hlegal ha) _).trans (if_pos (busy hx)))
  case doneWaits => exact congrArg _ ((hg.issue (hlegal ha) _).trans (if_pos (busy hx)))
  case note => exact hg.exec_sqOn rfl (hlegal ha) rfl

end Sys2Proof.Machine
end

section
/-! PROOFS. Channel descriptors (10 R511 to R513, R516, R520, R523, R524, R536): the entry that one is taken into, the refusal of one with a wrong field, and LACK. -/

namespace Sys2Proof.Machine

/-! ### The entry that a descriptor is taken into (R511, R513, R516) -/

/-- Descriptor d of queue pair qp stands in entry l, whose unanswered aborts go on without it (R519); its endpoint's next sequence number has been used. -/
def State.enterLed (t : State) (qp l : Nat) (d : List Byte) : State :=
  let e := t.newLed qp d
  let old := ((t.led l).aborts).map (fun a => ({ lidx := l, ep := (t.led l).ep, path := a.1, sent := a.2 } : Orphan))
  let u := (({ t with chan := { t.chan with orphans := t.chan.orphans ++ old } } : State).setEp e.ep { t.ep e.ep with osn := ((t.ep e.ep).osn + 1) % 2 ^ 32 }).setLed l e
  { u with chan := { u.chan with nextOrd := u.chan.nextOrd + 1 } }

section
variable {s s0 s1 : State} {qp opc l : Nat} {d : List Byte} (h0 : s.skipRefused qp = s0) (hd : s0.headIs qp opc = some d)
  (hroom : s0.ledRoom (s0.qpOwner qp) = true) (hfree : s0.ledFree l = true) (hpaid : s0.spend (s0.qpOwner qp) (chanCharges d) = some s1)
include h0 hd hroom hfree hpaid

theorem State.takeChan_of_chanOk (hok : s0.chanOk (s0.qpOwner qp) d = true) :
    s.takeChan qp opc l = ((s1.headOn qp).enterLed qp l d).startLed l := by
  simp only [State.takeChan, h0, hd, hroom, hfree, hpaid, hok, Bool.not_true, Bool.or_self, Bool.false_eq_true, if_false]
  rfl

/-- A refused descriptor is charged nothing: its completion goes on from the state before the charge (log entry 75). -/
theorem State.takeChan_of_refused (hbad : s0.chanOk (s0.qpOwner qp) d = false) :
    s.takeChan qp opc l = (s0.headOn qp).completeDesc qp d scJobField (refusedExtra d) false := by
  simp only [State.takeChan, h0, hd, hroom, hfree, hpaid, hbad, Bool.not_true, Bool.not_false, Bool.or_self, Bool.false_eq_true, if_false, if_true]

end

/-! ### The commands -/

/-- The commands that take a channel descriptor of queue pair qp into entry l, each with the opcode of its descriptors. -/
def chanTakes (qp l : Nat) : List (Instr × Nat) :=
  [(.nvread qp l, 0x10), (.nvwrite qp l, 0x11), (.nvflush qp l, 0x12), (.nvzero qp l, 0x13), (.nvdsm qp l, 0x14), (.nvcmd qp l, 0x15), (.scmd qp l, 0x18),
    (.nsend qp l, 0x1A), (.nrecv qp l, 0x1B)]

theorem exec_of_mem_chanTakes (s : State) {qp l opc : Nat} {c : Instr} (hc : (c, opc) ∈ chanTakes qp l) : exec c s = .next (s.takeChan qp opc l) := by
  simp only [chanTakes, List.mem_cons, List.not_mem_nil, or_false, Prod.mk.injEq] at hc
  rcases hc with ⟨rfl, rfl⟩ | ⟨rfl, rfl⟩ | ⟨rfl, rfl⟩ | ⟨rfl, rfl⟩ | ⟨rfl, rfl⟩ | ⟨rfl, rfl⟩ | ⟨rfl, rfl⟩ | ⟨rfl, rfl⟩ | ⟨rfl, rfl⟩ <;> rfl

/-- LACK by the owner of an entry whose outcome is unknown retires it (R523, R536). -/
theorem exec_lack_of_unknown {s s0 s1 : State} {qp : Nat} {d : List Byte} (h0 : s.skipRefused qp = s0) (hd : s0.headIs qp 0x1F = some d)
    (hpaid : s0.spend (s0.qpOwner qp) [(clsChop, 1)] = some s1) (hz : zeroAt d 16 8 = true) (hz2 : zeroAt d 32 32 = true) (hl : dF d 8 8 < 262144)
    (hst : ((s1.headOn qp).led (dF d 8 8)).st = .complete) (hun : ((s1.headOn qp).led (dF d 8 8)).status = scOutcomeUnknown)
    (hins : ((s1.headOn qp).led (dF d 8 8)).ins = s0.qpOwner qp) :
    exec (.lack qp) s = .next (((s1.headOn qp).setLed (dF d 8 8) { (s1.headOn qp).led (dF d 8 8) with st := .retired }).completeDesc qp d scOk
      (leBytes 4 (dF d 8 8) ++ List.replicate 12 0) false) := by
  have hmod : dF d 8 8 % 2 ^ 18 = dF d 8 8 := Nat.mod_eq_of_lt hl
  change execLack qp s = _
  simp only [execLack, h0, hd, hpaid, hz, hz2, hl, hst, hun, hins, hmod, decide_true, Bool.and_self, if_true]

/-- Settles O39: a descriptor that is taken, one that is refused, and LACK. That a refused descriptor is charged nothing (log entry 75) is the model's choice. -/
theorem channelOperationsEnterTheLedger : Obligations.ChannelOperationsEnterTheLedger := by
  unfold Obligations.ChannelOperationsEnterTheLedger
  intro s s1 qp l d c opc s0 i t e old taken
  refine ⟨fun hc hd hroom hfree hpaid => ⟨fun hok => ⟨?taken, rfl, rfl, rfl, rfl, rfl, rfl⟩, fun hbad => ?refused⟩, exec_lack_of_unknown rfl⟩
  case taken => exact (exec_of_mem_chanTakes s hc).trans (congrArg _ (State.takeChan_of_chanOk rfl hd hroom hfree hpaid hok))
  case refused => exact (exec_of_mem_chanTakes s hc).trans (congrArg _ (State.takeChan_of_refused rfl hd hroom hfree hpaid hbad))

end Sys2Proof.Machine
end

section
/-! PROOFS. Arrivals from targets and networks (10 R510, R513, R514, R520, R525, R529 to R531, R533; 12 R604): what an event of a ledger entry, a unit in the frame
buffer and a PCIe function's inbound request do. -/

namespace Sys2Proof.Machine

section
variable {s : State} {l : Nat}

/-! ### The reading of an entry, and room for a unit (R515, R531) -/

theorem State.ledRead_of_poison (f : State) (ho : (s.led l).isOpen = true) (hp : s.ledPoison l = true) : s.ledRead l f = s.ledUe l := by
  simp [State.ledRead, ho, hp]
theorem State.ledRead_of_readable (f : State) (hp : s.ledPoison l = false) : s.ledRead l f = f := by
  simp [State.ledRead, hp]

theorem State.receive_of_room {lp : Nat} {i : AgreedIn} {t : State} (hroom : s.bufferRoom lp (s.heldUnit i).2 = true) (hp : s.dpx.st ≠ .paired) :
    s.receive lp i t = t := (if_pos hroom).trans (s.agree_of_not_paired i t hp)
theorem State.receive_of_full {lp : Nat} {i : AgreedIn} {t : State} (hroom : s.bufferRoom lp (s.heldUnit i).2 = false)
    (hm : (s.group (lp / 8)).mode ≠ 3) : s.receive lp i t = s := by
  rw [State.receive, if_neg (by simp [hroom]), if_pos hm]

/-! ### What each arrival does with an entry that can be read (R513, R514, R520, R529, R530) -/

section
variable {x : BitVec 32} {off : Nat} {bs : List Byte} {ps : BitVec 16} {dw : BitVec 32}

theorem State.doDataUnit_of_damaged : s.doDataUnit l x off bs false = s.countDiscard := rfl

section
variable (hstale : s.staleFor l x = true)
include hstale

theorem State.doTargetAccept_of_stale : s.doTargetAccept l x = s.countStale := if_pos hstale
theorem State.doDataUnit_of_stale : s.doDataUnit l x off bs true = s.countStale := if_pos hstale
theorem State.doResponse_of_stale (k : RespKind) : s.doResponse l x k ps dw = s.countStale := if_pos hstale

end

/-- Entry l with what a response tells, and with n bytes moved. -/
def State.ledAnswered (s : State) (l n : Nat) (ps : BitVec 16) (dw : BitVec 32) : State :=
  s.setLed l { s.led l with pstat := ps, pdw0 := dw, bytes := n }

section
variable (hfresh : s.staleFor l x = false) (hpend : (s.led l).pendStatus = none)
include hfresh hpend

/-- A command that carries no data to the target is ACCEPTED, and nothing is sent. -/
theorem State.doTargetAccept_of_issued (hst : (s.led l).st = .issued) (hopc : (s.led l).opc ≠ 0x1A) (hdir : (s.led l).dir ≠ 2) :
    s.doTargetAccept l x = s.setLed l { s.led l with st := .accepted } := by
  simp [State.doTargetAccept, hfresh, hpend, hst, hopc, hdir]

/-- Data of a read that fits its buffer is written over its ranges, with its separate PI behind it (R533; log entry 52). -/
theorem State.doDataUnit_of_fitting {rs : Ranges} (hdir : (s.led l).dir = 1) (hopc : (s.led l).opc ≠ 0x1B) (hpos : 0 < bs.length)
    (hmax : bs.length ≤ 131072) (hlen : off + bs.length ≤ cDlen (s.led l).desc) (hgen : s.oldGen (s.led l).ins (s.led l).gen = false)
    (hrs : s.cRanges (s.led l).ins (s.led l).desc = .ok rs)
    (hroom : (s.room (s.led l).ins (subRanges rs off bs.length ++ piPart (s.led l) off bs.length)
      (bs.length + ((piPart (s.led l) off bs.length).map (·.2)).foldl (· + ·) 0)).2 = .ok) :
    s.doDataUnit l x off bs true = ((s.writeRanges 8 (s.ledPort (s.led l)) (s.led l).ins (subRanges rs off bs.length) bs).writePi (s.led l)
      (piPart (s.led l) off bs.length)).setLed l { s.led l with st := .data, bytes := (s.led l).bytes + bs.length } := by
  have hgo : ((s.led l).pendStatus.isSome || decide ((s.led l).dir ≠ 1) || decide ((s.led l).opc = 0x1B) || decide (bs.length = 0) || decide (131072 < bs.length)
      || decide (cDlen (s.led l).desc < off + bs.length)) = false := by
    simp [hpend, hdir, hopc, hpos.ne', hmax, hlen]
  simp only [State.doDataUnit, hfresh, hgo, hgen, hrs, hroom, Bool.not_true, Bool.false_eq_true, if_false]

theorem State.doResponse_error : s.doResponse l x .error ps dw = (s.ledAnswered l (s.led l).bytes ps dw).finishLed l scIoError := by
  simp [State.doResponse, State.ledAnswered, hfresh, hpend]

/-- The bytes of a write or of a send are those of its buffer once it has succeeded. -/
theorem State.doResponse_success (hturn : (s.led l).opc ≠ 0x1A ∨ s.sendBehind l = false) : s.doResponse l x .success ps dw =
    (s.ledAnswered l (if (s.led l).dir = 2 then cDlen (s.led l).desc else (s.led l).bytes) ps dw).finishLed l scOk := by
  have hgo : ((s.led l).pendStatus.isSome || (decide ((s.led l).opc = 0x1A) && s.sendBehind l)) = false := by
    rcases hturn with h | h <;> simp [hpend, h]
  simp only [State.doResponse, State.ledAnswered, hfresh, hgo, Bool.false_eq_true, if_false, decide_true, Bool.and_true, decide_eq_true_eq]

omit hpend in
/-- A send waits for those of its queue pair and port that were taken before it (R525). -/
theorem State.doResponse_of_behind (hopc : (s.led l).opc = 0x1A) (hturn : s.sendBehind l = true) : s.doResponse l x .success ps dw = s := by
  simp [State.doResponse, hfresh, hopc, hturn]

end
end

/-! ### Frames of a network interface (R529, R531, R609) -/

section
variable {e : Nat} {bs : List Byte} (htyp : (s.ep e).typ = 5) (hmade : (s.ep e).made = true) (hpos : 0 < bs.length) (hmax : bs.length ≤ 9216)
include htyp hmade hpos hmax

theorem State.doFrame_of_unposted (hnone : s.oldestRecv e = none) :
    s.doFrame e bs true = { s with chan := { s.chan with rxDropped := s.chan.rxDropped + 1 } } := by
  simp [State.doFrame, htyp, hmade, List.length_pos_iff.mp hpos, hmax.not_gt, hnone]

/-- Its bytes are charged as the frame comes, whatever the balance (log entry 78). -/
theorem State.doFrame_of_posted (hl : s.oldestRecv e = some l) (hp : s.ledPoison l = false) (hgen : s.oldGen (s.led l).ins (s.led l).gen = false)
    (hroom : (s.room (s.led l).ins [(cDptr (s.led l).desc, bs.length)] bs.length).2 = .ok) :
    s.doFrame e bs true = ((((s.setBk (s.led l).ins clsChbyte ((s.bk (s.led l).ins clsChbyte).charge (units4k bs.length))).writeRanges 8 (s.ledPort (s.led l)) (s.led l).ins
      [(cDptr (s.led l).desc, bs.length)] bs).setLed l { s.led l with st := .data, bytes := bs.length }).finishLed l scOk) := by
  simp [State.doFrame, htyp, hmade, List.length_pos_iff.mp hpos, hmax.not_gt, hl, State.ledRead_of_readable _ hp, hgen, hroom]

end

/-! ### PCIe functions (R510, R530, 12 R604) -/

theorem State.doInbound_of_damaged (e a : Nat) (write : Bool) (bs : List Byte) : s.doInbound e write a bs false = s.countDiscard := rfl

section
variable {e : Nat} (htyp : (s.ep e).typ = 6) (hmade : (s.ep e).made = true)
include htyp hmade

theorem State.doInbound_of_stored {a : Nat} {bs : List Byte} {u : State} (hmax : bs.length ≤ 4096)
    (hok : s.agentStore 9 ((s.ep e).path 0).lport ((s.ep e).owner.getD 0) a bs = (u, .ok)) : s.doInbound e true a bs true = u := by
  simp [State.doInbound, htyp, hmade, hmax.not_gt, hok]

theorem State.doMsi_of_made (v : Nat) : s.doMsi e v = s.raiseVvFrom ((s.ep e).owner.getD 0) v := by
  simp [State.doMsi, htyp, hmade]

end
end

/-! ### The commands -/

section
variable {s : State} (hs : s.moduleStopped = false)
include hs

/-- A unit that finds no room stays with its sender, but on Ethernet (R531). -/
theorem exec_dataUnitReceived_of_full {l : Nat} {x : BitVec 32} {off : Nat} {bs : List Byte} {good : Bool}
    (hroom : s.bufferRoom (s.ledPort (s.led l)) bs.length = false) (hm : (s.group (s.ledPort (s.led l) / 8)).mode ≠ 3) :
    exec (.dataUnitReceived l x off bs good) s = .next s := by
  change execDataUnitReceived l x off bs good s = _
  rw [execDataUnitReceived, s.live_of_running _ hs]
  exact congrArg _ (State.receive_of_full hroom hm)

variable (hp : s.dpx.st ≠ .paired)
include hp

theorem exec_targetAccept (l : Nat) (x : BitVec 32) : exec (.targetAccept l x) s = .next (s.ledRead l (s.doTargetAccept l x)) := by
  change execTargetAccept l x s = _
  rw [execTargetAccept, s.live_of_running _ hs, s.agree_of_not_paired _ _ hp]

theorem exec_targetResponse (l : Nat) (x : BitVec 32) (k : RespKind) (ps : BitVec 16) (dw : BitVec 32) :
    exec (.targetResponse l x k ps dw) s = .next (s.ledRead l (s.doResponse l x k ps dw)) := by
  change execTargetResponse l x k ps dw s = _
  rw [execTargetResponse, s.live_of_running _ hs, s.agree_of_not_paired _ _ hp]

theorem exec_dataUnitReceived {l : Nat} (x : BitVec 32) (off : Nat) {bs : List Byte} (good : Bool) (hroom : s.bufferRoom (s.ledPort (s.led l)) bs.length = true) :
    exec (.dataUnitReceived l x off bs good) s = .next (s.ledRead l (s.doDataUnit l x off bs good)) := by
  change execDataUnitReceived l x off bs good s = _
  rw [execDataUnitReceived, s.live_of_running _ hs]
  exact congrArg _ (State.receive_of_room hroom hp)

theorem exec_frameReceived {e : Nat} {bs : List Byte} (good : Bool) (hroom : s.bufferRoom ((s.ep e).path 0).lport bs.length = true) :
    exec (.frameReceived e bs good) s = .next (s.doFrame e bs good) := by
  change execFrameReceived e bs good s = _
  rw [execFrameReceived, s.live_of_running _ hs]
  exact congrArg _ (State.receive_of_room hroom hp)

/-- Endpoints are numbered below 65,536; the number of a request that came damaged is 65,536 above its endpoint's. -/
theorem exec_pcieInboundRequest {n e : Nat} (write : Bool) (a : Nat) {bs : List Byte} (he : n % 65536 = e)
    (hroom : s.bufferRoom ((s.ep e).path 0).lport bs.length = true) :
    exec (.pcieInboundRequest n write a bs) s = .next (s.doInbound e write a bs (decide (n < 65536))) := by
  subst he
  change execPcieInboundRequest n write a bs s = _
  rw [execPcieInboundRequest, s.live_of_running _ hs]
  exact congrArg _ (State.receive_of_room hroom hp)

theorem exec_msiWrite (e v : Nat) : exec (.msiWrite e v) s = .next (s.doMsi e v) := by
  change execMsiWrite e v s = _
  rw [execMsiWrite, s.live_of_running _ hs, s.agree_of_not_paired _ _ hp]

end

/-- Settles O40: targets by the entry's poison, the room, the XID and the response; then frames by the buffer posted, and PCIe functions. The charge of a frame's
bytes as it comes (log entry 78) and the layout of PI (log entry 52) are the model's choices. -/
theorem targetsAndNetworksSend : Obligations.TargetsAndNetworksSend := by
  unfold Obligations.TargetsAndNetworksSend
  refine ⟨?targets, ?networks⟩
  case targets =>
    intro s l off x bs ps dw rs e stale s1 room hs
    refine ⟨fun hroom hp hpoison ho => ?poisoned, exec_dataUnitReceived_of_full hs, fun hp hpoison => ?readable⟩
    case poisoned =>
      have hends (f : State) : s.ledRead l f = s.ledUe l := State.ledRead_of_poison f ho hpoison
      simp [exec_targetAccept hs hp, exec_dataUnitReceived hs hp _ _ _ hroom, exec_targetResponse hs hp, hends]
    case readable =>
      have haccept {t : State} (h : s.doTargetAccept l x = t) : exec (.targetAccept l x) s = .next t := by
        rw [exec_targetAccept hs hp, State.ledRead_of_readable _ hpoison, h]
      have hdata {good : Bool} {t : State} (h : s.doDataUnit l x off bs good = t) (hroom : room) : exec (.dataUnitReceived l x off bs good) s = .next t := by
        rw [exec_dataUnitReceived hs hp _ _ _ hroom, State.ledRead_of_readable _ hpoison, h]
      have hresponse {k : RespKind} {t : State} (h : s.doResponse l x k ps dw = t) : exec (.targetResponse l x k ps dw) s = .next t := by
        rw [exec_targetResponse hs hp, State.ledRead_of_readable _ hpoison, h]
      refine ⟨fun hstale => ⟨haccept (State.doTargetAccept_of_stale hstale), hdata (State.doDataUnit_of_stale hstale), hresponse (State.doResponse_of_stale hstale _)⟩,
        hdata State.doDataUnit_of_damaged, fun hfresh hpend =>
        ⟨fun hst hopc hdir => ?_, fun hroom hdir hopc hpos hmax hlen hgen hrs => ?_, fun hturn => ?_, fun hopc hturn => ?_, ?_⟩⟩
      · exact haccept (State.doTargetAccept_of_issued hfresh hpend hst hopc hdir)
      · intro pi hok
        exact hdata (State.doDataUnit_of_fitting hfresh hpend hdir hopc hpos hmax hlen hgen hrs hok) hroom
      · exact hresponse (State.doResponse_success hfresh hpend hturn)
      · exact hresponse (State.doResponse_of_behind hfresh hopc hturn)
      · exact hresponse (State.doResponse_error hfresh hpend)
  case networks =>
    intro s e l v a bs u ep i x rs paid hs hp hmade hroom
    refine ⟨fun htyp hpos hmax => ⟨fun hnone => ?_, fun hl hpoison hgen hok => ?_⟩, fun htyp he => ⟨fun hmax hok => ?_, ?_, ?_⟩⟩
    · rw [exec_frameReceived hs hp true hroom, State.doFrame_of_unposted htyp hmade hpos hmax hnone]
    · rw [exec_frameReceived hs hp true hroom, State.doFrame_of_posted htyp hmade hpos hmax hl hpoison hgen hok]
      rfl
    · rw [exec_pcieInboundRequest hs hp true a (Nat.mod_eq_of_lt he) hroom, decide_eq_true he, State.doInbound_of_stored htyp hmade hmax hok]
    · rw [exec_pcieInboundRequest hs hp true a (by omega) hroom, decide_eq_false (by omega), State.doInbound_of_damaged]
    · rw [exec_msiWrite hs hp, State.doMsi_of_made htyp hmade]

end Sys2Proof.Machine
end

section
/-! PROOFS. Ports and paths (10 R496, R502, R504, R509, R517, R526, R528, R541, R814): a link that goes down or trains, and what each event of a path does. -/

namespace Sys2Proof.Machine

section
variable {s : State}

/-! ### The ports of a fenced side (R541) -/

theorem State.lostPort_eq_true_iff {lp : Nat} : s.lostPort lp = true ↔ s.dpx.st ∈ [DpxSt.simplex, .pairing, .repair] ∧ s.peerPort lp = true := by
  simp [State.lostPort, or_assoc]
theorem State.lostPort_of_served {lp : Nat} (h : ¬ (s.dpx.st ∈ [DpxSt.simplex, .pairing, .repair] ∧ s.peerPort lp = true)) : s.lostPort lp = false :=
  Bool.eq_false_iff.mpr (mt State.lostPort_eq_true_iff.mp h)

/-! ### What each event of a path does (R502, R504, R517, R814) -/

/-- The state in which path p carries operations: STANDBY when it is configured so (R502). -/
def Path.main (p : Path) : PathSt := if bit p.pflags 1 then .standby else .active

section
variable {e k : Nat}

/-- Path k of endpoint e as it has connected; for an FCP target a free value says whether it accepts task retry identification. -/
def State.pathJoined (s : State) (e k : Nat) : State :=
  ({ s with freeCtr := s.freeCtr + 1 } : State).setPath e k
    { (s.ep e).path k with st := ((s.ep e).path k).main, closing := false, alive := s.time.start, retry := decide ((s.ep e).typ = 4) && (Config.free s.freeCtr).getLsbD 0 }

theorem State.doConnect_of_connecting (hst : ((s.ep e).path k).st = .connecting) (hup : (s.port ((s.ep e).path k).lport).st = 2)
    (hserved : s.lostPort ((s.ep e).path k).lport = false) : s.doConnect e k false = (s.pathJoined e k).learnFormats e k := by
  simp only [State.doConnect, hst, hup, hserved, ne_eq, not_true_eq_false, decide_false, Bool.or_self, Bool.false_eq_true, if_false, Bool.false_or]
  rfl

theorem State.doConnect_of_lost (standby : Bool) (hlost : s.lostPort ((s.ep e).path k).lport = true) : s.doConnect e k standby = s := by
  simp [State.doConnect, hlost]

section
variable (hst : ((s.ep e).path k).st = .active ∨ ((s.ep e).path k).st = .standby)
include hst

/-- An ANA state that a connected path of an NVMe controller reports. -/
theorem State.doAna_of_connected (a : Ana) (htyp : (s.ep e).typ ≤ 3) : s.doAna e k a =
    match a with
    | .optimized => s.setPath e k { (s.ep e).path k with st := ((s.ep e).path k).main }
    | .nonOptimized => s.setPath e k { (s.ep e).path k with st := .standby }
    | .inaccessible => s.failPath e k false := by
  have hgo : (!decide ((s.ep e).typ ≤ 3) || !(decide (((s.ep e).path k).st = .active) || decide (((s.ep e).path k).st = .standby))) = false := by
    rcases hst with h | h <;> simp [htyp, h]
  simp only [State.doAna, hgo, Bool.false_eq_true, if_false]
  cases a <;> rfl

theorem State.doLogout_of_connected (hmin : 2 ≤ (s.ep e).typ) (hmax : (s.ep e).typ ≤ 4) : s.doLogout e k = s.failPath e k true := by
  rcases hst with h | h <;> simp [State.doLogout, hmin, hmax, h]

end

/-- With no entry of the endpoint in the ledger a change of a namespace's format is noted, and nothing ends. -/
theorem State.doSpace_of_idle (n : Nat) (blk : Option Nat) (hidle : s.ledsOf e = []) (hpaths : (s.ep e).paths ≠ []) : s.doSpace e n blk =
    { s with chan := { s.chan with formats := Tab.set none s.chan.formats (fmtKey e n) (some blk) } } := by
  have hleds (t : State) (h : t.chan.led = s.chan.led) : t.ledsOf e = [] := by rw [← hidle, State.ledsOf, State.ledsOf, h]
  simp [State.doSpace, hpaths, hleds]

end

/-! ### The commands -/

variable (hs : s.moduleStopped = false)
include hs

section
variable {lp : Nat} (hnone : s.pathsOn lp = [])
include hnone

theorem exec_portDown_of_pathless (hup : (s.port lp).st ≠ 0) : exec (.portDown lp) s = .next (s.setPort lp { s.port lp with st := 0 }) := by
  change execPortDown lp s = _
  rw [execPortDown, s.live_of_running _ hs, if_neg hup, hnone]
  rfl

/-- An Ethernet link trains at most at its configured width and rate, and makes no record. -/
theorem exec_linkTrained_of_pathless {lanes rate wl wr : Nat} (hm : (s.group (lp / 8)).mode = 3) (hlp : lp < 64)
    (hconf : (s.group (lp / 8)).ports[lp % 8]? = some (wl, wr)) (hup : (s.port lp).st ≠ 2) :
    exec (.linkTrained lp lanes rate) s = .next (s.setPort lp { st := 2, lanes := Nat.min lanes wl, rate := Nat.min rate wr }) := by
  have hpaths (x : Port) : (s.setPort lp x).pathsOn lp = [] := hnone
  change execLinkTrained lp lanes rate s = _
  rw [execLinkTrained, s.live_of_running _ hs, hconf]
  simp [hm, hlp.not_ge, hup, hpaths]

end

theorem exec_dpcContainment {lp : Nat} (hm : (s.group (lp / 8)).mode = 1) (hlp : lp < 64) : exec (.dpcContainment lp) s = .next (s.contain lp) := by
  change execDpcContainment lp s = _
  simp [execDpcContainment, s.live_of_running _ hs, hm, hlp]

variable {e k : Nat}

/-- On a port of a fenced side no path connects before re-pairing ends. -/
theorem exec_pathConnected_of_lost (hlost : s.dpx.st ∈ [DpxSt.simplex, .pairing, .repair] ∧ s.peerPort ((s.ep e).path k).lport = true) :
    exec (.pathConnected e k false) s = .next s := by
  have hp : s.dpx.st ≠ .paired := fun h => by simp [h] at hlost
  change execPathConnected e k false s = _
  rw [execPathConnected, s.live_of_running _ hs, s.agree_of_not_paired _ _ hp, State.doConnect_of_lost _ (State.lostPort_eq_true_iff.mpr hlost)]

/-- A failed path is tried again once RETEST epochs have passed, and not before (R528). -/
theorem exec_pathRetest (hst : ((s.ep e).path k).st = .failed) (hup : (s.port ((s.ep e).path k).lport).st = 2)
    (hserved : s.lostPort ((s.ep e).path k).lport = false) : exec (.pathRetest e k) s =
      .next (if ((s.ep e).path k).failAt + 1024 * (s.ep e).retest ≤ s.time.ticks then s.atEdge (fun t => t.connect e k) else s) := by
  change execPathRetest e k s = _
  simp only [execPathRetest, s.live_of_running _ hs, State.retestDue, hst, hup, hserved, decide_true, Bool.true_and, Bool.not_false, Bool.and_true, decide_eq_true_eq]
  rfl

/-- KATO ticks without an answer fail a path that is connected, counted from its connecting (log entry 11). -/
theorem exec_keepaliveTimeout (htyp : (s.ep e).typ = 2 ∨ (s.ep e).typ = 3) (hst : ((s.ep e).path k).st = .active ∨ ((s.ep e).path k).st = .standby) :
    exec (.keepaliveTimeout e k) s =
      .next (if ((s.ep e).path k).alive + (s.ep e).kato ≤ s.time.ticks then s.atEdge (fun t => t.failPath e k false) else s) := by
  change execKeepaliveTimeout e k s = _
  simp [execKeepaliveTimeout, s.live_of_running _ hs, htyp, hst]

variable (hp : s.dpx.st ≠ .paired)
include hp

theorem exec_pathConnected (standby : Bool) : exec (.pathConnected e k standby) s = .next (s.doConnect e k standby) := by
  change execPathConnected e k standby s = _
  rw [execPathConnected, s.live_of_running _ hs, s.agree_of_not_paired _ _ hp]

theorem exec_anaStateChange (a : Ana) : exec (.anaStateChange e k a) s = .next (s.doAna e k a) := by
  change execAnaStateChange e k a s = _
  rw [execAnaStateChange, s.live_of_running _ hs, s.agree_of_not_paired _ _ hp]

theorem exec_loginLoss : exec (.loginLoss e k) s = .next (s.doLogout e k) := by
  change execLoginLoss e k s = _
  rw [execLoginLoss, s.live_of_running _ hs, s.agree_of_not_paired _ _ hp]

theorem exec_namespaceChange (n : Nat) (blk : Option Nat) : exec (.namespaceChange e n blk) s = .next (s.doSpace e n blk) := by
  change execNamespaceChange e n blk s = _
  rw [execNamespaceChange, s.live_of_running _ hs, s.agree_of_not_paired _ _ hp]

end

/-- Settles O41: the ports, then the paths by the state that they are in. That a connected path sends nothing before the tick boundary (log entry 161) and that KATO
counts from the connecting (log entry 11) are the model's choices. -/
theorem portsAndPathsChangeState : Obligations.PortsAndPathsChangeState := by
  unfold Obligations.PortsAndPathsChangeState
  intro s lp e k n lanes rate wl wr ep p put main up joined hs
  refine ⟨fun hnone => ⟨exec_portDown_of_pathless hs hnone, exec_linkTrained_of_pathless hs hnone⟩,
    ⟨fun hst hup => ⟨fun hserved hp => ?connects, exec_pathConnected_of_lost hs⟩, fun hst hup hserved => ?failed,
      fun hst => ⟨fun htyp hp => ?ana, fun hmin hmax hp => ?login, fun htyp => ?keepalive⟩,
      fun hidle hp hpaths => ?format⟩, exec_dpcContainment hs⟩
  case connects =>
    rw [exec_pathConnected hs hp, State.doConnect_of_connecting hst hup (State.lostPort_of_served hserved)]
    rfl
  case failed =>
    have hretest := exec_pathRetest hs hst hup (State.lostPort_of_served hserved)
    exact ⟨fun hdue => hretest.trans (congrArg _ (if_pos hdue)), fun hearly => hretest.trans (congrArg _ (if_neg hearly.not_ge))⟩
  case ana =>
    have hana (a : Ana) := (exec_anaStateChange hs hp a).trans (congrArg _ (State.doAna_of_connected hst a htyp))
    exact ⟨hana .optimized, hana .nonOptimized, hana .inaccessible⟩
  case login => rw [exec_loginLoss hs hp, State.doLogout_of_connected hst hmin hmax]
  case keepalive =>
    have htimeout := exec_keepaliveTimeout hs htyp hst
    exact ⟨fun hdue => htimeout.trans (congrArg _ (if_pos hdue)), fun hearly => htimeout.trans (congrArg _ (if_neg hearly.not_ge))⟩
  case format => rw [exec_namespaceChange hs hp, State.doSpace_of_idle n _ hidle hpaths]

end Sys2Proof.Machine
end

section
/-! PROOFS. The ends of attempts (10 R517 to R520, R526, R527, R543, R815): deadlines, waits, aborts and fences, each by its command. -/

namespace Sys2Proof.Machine

/-! ### What acts at a tick boundary (R526) -/

/-- The state at the boundary of its present tick. -/
def State.onEdge (s : State) : State := { s with time := { s.time with edge := true } }

section
variable {s : State} {f g : State → State}

@[simp] theorem State.onEdge_led (l : Nat) : s.onEdge.led l = s.led l := rfl
@[simp] theorem State.onEdge_start : s.onEdge.time.start = s.time.ticks := rfl
@[simp] theorem State.onEdge_draw : s.onEdge.draw.1 = Config.free s.freeCtr := rfl

theorem State.led_atEdge (l : Nat) : (s.atEdge f).led l = (f s.onEdge).led l := rfl

/-- What acts at the boundary is told by the state there. -/
theorem State.atEdge_congr (h : f s.onEdge = g s.onEdge) : s.atEdge f = s.atEdge g :=
  congrArg (fun t : State => { t with time := { t.time with edge := s.time.edge } }) h

variable {l : Nat} (hp : s.ledPoison l = false)
include hp

/-- What an event of an entry that can be read does at the boundary. -/
theorem State.atEdge_ledRead : s.atEdge (fun t => t.ledRead l (f t)) = s.atEdge f :=
  State.atEdge_congr (State.ledRead_of_readable (s := s.onEdge) _ hp)

end

/-! ### Deadlines and waits (R517, R518, R520, R527) -/

section
variable {s : State} {l : Nat} (hs : s.moduleStopped = false) (hp : s.ledPoison l = false)
include hs hp

/-- A live attempt fails its path at its deadline, and not before; a receive has none. -/
theorem exec_operationTimeout (hlive : (s.led l).live = true) (hopc : (s.led l).opc ≠ 0x1B) : exec (.operationTimeout l) s =
    .next (if (s.led l).tdead.toNat ≤ s.time.dtime.toNat then s.atEdge (fun t => t.failPath (s.led l).ep (s.led l).path false) else s) := by
  have hends : s.atEdge (fun t => t.opTimeout l) = s.atEdge (fun t => t.failPath (s.led l).ep (s.led l).path false) := State.atEdge_ledRead hp
  change execOperationTimeout l s = _
  simp [execOperationTimeout, s.live_of_running _ hs, State.opDue, hlive, hopc, hends]

/-- The end of a wait for a path: PATH_EXHAUSTED where nothing was sent; else every path counts as tried, and only a repeatable operation is known not to have
happened. -/
def State.waitOver (s : State) (l : Nat) : State :=
  if (s.led l).attempt = 0 then s.finishLed l scPathExhausted
  else (s.setLed l { s.led l with tried := (s.led l).tried ||| (2 ^ (s.ep (s.led l).ep).paths.length - 1) }).finishLed l
    (if (s.led l).idem then scPathExhausted else scOutcomeUnknown)

theorem exec_operationWaitExpiry (ho : (s.led l).isOpen = true) (hw : (s.led l).waiting = true) (hd : (s.led l).drain = false)
    (hpend : (s.led l).pendStatus = none) : exec (.operationWaitExpiry l) s =
      .next (if (s.led l).since + (s.ep (s.led l).ep).optmo ≤ s.time.ticks then s.atEdge (fun t => t.waitOver l) else s) := by
  have hends : s.atEdge (fun t => t.waitExpiry l) = s.atEdge (fun t => t.waitOver l) := State.atEdge_ledRead hp
  change execOperationWaitExpiry l s = _
  simp [execOperationWaitExpiry, s.live_of_running _ hs, State.waitDue, ho, hw, hd, hpend, hends]

end

/-! ### Aborts (R519, R543, R815) -/

section
variable {s : State} {l : Nat} (hs : s.moduleStopped = false)
include hs

theorem exec_abortAnswer (hd : s.dpx.st ≠ .paired) : exec (.abortAnswer l) s = .next (s.doAbortAnswer l) := by
  change execAbortAnswer l s = _
  rw [execAbortAnswer, s.live_of_running _ hs, s.agree_of_not_paired _ _ hd]

/-- The abort of an operation that has left its entry. -/
theorem exec_abortTimeout_of_orphan {o : Orphan} (ho : s.orphan l = some o) (hdue : o.sent + (s.ep o.ep).abtmo ≤ s.time.ticks) :
    exec (.abortTimeout l) s = .next (s.atEdge (fun t => (t.dropOrphan o).forceFence o.ep o.path)) := by
  have hat : s.onEdge.orphan l = some o := ho
  change execAbortTimeout l s = _
  rw [execAbortTimeout, s.live_of_running _ hs, if_pos (by simpa [State.abortDue, ho] using hdue)]
  exact congrArg _ (State.atEdge_congr (by simp only [State.abortTimeout, hat]))

variable {j t0 : Nat} {rest : List (Nat × Nat)} (ho : s.orphan l = none) (ha : (s.led l).aborts = (j, t0) :: rest)
include ho ha

omit hs in
theorem State.doAbortAnswer_of_aborted (hp : s.ledPoison l = false) :
    s.doAbortAnswer l = (s.setLed l { s.led l with aborts := rest }).fencedLed l := by
  simp [State.doAbortAnswer, ho, ha, State.ledRead_of_readable _ hp]

theorem exec_abortTimeout_of_early (hearly : s.time.ticks < t0 + (s.ep (s.led l).ep).abtmo) : exec (.abortTimeout l) s = .next s := by
  change execAbortTimeout l s = _
  rw [execAbortTimeout, s.live_of_running _ hs, if_neg (by simpa [State.abortDue, ho, ha] using hearly)]

end

/-- The abort of entry l on path j has had no answer in time: the device itself brings about what fences the attempt, and awaits it; others are unanswered still. The tick
at which that fence ends is free. -/
def State.abortForced (t : State) (l j : Nat) (rest : List (Nat × Nat)) : State :=
  let x := t.led l
  let closing := x.closing.filter (fun a => decide (a.1 ≠ j)) ++ [(j, t.time.start)]
  (t.draw.2.setLed l { x with aborts := rest, closing := closing, tdead := if x.rfence then t.draw.1 else x.tdead }).forceFence x.ep j

/-- Entry l, which reads y, is retired unfenced, and its owner, which reads z, counts it (R543). -/
def State.retireUnfenced (t : State) (l : Nat) (y : Led) (z : Inst) : State :=
  (t.setLed l { y with st := .retired, aborts := [], closing := [] }).setIns y.ins { z with cnt := { z.cnt with sqchan := z.cnt.sqchan + 1, unfenced := z.cnt.unfenced + 1 } }

/-- What becomes of entry l as its fence is awaited: one that drains, and is not retired yet, does not wait (R543). -/
def State.drainOver (u : State) (l : Nat) : State :=
  if (u.led l).drain && decide ((u.led l).st ≠ .retired) then u.retireUnfenced l (u.led l) (u.ins (u.led l).ins) else u

section
variable {s : State} {l j t0 : Nat} {rest : List (Nat × Nat)} {f : State → State} (ho : s.orphan l = none) (ha : (s.led l).aborts = (j, t0) :: rest)
  (hp : s.ledPoison l = false)
include ho ha hp

theorem State.abortTimeout_of_aborted : s.abortTimeout l = (s.abortForced l j rest).drainOver l := by
  simp -zeta only [State.abortTimeout, ho, State.ledRead_of_readable _ hp]
  extract_lets e
  have he : e.aborts = (j, t0) :: rest := ha
  rw [he]
  dsimp -zeta only
  extract_lets s1 s3
  have hforced : s.abortForced l j rest = s3 := rfl
  rw [hforced]
  clear_value s3
  rfl

variable (hs : s.moduleStopped = false) (hdue : t0 + (s.ep (s.led l).ep).abtmo ≤ s.time.ticks) (hf : s.onEdge.abortForced l j rest = f s.onEdge)
include hs hdue hf

theorem exec_abortTimeout_of_due : exec (.abortTimeout l) s = .next (s.atEdge (fun t => (f t).drainOver l)) := by
  have hover : s.onEdge.abortTimeout l = (f s.onEdge).drainOver l := hf ▸ State.abortTimeout_of_aborted (s := s.onEdge) ho ha hp
  change execAbortTimeout l s = _
  rw [execAbortTimeout, s.live_of_running _ hs, if_pos (by simpa [State.abortDue, ho, ha] using hdue), State.atEdge_congr (g := fun t => (f t).drainOver l) hover]

theorem exec_abortTimeout_of_kept (h : ((s.atEdge f).led l).drain = false ∨ ((s.atEdge f).led l).st = .retired) :
    exec (.abortTimeout l) s = .next (s.atEdge f) := by
  rw [State.led_atEdge] at h
  rw [exec_abortTimeout_of_due ho ha hp hs hdue hf]
  exact congrArg _ (State.atEdge_congr (if_neg (by rcases h with h | h <;> simp [h])))

theorem exec_abortTimeout_of_draining {y : Led} {z : Inst} (hy : (s.atEdge f).led l = y) (hz : (s.atEdge f).ins y.ins = z) (hd : y.drain = true)
    (hst : y.st ≠ .retired) : exec (.abortTimeout l) s = .next (s.atEdge (fun t => (f t).retireUnfenced l y z)) := by
  subst hy hz
  rw [State.led_atEdge] at hd hst
  rw [exec_abortTimeout_of_due ho ha hp hs hdue hf]
  exact congrArg _ (State.atEdge_congr (if_pos (by simp [hd, hst])))

end

/-! ### Fences (R519, R815) -/

section
variable {s : State} (hs : s.moduleStopped = false)
include hs

/-- The quiesce time ends the oldest closing of an entry whose transport has one. -/
theorem exec_quiesceElapsed {l j t0 : Nat} {rest : List (Nat × Nat)} (hc : (s.led l).closing = (j, t0) :: rest) (hp : s.ledPoison l = false)
    (htyp : (s.ep (s.led l).ep).typ ≠ 1) (hdue : (s.ep (s.led l).ep).typ = 2 → t0 + (s.ep (s.led l).ep).kato ≤ s.time.ticks) :
    exec (.quiesceElapsed l) s = .next ((s.setLed l { s.led l with closing := rest, aborts := (s.led l).aborts.filter (fun a => decide (a.1 ≠ j)) }).fencedLed l) := by
  have hgo : (decide ((s.ep (s.led l).ep).typ = 1) || (decide ((s.ep (s.led l).ep).typ = 2) && decide (s.time.ticks < t0 + (s.ep (s.led l).ep).kato))) = false := by
    simpa [htyp] using hdue
  change execQuiesceElapsed l s = _
  simp only [execQuiesceElapsed, s.live_of_running _ hs, hc, hgo, State.ledRead_of_readable _ hp, Bool.false_eq_true, if_false]

variable {e k : Nat} (htyp : (s.ep e).typ = 1) (hc : ((s.ep e).path k).closing = true)
include htyp hc

theorem exec_controllerResetDone (hd : s.dpx.st ≠ .paired) :
    exec (.controllerResetDone e k) s = .next ((s.setPath e k { (s.ep e).path k with closing := false }).fencePath e k) := by
  change execControllerResetDone e k s = _
  rw [execControllerResetDone, s.live_of_running _ hs, s.agree_of_not_paired _ _ hd, State.doCtlReset, if_pos (by simp [htyp, hc])]

theorem exec_controllerResetTimeout : exec (.controllerResetTimeout e k) s = .next (s.contain ((s.ep e).path k).lport) := by
  change execControllerResetTimeout e k s = _
  simp [execControllerResetTimeout, s.live_of_running _ hs, htyp, hc]

end

/-- Settles O42: the deadline, the wait, the aborts of operations that have left and of the entry's own attempts, then the fences. -/
theorem attemptsTimeOutAndAreFenced : Obligations.AttemptsTimeOutAndAreFenced := by
  unfold Obligations.AttemptsTimeOutAndAreFenced
  intro s l e k j t0 rest o x ep p fails y z hs
  have hforced : s.onEdge.abortForced l j rest = fails s.onEdge := by
    simp only [State.abortForced, State.onEdge_led, State.onEdge_start, State.onEdge_draw]
    rfl
  refine ⟨fun hp hlive hopc => ?deadline, fun hp ho hw hd hpend => ?wait, fun ho => ⟨fun hd => ?orphanAnswer, exec_abortTimeout_of_orphan hs ho⟩,
    fun ho ha => ⟨fun hp hd => ?answer, exec_abortTimeout_of_early hs ho ha, fun hp hdue => ?kept, fun hp hdue => ?draining⟩,
    exec_quiesceElapsed hs, fun htyp hc => ⟨exec_controllerResetDone hs htyp hc, exec_controllerResetTimeout hs htyp hc⟩⟩
  case deadline =>
    have htimeout := exec_operationTimeout hs hp hlive hopc
    exact ⟨fun hdue => htimeout.trans (congrArg _ (if_pos hdue)), fun hearly => htimeout.trans (congrArg _ (if_neg hearly.not_ge))⟩
  case wait =>
    have hexpiry := exec_operationWaitExpiry hs hp ho hw hd hpend
    refine ⟨fun hearly => hexpiry.trans (congrArg _ (if_neg hearly.not_ge)), fun hdue hfirst => ?_, fun hdue hsent => ?_⟩
    · exact hexpiry.trans (congrArg _ ((if_pos hdue).trans (State.atEdge_congr (if_pos hfirst))))
    · exact hexpiry.trans (congrArg _ ((if_pos hdue).trans (State.atEdge_congr (if_neg hsent))))
  case orphanAnswer => simp only [exec_abortAnswer hs hd, State.doAbortAnswer, ho]
  case answer => rw [exec_abortAnswer hs hd, State.doAbortAnswer_of_aborted ho ha hp]
  case kept => exact exec_abortTimeout_of_kept (f := fails) ho ha hp hs hdue hforced
  case draining => exact exec_abortTimeout_of_draining (f := fails) (y := y) (z := z) ho ha hp hs hdue hforced rfl rfl

end Sys2Proof.Machine
end

section
/-! PROOFS. Engine jobs (11 R544, R555, R560 to R580): how a descriptor is taken, how a job starts, ends and meets a fault of its engine, and how a drained
instance's job is squashed. -/

namespace Sys2Proof.Machine

/-! ### A descriptor is taken (R544, R560, 12 R609) -/

/-- The commands that take an engine descriptor of queue pair q, each with the opcode and the engines that it uses; 255 is none.
Noncomputable: no compiled value can hold the tag of so late a constructor of Instr. -/
noncomputable def engTakes (q ce ke : Nat) : List (Instr × Nat × Nat × Nat) :=
  [(.ccomp q ce, 0x20, ce, 255), (.cdecomp q ce, 0x21, ce, 255), (.czenc q ce ke, 0x22, ce, ke), (.czdec q ce ke, 0x23, ce, ke),
    (.kgcmenc q ke, 0x30, 255, ke), (.kgcmdec q ke, 0x31, 255, ke), (.kxtsenc q ke, 0x32, 255, ke), (.kxtsdec q ke, 0x33, 255, ke), (.khash q ke, 0x34, 255, ke),
    (.khmac q ke, 0x35, 255, ke), (.ksign q ke, 0x36, 255, ke), (.kverify q ke, 0x37, 255, ke), (.kencap q ke, 0x38, 255, ke), (.kdecap q ke, 0x39, 255, ke),
    (.kkeygen q ke, 0x3A, 255, ke), (.kkeyload q ke, 0x3B, 255, ke), (.kkeyclr q ke, 0x3C, 255, ke)]

theorem exec_of_mem_engTakes (s : State) {q ce ke : Nat} : ∀ a ∈ engTakes q ce ke, exec a.1 s = .next (s.takeJob q a.2.1 a.2.2.1 a.2.2.2) := by
  intro a ha
  fin_cases ha <;> rfl

/-- Descriptor d of queue pair q, which instance i owns, becomes the next job, and every job that may start does. -/
def State.enterJob (t : State) (q opc i ce ke : Nat) (d : List Byte) : State :=
  let n := t.eng.nextJob
  (State.setJob { t with eng := { t.eng with nextJob := n + 1 } } n
    { live := true, qp := q, sqhead := (t.qp q).head, cq := dCq d, cflags := dFlags d, tag := dTag d, opc := opc, ins := i, gen := (t.ins i).gen, desc := d,
      ce := ce, ke := ke }).startJobs

section
variable {s s0 s1 : State} {q opc ce ke : Nat} {d : List Byte} (h0 : s.skipRefused q = s0) (hd : s0.headIs q opc = some d)
  (hshare : s0.inShare (s0.qpOwner q) ce ke = true) (hadmits : ∀ a ∈ engCharges d, (s0.bk (s0.qpOwner q) a.1).admits = true)
  (hpaid : s0.spend (s0.qpOwner q) (engCharges d) = some s1)
include h0 hd hshare hadmits hpaid

/-- A descriptor is charged before its fields are checked (R609). -/
theorem State.takeJob_of_paid : s.takeJob q opc ce ke =
    if engOk d = true then (s1.headOn q).enterJob q opc (s0.qpOwner q) ce ke d else (s1.headOn q).completeDesc q d scJobField (refusedExtra d) false := by
  have hall : (engCharges d).any (fun a => !(s0.bk (s0.qpOwner q) a.1).admits) = false := List.any_eq_false.2 fun a ha => by simp [hadmits a ha]
  cases hok : engOk d <;>
    simp only [State.takeJob, h0, hd, hshare, hall, hpaid, hok, Bool.not_true, Bool.not_false, Bool.or_self, Bool.false_eq_true, if_false, if_true]
  rfl

theorem State.takeJob_of_engOk (hok : engOk d = true) : s.takeJob q opc ce ke = (s1.headOn q).enterJob q opc (s0.qpOwner q) ce ke d :=
  (State.takeJob_of_paid h0 hd hshare hadmits hpaid).trans (if_pos hok)

theorem State.takeJob_of_refused (hbad : engOk d = false) : s.takeJob q opc ce ke = (s1.headOn q).completeDesc q d scJobField (refusedExtra d) false :=
  (State.takeJob_of_paid h0 hd hshare hadmits hpaid).trans (if_neg (by simp [hbad]))

end

/-! ### A job starts (R562, R567, R570) -/

/-- What the reads before job x starts leave: of its parameter block, then of the scatter lists of its source and its destination. -/
def State.sawPrep (s : State) (x : EngJob) : State :=
  let u := x.unit
  let t := if needsParam x.desc then (s.agentGet u.1 u.2 x.ins (eParam x.desc) 64).1 else s
  (t.rangesSee u.1 u.2 x.ins (bit (eFlags x.desc) 0) (eSrc x.desc)).rangesSee u.1 u.2 x.ins (bit (eFlags x.desc) 1) (eDst x.desc)

section
variable {s : State} {j : Nat} {x : EngJob} (hx : s.job j = x) (hkey : s.keyCheck x.ins x.desc = none)
include hx hkey

theorem State.startJob_of_ended {st : Nat} (hprep : s.prep x.ins x.desc = .ended st) :
    s.startJob j = ((s.sawPrep x).setJob j {}).complete x.ins x.gen x.qp x.cq (engCpl x st 0 0 0 0 255 255) := by
  simp only [State.startJob, hx, hkey, hprep]
  rfl

theorem State.startJob_of_ok {p : Param} {src dst : Ranges} (hprep : s.prep x.ins x.desc = .ok p src dst) (hrnd : needsRnd x.opc = false ∨ s.dpx.st ≠ .paired) :
    s.startJob j = (s.sawPrep x).setJob j
      { x with started := true, key := if namesSlot x.desc then s.key (eSlot x.desc) else none, par := p, src := src, dst := dst } := by
  have hnone : (needsRnd x.opc && decide (s.dpx.st = .paired)) = false := by simpa [or_iff_not_imp_left] using hrnd
  simp only [State.startJob, hx, hkey, hprep, hnone, Bool.false_eq_true, if_false]
  rfl

end

/-! ### A job ends (R566, R573, R574, R575, R579) -/

/-- Job j, which is x, ends: with the result on its inputs, or early where they cannot be read. -/
def State.finishJob (s : State) (j : Nat) (x : EngJob) : State :=
  match s.engInputs x with
  | (s1, none, st) => s1.engEarly j x st
  | (s1, some (bs, aad, aux), _) => s1.draw.2.engDeliver j x (engRes x.desc x.par ((x.key.map (·.mat)).getD []) bs aad aux (x.rnd.getD s1.draw.1))

section
variable {s : State} {j : Nat} {x : EngJob} (hx : s.job j = x) (hlive : x.live = true) (hstarted : x.started = true) (hs : s.moduleStopped = false)
  (hrnd : needsRnd x.opc = false ∨ s.dpx.st ≠ .paired ∨ x.rnd.isSome = true)
include hx hlive hstarted hs hrnd

/-- A running job that does not wait for random bits is squashed at a boundary, or finishes. -/
theorem exec_engineJobEnd : exec (.engineJobEnd j) s =
    .next (if (x.window && !x.lastUnit) = true then (s.squashJob j).startJobs else s.finishJob j x) := by
  have hready : (needsRnd x.opc && decide (s.dpx.st = .paired) && x.rnd.isNone) = false := by
    rcases hrnd with h | h | h <;> simp [h]
  change execEngineJobEnd j s = _
  simp only [execEngineJobEnd, hx, hlive, hstarted, hs, hready, Bool.not_true, Bool.or_self, Bool.false_eq_true, if_false]
  rfl

theorem exec_engineJobEnd_of_boundary (hwin : x.window = true) (hlast : x.lastUnit = false) : exec (.engineJobEnd j) s = .next (s.squashJob j).startJobs := by
  rw [exec_engineJobEnd hx hlive hstarted hs hrnd, if_pos (by simp [hwin, hlast])]

section
variable (hwin : x.window = false ∨ x.lastUnit = true) {s1 : State}
include hwin

theorem exec_engineJobEnd_of_readable {st : Nat} {bs aad aux : List Byte} (hin : s.engInputs x = (s1, some (bs, aad, aux), st)) : exec (.engineJobEnd j) s =
    .next (s1.draw.2.engDeliver j x (engRes x.desc x.par ((x.key.map (·.mat)).getD []) bs aad aux (x.rnd.getD s1.draw.1))) := by
  rw [exec_engineJobEnd hx hlive hstarted hs hrnd, if_neg (by simpa [or_iff_not_imp_left] using hwin), State.finishJob, hin]

theorem exec_engineJobEnd_of_unreadable {st : Nat} (hin : s.engInputs x = (s1, none, st)) : exec (.engineJobEnd j) s = .next (s1.engEarly j x st) := by
  rw [exec_engineJobEnd hx hlive hstarted hs hrnd, if_neg (by simpa [or_iff_not_imp_left] using hwin), State.finishJob, hin]

end
end

/-- SHA-256 gives its digest, or no output where that does not fit: DST_FULL (R555, R575). That nothing is then written is the model's choice, and that the digest
is that of FIPS 180-4 is log entry 47. -/
theorem engRes_sha256 {d : List Byte} (p : Param) (key bs aad aux : List Byte) (w : Word) (hopc : dOpc d = 0x34) (halg : eAlg d = 0x10) (hcmp : eCmp d = false) :
    engRes d p key bs aad aux w =
      if eDstLen d < (sha256 bs).length then { status := scDstFull, inlen := bs.length } else { status := scOk, out := sha256 bs, inlen := bs.length } := by
  simp only [engRes, hopc, halg, hcmp, hashOf, keOut, Bool.false_eq_true, if_false]

/-- An authentication failure leaves only zeros where output has been written (R573); for KGCMDEC how many bytes that is, is free (log entry 50). -/
theorem State.engDeliver_of_failed {s : State} {y : EngJob} {r : EngRes} (j : Nat) (hopc : y.opc = 0x31 ∨ y.opc = 0x23) (hgen : s.oldGen y.ins y.gen = false)
    (hfail : r.status ≠ scOk) : s.engDeliver j y r =
      ((s.drawBelow (r.out.length + 1)).2.writeRanges y.unit.1 y.unit.2 y.ins y.dst
        (List.replicate (if y.opc = 0x23 then r.out.length else (s.drawBelow (r.out.length + 1)).1) 0)).engEnd j y r.status r.inlen 0 r.check false := by
  have hzero : zeroes y.opc = true := by rcases hopc with h | h <;> rw [h] <;> rfl
  simp only [State.engDeliver, hgen, hzero, hfail, decide_false, Bool.not_false, Bool.and_self, Bool.false_eq_true, if_false, if_true]

/-! ### A fault of an engine (R576) -/

/-- The compression engines of the share of instance i but engine cur. -/
def State.otherCes (s : State) (i cur : Nat) : List Nat := (List.range 16).filter (fun y => decide (y ≠ cur) && s.inShare i y 255)

theorem State.mem_otherCes {s : State} {i cur e : Nat} : e ∈ s.otherCes i cur ↔ e < 16 ∧ e ≠ cur ∧ s.inShare i e 255 = true := by
  simp [State.otherCes]

section
variable {s f : State} {j e : Nat} {x : EngJob} (hx : s.job j = x) (hlive : x.live = true) (hstarted : x.started = true) (hs : s.moduleStopped = false)
  (hce : x.ce < 16) (he : e < 16)
  (hf : s.report (1064 + x.ce) { pay clUE with unit := 5, msub := BitVec.ofNat 8 x.ce, ins := BitVec.ofNat 13 x.ins } = f) (hfs : f.moduleStopped = false)
  (hfl : (f.job j).live = true)
include hx hlive hstarted hs hce he hf hfs hfl

/-- A fault of the compression engine of a running job, which its report leaves running. -/
theorem exec_engineFaultDetected_ce : exec (.engineFaultDetected j e) s = .next (
    if (!x.restarted && !(s.otherCes x.ins x.ce).isEmpty && !((s.otherCes x.ins x.ce).contains e && s.ceFree e)) = true then s
    else if (x.restarted || (s.otherCes x.ins x.ce).isEmpty) = true then f.engEarly j (f.job j) scEngineFault
    else f.setJob j { f.job j with ce := e, restarted := true }) := by
  have hcur : x.ce ≠ 255 := by omega
  have hnum : ¬ 24 ≤ e := by omega
  change execEngineFaultDetected j e s = _
  simp only [execEngineFaultDetected, hx, hlive, hstarted, hs, he, hcur, hnum, hf, hfs, hfl, decide_true, decide_false, Bool.not_true, Bool.or_self,
    Bool.false_eq_true, if_false, if_true]
  rfl

/-- The first fault moves the job to a free engine of the share. -/
theorem exec_engineFaultDetected_of_fresh (hne : e ≠ x.ce) (hshare : s.inShare x.ins e 255 = true) (hfree : s.ceFree e = true) (hr : x.restarted = false) :
    exec (.engineFaultDetected j e) s = .next (f.setJob j { f.job j with ce := e, restarted := true }) := by
  have hmem : e ∈ s.otherCes x.ins x.ce := State.mem_otherCes.2 ⟨he, hne, hshare⟩
  have hsome : s.otherCes x.ins x.ce ≠ [] := List.ne_nil_of_mem hmem
  rw [exec_engineFaultDetected_ce hx hlive hstarted hs hce he hf hfs hfl, if_neg (by simp [hmem, hfree]), if_neg (by simp [hr, hsome])]

/-- The second ends it. -/
theorem exec_engineFaultDetected_of_restarted (hr : x.restarted = true) : exec (.engineFaultDetected j e) s = .next (f.engEarly j (f.job j) scEngineFault) := by
  rw [exec_engineFaultDetected_ce hx hlive hstarted hs hce he hf hfs hfl, if_neg (by simp [hr]), if_pos (by simp [hr])]

end

/-! ### The epoch after a reset ends (R579, R580) -/

/-- A job that writes nothing as it goes is squashed with no trace but the count. -/
theorem State.squashJob_of_unstreamed {s : State} {k : Nat} {y : EngJob} (hy : s.job k = y) (hstream : streams y.opc = false) :
    s.squashJob k = (s.setJob k {}).setIns y.ins { s.ins y.ins with cnt := { (s.ins y.ins).cnt with sqeng := (s.ins y.ins).cnt.sqeng + 1 } } := by
  simp only [State.squashJob, hy, State.engPartial, hstream, Bool.not_false, if_true]

section
variable {s : State} {i k : Nat} {y : EngJob} (hs : s.moduleStopped = false)
  (hjobs : s.eng.jobs.filter (fun a => a.2.live && a.2.window && decide (a.2.ins = i)) = [(k, y)])
include hjobs

theorem State.windowOver_of_one : s.windowOver i = (s.time.atEpoch && decide (y.windowAt < s.time.ticks)) := by
  have hany : s.eng.jobs.any (fun e => e.2.live && e.2.window && decide (e.2.ins = i) && decide (e.2.windowAt < s.time.ticks)) = decide (y.windowAt < s.time.ticks) := by
    rw [← List.any_filter, hjobs]
    simp
  rw [State.windowOver, hany]

theorem exec_engineSquashWindowEnd_of_early (hearly : s.time.atEpoch = false ∨ s.time.ticks ≤ y.windowAt) : exec (.engineSquashWindowEnd i) s = .next s := by
  have hover : s.windowOver i = false := by
    rw [State.windowOver_of_one hjobs]
    simpa [or_iff_not_imp_left] using hearly
  change execEngineSquashWindowEnd i s = _
  simp [execEngineSquashWindowEnd, hover]

include hs in
theorem exec_engineSquashWindowEnd_of_over (hepoch : s.time.atEpoch = true) (hpast : y.windowAt < s.time.ticks) : exec (.engineSquashWindowEnd i) s =
    .next (s.squashJob k).startJobs := by
  have hover : s.windowOver i = true := by simp [State.windowOver_of_one hjobs, hepoch, hpast]
  change execEngineSquashWindowEnd i s = _
  simp [execEngineSquashWindowEnd, hs, hover, State.windowEnd, hjobs]

end

/-- Settles O44: a job is taken or refused, starts or completes at once, ends, fails its authentication, meets a fault of its engine, and is squashed. That a digest
which does not fit is not written at all is the model's choice, and its value is that of FIPS 180-4 (log entry 47). -/
theorem engineJobsRunAndEnd : Obligations.EngineJobsRunAndEnd := by
  unfold Obligations.EngineJobsRunAndEnd
  intro s s1 q ce ke opc j k st i e d bs aad aux key p src dst c w r y s0 o t n t1 taken x f
  refine ⟨fun hc hd hshare hadmits hpaid => ⟨fun hbad => ?refused, fun hok => ?taken⟩,
    fun hlive hstarted hs => ⟨fun hrnd => ⟨exec_engineJobEnd_of_boundary rfl hlive hstarted hs hrnd, fun hwin =>
        ⟨exec_engineJobEnd_of_readable rfl hlive hstarted hs hrnd hwin, exec_engineJobEnd_of_unreadable rfl hlive hstarted hs hrnd hwin⟩⟩,
      fun hce he hne hshare hfree hr hfs hfl => exec_engineFaultDetected_of_fresh rfl hlive hstarted hs hce he rfl hfs hfl hne hshare hfree hr,
      fun hce he hr hfs hfl => exec_engineFaultDetected_of_restarted rfl hlive hstarted hs hce he rfl hfs hfl hr⟩,
    fun hkey => ⟨State.startJob_of_ended rfl hkey, State.startJob_of_ok rfl hkey⟩, engRes_sha256 p key bs aad aux w, State.engDeliver_of_failed j,
    fun hs hjobs hy hstream => ⟨exec_engineSquashWindowEnd_of_early hjobs, fun hepoch hpast => ?squashed⟩⟩
  case refused => exact (exec_of_mem_engTakes s _ hc).trans (congrArg _ (State.takeJob_of_refused rfl hd hshare hadmits hpaid hbad))
  case taken => exact (exec_of_mem_engTakes s _ hc).trans (congrArg _ (State.takeJob_of_engOk rfl hd hshare hadmits hpaid hok))
  case squashed =>
    have hmem : (k, y) ∈ s.eng.jobs.filter (fun a => a.2.live && a.2.window && decide (a.2.ins = i)) := by simp [hjobs]
    have hins : y.ins = i := by simpa using (Bool.and_eq_true_iff.1 (List.mem_filter.1 hmem).2).2
    rw [exec_engineSquashWindowEnd_of_over hs hjobs hepoch hpast, State.squashJob_of_unstreamed hy hstream, hins]

end Sys2Proof.Machine
end

section
/-! PROOFS. Folds over sparse tables and over the state: what a fold keeps, and what an entry of a table holds after each entry has been replaced. -/

namespace Sys2Proof.Machine

/-! ### Folds -/

/-- What no step of a fold changes, the fold does not change. -/
theorem foldl_keeps {α β σ : Type} (P : σ → β) (f : σ → α → σ) (h : ∀ t e, P (f t e) = P t) (es : List α) (t : σ) : P (es.foldl f t) = P t :=
  List.foldlRecOn es f (motive := fun u => P u = P t) rfl fun u hu e _ => (h u e).trans hu

/-! ### The entries of a table in canonical form -/

section
variable {α : Type} [DecidableEq α] {d : α}

theorem Tab.keys_of_wfFrom {m : Tab α} : ∀ {b : Option Nat}, Tab.wfFrom d b m = true → (m.map (·.1)).Nodup ∧ ∀ x, b = some x → ∀ e ∈ m, x < e.1 := by
  induction m with
  | nil => simp
  | cons e t ih =>
    intro b h
    simp only [Tab.wfFrom, Bool.and_eq_true, decide_eq_true_eq] at h
    obtain ⟨⟨hb, -⟩, ht⟩ := h
    obtain ⟨hnodup, habove⟩ := ih ht
    have hmem : e.1 ∉ t.map (·.1) := fun hm => by
      obtain ⟨y, hy, heq⟩ := List.mem_map.1 hm
      exact absurd heq (habove _ rfl y hy).ne'
    refine ⟨List.nodup_cons.2 ⟨hmem, hnodup⟩, fun x hx y hy => ?_⟩
    subst hx
    have hxe : x < e.1 := by simpa using hb
    rcases List.mem_cons.1 hy with rfl | hy
    · exact hxe
    · exact hxe.trans (habove _ rfl y hy)

theorem Tab.nodup_keys {m : Tab α} (h : Tab.wf d m = true) : (m.map (·.1)).Nodup := (Tab.keys_of_wfFrom h).left

omit [DecidableEq α] in
theorem Tab.get_of_notMem_keys {m : Tab α} {k : Nat} (h : k ∉ m.map (·.1)) : Tab.get d m k = d := by
  induction m with
  | nil => rfl
  | cons e t ih =>
    rw [List.map_cons, List.mem_cons, not_or] at h
    rw [Tab.get, if_neg (Ne.symm h.left), ih h.right]

omit [DecidableEq α] in
theorem Tab.get_of_mem {m : Tab α} (hn : (m.map (·.1)).Nodup) {e : Nat × α} (h : e ∈ m) : Tab.get d m e.1 = e.2 := by
  induction m with
  | nil => simp at h
  | cons a t ih =>
    rw [List.map_cons, List.nodup_cons] at hn
    rcases List.mem_cons.1 h with rfl | h
    · exact if_pos rfl
    · have hne : a.1 ≠ e.1 := fun heq => hn.left (heq ▸ List.mem_map_of_mem h)
      rw [Tab.get, if_neg hne, ih hn.right h]

omit [DecidableEq α] in
theorem Tab.mem_of_get_ne {m : Tab α} {k : Nat} (h : Tab.get d m k ≠ d) : (k, Tab.get d m k) ∈ m := by
  induction m with
  | nil => exact absurd rfl h
  | cons a t ih =>
    by_cases hk : a.1 = k
    · have hget : Tab.get d (a :: t) k = a.2 := if_pos hk
      rw [hget, ← hk]
      exact List.mem_cons_self
    · have hget : Tab.get d (a :: t) k = Tab.get d t k := if_neg hk
      rw [hget] at h ⊢
      exact List.mem_cons_of_mem _ (ih h)

/-- Each entry of a table replaced by f of it: what is read is f of what was read. -/
theorem Tab.get_foldl_set_map (f : α → α) {m : Tab α} (h : (m.map (·.1)).Nodup) (k : Nat) :
    ∀ t : Tab α, Tab.get d (m.foldl (fun u e => Tab.set d u e.1 (f e.2)) t) k = if k ∈ m.map (·.1) then f (Tab.get d m k) else Tab.get d t k := by
  induction m with
  | nil => simp
  | cons e es ih =>
    intro t
    rw [List.map_cons, List.nodup_cons] at h
    rw [List.foldl_cons, ih h.right]
    by_cases hk : k = e.1
    · subst hk
      simp [h.left, Tab.get]
    · have hget : Tab.get d (e :: es) k = Tab.get d es k := if_neg (Ne.symm hk)
      simp only [List.map_cons, List.mem_cons, hk, false_or, hget, Tab.get_set_ne _ _ _ _ _ hk]

theorem Tab.get_map_of_wf (f : α → α) (hd : f d = d) {m : Tab α} (h : Tab.wf d m = true) (k : Nat) :
    Tab.get d (m.foldl (fun u e => Tab.set d u e.1 (f e.2)) m) k = f (Tab.get d m k) := by
  rw [Tab.get_foldl_set_map f (Tab.nodup_keys h)]
  split
  · rfl
  · next hk => rw [Tab.get_of_notMem_keys hk, hd]

end

end Sys2Proof.Machine
end

section
/-! PROOFS. Queues, vectors and resets go on (12 R593, R594, R601 to R606, R610, R615, R620 to R626). -/

namespace Sys2Proof.Machine

/-! ### Doorbells and rings (R593, R594, R601) -/

section
variable {s s2 : State} {q : Nat} (hs : s.moduleStopped = false)
include hs

theorem exec_completionRingPoll : exec (.completionRingPoll q) s = .next (s.poll q) := by
  change execCompletionRingPoll q s = _
  simp [execCompletionRingPoll, hs]

variable (hm : (s.qp q).made = true) (he : (s.qp q).err = false) (hr : (s.ins (s.qpOwner q)).st = .running) (hk : (s.qp q).kind = 0) (hb : (s.qp q).bell = true)
include hm he hr hk hb

/-- What follows when the tail word of queue pair q, at a, has been read or could not be. -/
def State.tailTaken (q sqlog : Nat) : State × Option (List Byte) → State
  | (t, none) => t
  | (t, some bs) => ((t.setQp q { t.qp q with tail := ofLe bs % 2 ^ 16 % 2 ^ sqlog }).poll q).skipRefused q

theorem exec_queueDoorbell_of_rung {r : State × Option (List Byte)} (hread : (s.setQp q { s.qp q with bell := false }).qpRead q (s.qp q).tailptr 8 = r) :
    exec (.queueDoorbell q) s = .next (State.tailTaken q (s.qp q).sqlog r) := by
  have hopen : (!(s.qp q).bell || !(s.qp q).made || (s.qp q).err || s.moduleStopped || decide ((s.ins (s.qpOwner q)).st ≠ .running)) = false := by
    simp [hs, hm, he, hr, hb]
  have hkind : (s.qp q).kind ≠ 1 := by simp [hk]
  change execQueueDoorbell q s = _
  simp only [execQueueDoorbell, if_neg hkind, hopen, Bool.false_eq_true, if_false]
  exact congrArg (fun a => Host.Outcome.next (State.tailTaken q (s.qp q).sqlog a)) hread

end

/-! ### The refill of an epoch (R610, R615) -/

/-- A bucket after an epoch's refill. -/
def Bucket.filled (b : Bucket) : Bucket := { b with bal := min (b.bal + (b.rate : Int)) (b.burst : Int) }

theorem Bucket.filled_default : ({} : Bucket).filled = {} := rfl

/-- An instance whose buckets an epoch has refilled. -/
def Inst.filled (x : Inst) : Inst := { x with bks := x.bks.foldl (fun m e => Tab.set {} m e.1 e.2.filled) x.bks }

theorem Inst.bk_filled {x : Inst} (h : Tab.wf {} x.bks = true) (c : Nat) : x.filled.bk c = (x.bk c).filled :=
  Tab.get_map_of_wf Bucket.filled Bucket.filled_default h c

/-- Each instance listed is replaced by f of it. -/
theorem State.ins_foldl_setIns (f : Inst → Inst) (j : Nat) : ∀ (is : Tab Inst), (is.map (·.1)).Nodup → ∀ s : State,
    (is.foldl (fun t e => t.setIns e.1 (f (t.ins e.1))) s).ins j = if j ∈ is.map (·.1) then f (s.ins j) else s.ins j := by
  intro is
  induction is with
  | nil => simp
  | cons e es ih =>
    intro hn s
    rw [List.map_cons, List.nodup_cons] at hn
    rw [List.foldl_cons, ih hn.right]
    by_cases hj : j = e.1
    · subst hj
      simp [hn.left]
    · simp only [List.map_cons, List.mem_cons, hj, false_or, State.ins_setIns_ne _ _ _ _ hj]

theorem State.ins_refill {s : State} (h : Tab.wf {} s.inst.insts = true) (j : Nat) :
    s.refill.ins j = if j ∈ s.inst.insts.map (·.1) then (s.ins j).filled else s.ins j :=
  State.ins_foldl_setIns Inst.filled j s.inst.insts (Tab.nodup_keys h) s

theorem State.bk_refill {s : State} (h : Tab.wf {} s.inst.insts = true) (hb : ∀ e ∈ s.inst.insts, Tab.wf {} e.2.bks = true) (j c : Nat) :
    s.refill.bk j c = (s.bk j c).filled := by
  rw [State.bk, State.bk, State.ins_refill h]
  split
  · next hj =>
    obtain ⟨e, he, rfl⟩ := List.mem_map.1 hj
    have hget : s.ins e.1 = e.2 := Tab.get_of_mem (Tab.nodup_keys h) he
    exact Inst.bk_filled (hget ▸ hb e he) c
  · next hj =>
    have hget : s.ins j = {} := Tab.get_of_notMem_keys hj
    rw [hget]
    rfl

theorem State.refilled_refill (s : State) : s.refill.inst.refilled = s.inst.refilled :=
  foldl_keeps (fun t : State => t.inst.refilled) _ (by intros; rfl) _ _

theorem exec_tokenRefill_of_not_due {s : State} (h : s.time.atEpoch = false ∨ s.inst.refilled = true) : exec .tokenRefill s = .next s := by
  have hdue : s.refillDue = false := by rcases h with h | h <;> simp [State.refillDue, h]
  change execTokenRefill s = _
  simp [execTokenRefill, hdue]

theorem exec_tokenRefill_of_due {s : State} (he : s.time.atEpoch = true) (hr : s.inst.refilled = false) :
    exec .tokenRefill s = .next ({ s with inst := { s.inst with refilled := true } } : State).refill := by
  have hdue : s.refillDue = true := by simp [State.refillDue, he, hr]
  change execTokenRefill s = _
  simp [execTokenRefill, hdue]

/-! ### Moderated vectors (R603, R606) -/

theorem exec_vvecModerationExpiry {s : State} {v : Nat} (hd : (s.vv v).deferred = true) : exec (.vvecModerationExpiry v) s =
    .next (if (s.vv v).next ≤ s.time.ticks then (s.setVv v { s.vv v with deferred := false }).vvGive v (s.vv v).dest else s) := by
  change execVvecModerationExpiry v s = _
  simp [execVvecModerationExpiry, hd]

/-! ### The end of a drain (R596, R620 to R626) -/

/-- What the end of instance i's drain leaves, but for the answer to its command. -/
def State.drainFinished (s : State) (i : Nat) : State :=
  ({ s.dropHeld i with dpx := { (s.dropHeld i).dpx with peerDone := (s.dropHeld i).dpx.peerDone.filter (· ≠ i) } } : State).finishReset i

section
variable {s : State} {i m : Nat} (hs : s.moduleStopped = false) (hup : s.pupUp = true) (hst : (s.ins i).st = .draining) (hdef : (s.ins i).deferred = false)
  (hwait : (s.ins i).epochWait = false) (hfull : s.fullConf = true) (hdr : s.drained i = true)
include hs hup hst hdef hwait hfull hdr

theorem exec_drainComplete_of_over (hmb : (s.ins i).drainMb = some m)
    (hpair : s.dpx.st ≠ .paired ∨ ((s.ins i).sideDone = true ∧ s.dpx.peerDone.contains i = true)) :
    exec (.drainComplete i) s = .next ((s.drainFinished i).mbDone m scOk ((s.dropHeld i).resetResp i)) := by
  have hside : (decide (s.dpx.st = .paired) && !(s.ins i).sideDone) = false := by
    rcases hpair with h | ⟨h, -⟩ <;> simp [h]
  have hpeer : (decide (s.dpx.st = .paired) && !s.dpx.peerDone.contains i) = false := by
    rcases hpair with h | ⟨-, h⟩ <;> simp only [h, decide_false, Bool.false_and, Bool.not_true, Bool.and_false]
  change execDrainComplete i s = _
  rw [execDrainComplete, s.live_of_running _ hs]
  simp only [State.drainEnd, hst, hdef, hwait, hfull, hdr, hup, hside, hpeer, hmb, ne_eq, not_true_eq_false, decide_false, Bool.not_true, Bool.or_self, Bool.false_eq_true, if_false]
  rfl

theorem exec_drainComplete_of_unpeered (hp : s.dpx.st = .paired) (hside : (s.ins i).sideDone = false) (hpeer : s.dpx.peerDone.contains i = false) :
    exec (.drainComplete i) s = .next ((s.setIns i { s.ins i with sideDone := true }).twinSend 0 (doneBytes i) none) := by
  change execDrainComplete i s = _
  rw [execDrainComplete, s.live_of_running _ hs]
  simp only [State.drainEnd, hst, hdef, hwait, hfull, hdr, hup, hp, hside, hpeer, ne_eq, not_true_eq_false, decide_true, decide_false, Bool.not_true, Bool.not_false, Bool.and_self,
    Bool.or_self, Bool.false_eq_true, if_true, if_false]

end

theorem exec_resetDeferredAccept {s : State} {i : Nat} (hup : s.pupUp = true) (hdef : (s.ins i).deferred = true)
    (hw : s.work i (fun g => g = ((s.ins i).gen + 1) % 256) = 0) (hmb : (s.ins i).drainMb = none) :
    exec (.resetDeferredAccept i) s = .next (s.acceptReset i) := by
  change execResetDeferredAccept i s = _
  simp [execResetDeferredAccept, hup, hdef, hw, hmb]

/-! ### What a reset leaves of the parts it does not name -/

section
variable (s : State) (i : Nat)

theorem State.clearVvs_eng : (s.clearVvs i).eng = s.eng := foldl_keeps State.eng _ (by intros; rfl) _ _
theorem State.clearVvs_qps : (s.clearVvs i).inst.qps = s.inst.qps := foldl_keeps (fun t : State => t.inst.qps) _ (by intros; rfl) _ _

theorem State.clearBells_eng : (s.clearBells i).eng = s.eng := by
  unfold State.clearBells
  rw [foldl_keeps State.eng, foldl_keeps State.eng]
  all_goals intro t e; split <;> rfl

theorem State.qp_clearBells {k : Nat} (h : (s.qp k).bell = false) : (s.clearBells i).qp k = s.qp k := by
  unfold State.clearBells
  rw [foldl_keeps (fun t : State => t.qp k) _ (fun t e => by split <;> rfl)]
  refine List.foldlRecOn (motive := fun t : State => t.qp k = s.qp k) _ _ rfl fun t ht e _ => ?_
  split
  · next hbell =>
    have hne : k ≠ e := fun hk => by subst hk; rw [ht, h] at hbell; exact absurd hbell Bool.false_ne_true
    rw [State.qp_setQp_ne _ _ _ _ hne, ht]
  · exact ht

theorem State.releasePlan_eng : (s.releasePlan i).eng = s.eng := by
  unfold State.releasePlan
  dsimp only
  refine (foldl_keeps State.eng _ (fun t e => ?_) _ _).trans ?_
  · split <;> rfl
  · rw [foldl_keeps State.eng, foldl_keeps State.eng, foldl_keeps State.eng, foldl_keeps State.eng] <;> intros <;> rfl

theorem State.stopArray_inst : (s.stopArray i).1.inst = s.inst := by
  unfold State.stopArray
  dsimp only
  rw [foldl_keeps State.inst, foldl_keeps State.inst] <;> intros <;> rfl

theorem State.clearVats_inst : (s.clearVats i).inst = s.inst := foldl_keeps State.inst _ (by intros; rfl) _ _

theorem State.dropJobs_inst (w : Bool) : (s.dropJobs i w).1.inst = s.inst := by
  unfold State.dropJobs
  cases w
  all_goals dsimp only
  · rw [if_neg Bool.false_ne_true, foldl_keeps State.inst]
    intros; rfl
  · rw [if_pos rfl, foldl_keeps State.inst, foldl_keeps State.inst] <;> intros <;> rfl

theorem State.output_inst (lp : Nat) (bs : List Byte) : (s.output lp bs).inst = s.inst := by
  unfold State.output
  split <;> rfl

theorem State.sendAbort_inst (l k : Nat) : (s.sendAbort l k).inst = s.inst := by
  unfold State.sendAbort
  dsimp only
  split
  · rfl
  · exact State.output_inst _ _ _

theorem State.drainLed_inst : (s.drainLed i).1.inst = s.inst := by
  unfold State.drainLed
  dsimp only
  rw [foldl_keeps State.inst _ (by intros; rfl), foldl_keeps State.inst]
  intro t l
  split
  · rfl
  · exact State.sendAbort_inst _ _ _

theorem State.ins_gen_finishReset : ((s.finishReset i).ins i).gen = (s.ins i).gen := by
  unfold State.finishReset
  dsimp only
  split
  · rw [State.ins_setIns_self]
  · split <;> rw [State.ins_setIns_self] <;> rfl

theorem State.finishReset_eng : (s.finishReset i).eng = (s.emptyKeys i).eng := by
  unfold State.finishReset
  dsimp only
  split
  · rw [State.setIns_eng, State.releasePlan_eng, State.clearBells_eng, State.clearVvs_eng]
  · split <;> rw [State.setIns_eng, State.clearBells_eng, State.clearVvs_eng]

theorem State.key_emptyKeys {k : Nat} (h : k ∈ (s.ins i).plan.slots) : (s.emptyKeys i).key k = none := by
  have hfold : ∀ (ks : List Nat) (t : State), k ∈ ks ∨ t.key k = none → (ks.foldl (fun t k => t.setKey k none) t).key k = none := by
    intro ks
    induction ks with
    | nil => simp
    | cons a ks ih =>
      intro t ht
      refine ih _ ?_
      by_cases hk : k = a
      · subst hk
        exact Or.inr (State.key_setKey_self _ _ _)
      · rw [State.key_setKey_ne _ _ _ _ hk]
        simpa [hk] using ht
  exact hfold _ _ (Or.inl h)

theorem State.key_finishReset {k : Nat} (h : k ∈ (s.ins i).plan.slots) : (s.finishReset i).key k = none := by
  rw [State.key, State.finishReset_eng]
  exact s.key_emptyKeys i h

end

/-- The generation number that the acceptance of a reset gives (R620). -/
theorem State.ins_gen_acceptReset (s : State) (i : Nat) : ((s.acceptReset i).ins i).gen = ((s.ins i).gen + 1) % 256 := by
  unfold State.acceptReset
  dsimp only
  split
  · rw [State.ins_setIns_self]
  · rw [State.ins_gen_finishReset, State.ins_setIns_self]

theorem Qp.afterReset_afterReset (x : Qp) : x.afterReset.afterReset = x.afterReset := rfl

theorem State.qp_foldl_afterReset (k : Nat) (qs : List Nat) : ∀ s : State,
    (qs.foldl (fun t q => t.setQp q (t.qp q).afterReset) s).qp k = if k ∈ qs then (s.qp k).afterReset else s.qp k := by
  induction qs with
  | nil => simp
  | cons q qs ih =>
    intro s
    rw [List.foldl_cons, ih]
    by_cases hk : k = q
    · subst hk
      simp [Qp.afterReset_afterReset]
    · simp [hk, State.qp_setQp_ne]

theorem State.qp_acceptReset {s : State} {i k : Nat} (hfull : s.fullConf = true) (h : k ∈ (s.ins i).plan.qps) : (s.acceptReset i).qp k = (s.qp k).afterReset := by
  have hset : ∀ (t : State) (x : Inst), (t.setIns i x).qp k = t.qp k := fun _ _ => rfl
  have hinst : ∀ t u : State, t.inst = u.inst → t.qp k = u.qp k := fun t u e => by rw [State.qp, e]; rfl
  have hmarks : ∀ (ps : List Nat) (t : State), (ps.foldl (fun t h => if (t.part h).comp then t.setPart h { t.part h with comp := false } else t) t).qp k = t.qp k :=
    foldl_keeps (fun t : State => t.qp k) _ (fun t e => by split <;> rfl)
  have hreset := State.qp_foldl_afterReset k (s.ins i).plan.qps s
  rw [if_pos h] at hreset
  have hclear : ∀ t : State, (t.clearVvs i).qp k = t.qp k := fun t => by rw [State.qp, State.clearVvs_qps]; rfl
  unfold State.acceptReset
  simp only [hfull, if_true, hset]
  rw [hinst _ _ (State.drainLed_inst _ i), hinst _ _ (State.dropJobs_inst _ i _), hinst _ _ (State.clearVats_inst _ i), hinst _ _ (State.stopArray_inst _ i),
    State.qp_clearBells, hmarks, hclear, hreset]
  rw [hmarks, hclear, hreset]
  rfl

/-! ### The end of old work (R623) -/

/-- The ledger entries of work that goes on at endpoint e. -/
def State.epBusy (s : State) (e : Nat) : Bool := s.chan.led.any (fun l => decide (l.2.ep = e) && decide (l.2.st ≠ .free) && decide (l.2.st ≠ .retired))

theorem State.ep_foldl_return (p : Nat × Endp → Bool) (v : Nat) : ∀ (es : List (Nat × Endp)) (s : State),
    (es.foldl (fun t e => if p e then t.setEp e.1 {} else t) s).ep v = if es.any (fun e => decide (e.1 = v) && p e) then {} else s.ep v := by
  intro es
  induction es with
  | nil => simp
  | cons e es ih =>
    intro s
    rw [List.foldl_cons, ih, List.any_cons]
    by_cases hv : e.1 = v
    · subst hv
      cases p e <;> simp only [decide_true, Bool.true_and, Bool.true_or, Bool.false_or, Bool.false_eq_true, if_true, if_false, State.ep_setEp_self, ite_self]
    · cases p e <;> simp only [hv, decide_false, Bool.false_and, Bool.false_or, Bool.false_eq_true, if_true, if_false, State.ep_setEp_ne _ _ _ _ (Ne.symm hv)]

/-- The end of old work of instance i frees this entry of the endpoints. -/
def State.epReturns (s : State) (i : Nat) (e : Nat × Endp) : Bool :=
  decide (e.2.owner = some i) && !e.2.made && !(decide ((s.ins i).st ≠ .none) && (s.ins i).plan.epsL.contains e.1) && !s.epBusy e.1

/-- An endpoint that a removed plan held, once no entry of old work names it, is free. -/
theorem exec_oldWorkEnd {s : State} {i v : Nat} (hwf : Tab.wf {} s.chan.eps = true) (hplan : (s.ins i).st = .none ∨ (s.ins i).plan.epsL.contains v = false)
    (hown : (s.ep v).owner = some i) (hmade : (s.ep v).made = false) :
    ∃ u, exec (.oldWorkEnd i) s = .next u ∧ u.ep v = if s.epBusy v then s.ep v else {} := by
  have hne : s.ep v ≠ {} := fun h => by rw [h] at hown; exact absurd hown (by simp)
  have hmem : (v, s.ep v) ∈ s.chan.eps := Tab.mem_of_get_ne hne
  have hfree : (decide ((s.ins i).st ≠ .none) && (s.ins i).plan.epsL.contains v) = false := by
    rcases hplan with h | h
    · simp [h]
    · rw [h, Bool.and_false]
  have hreturns : s.epReturns i (v, s.ep v) = !s.epBusy v := by
    simp only [State.epReturns, hown, hmade, hfree, decide_true, Bool.not_false, Bool.and_self, Bool.true_and]
  have hany : s.chan.eps.any (fun e => decide (e.1 = v) && s.epReturns i e) = !s.epBusy v := by
    rw [← hreturns, Bool.eq_iff_iff, List.any_eq_true]
    refine ⟨fun ⟨e, he, hev⟩ => ?_, fun h => ⟨_, hmem, by simp [h]⟩⟩
    obtain ⟨hkey, hret⟩ := Bool.and_eq_true_iff.1 hev
    have hget : s.ep e.1 = e.2 := Tab.get_of_mem (Tab.nodup_keys hwf) he
    rwa [← of_decide_eq_true hkey, hget]
  refine ⟨_, rfl, (State.ep_foldl_return (s.epReturns i) v s.chan.eps s).trans ?_⟩
  rw [hany]
  cases s.epBusy v <;> rfl

/-- Settles O43: a doorbell, the refill of an epoch, a moderated vector, the end of a drain and a deferred reset by what each command does; then what a reset
leaves of the keys, the generation and the queue pairs, and the end of old work. -/
theorem queuesVectorsAndResetsGoOn : Obligations.QueuesVectorsAndResetsGoOn := by
  unfold Obligations.QueuesVectorsAndResetsGoOn
  intro s s2 q v i m bs x y w d s1
  refine ⟨fun hs => ⟨exec_completionRingPoll hs, fun hm he hr hk hb => ⟨exec_queueDoorbell_of_rung hs hm he hr hk hb, exec_queueDoorbell_of_rung hs hm he hr hk hb⟩⟩,
    exec_tokenRefill_of_not_due, fun he hr hwf hbs => ⟨_, exec_tokenRefill_of_due he hr, State.refilled_refill _, State.bk_refill hwf hbs⟩,
    fun hd hearly => (exec_vvecModerationExpiry hd).trans (congrArg _ (if_neg hearly.not_ge)), fun hd hdue => (exec_vvecModerationExpiry hd).trans (congrArg _ (if_pos hdue)),
    rfl, fun hup => ⟨fun hst hdef hwait hfull hdr hmb => ⟨fun hs => exec_drainComplete_of_over hs hup hst hdef hwait hfull hdr hmb,
        exec_drainComplete_of_unpeered (hup := hup) (hst := hst) (hdef := hdef) (hwait := hwait) (hfull := hfull) (hdr := hdr)⟩, exec_resetDeferredAccept hup⟩,
    ⟨fun k => s.key_finishReset i, s.ins_gen_acceptReset i, fun hfull k => State.qp_acceptReset hfull⟩, exec_oldWorkEnd⟩

end Sys2Proof.Machine
end

section
/-! PROOFS. The instance commands of the mailboxes (12 R583 to R592, R614, R620 to R625, 15 R723, R724, R726), each once it runs. -/

namespace Sys2Proof.Machine

section
variable {s : State} {m : Nat}

/-! ### The instance table and plans (R584, R586, R588) -/

theorem exec_instTable (h : s.runs m 0x0201 = true) : exec (.instTable m) s = .next (if s.liveInsts = [] then
    ({ s with inst := { s.inst with tableSize := s.mbP m 0 2, keepFull := false } } : State).mbDone m 0 [] else s.mbDone m 0x0504 []) := by
  change execInstTable m s = _
  by_cases hl : s.liveInsts = [] <;> simp [execInstTable, h, hl, scOk, scInstState]

/-- The state once instance i has been given the plan of mailbox m, with full buckets. -/
def State.planGiven (s : State) (m i : Nat) : State :=
  ((s.firstCreate.allot i (s.planOf m)).clearLog i).setIns i { st := .prepared, gen := (s.ins i).gen, plan := s.planOf m, bks := s.planBuckets m, arrWt := (s.planOf m).arrWt }

section
variable (h : s.runs m 0x0202 = true) (hi : s.mbInst m ≠ 0) (hst : (s.ins (s.mbInst m)).st = .none)
include h hi hst

theorem exec_instCreate_of_bad (hbad : s.planBad m = true) : exec (.instCreate m) s = .next (s.mbDone m 0x0502 []) := by
  change execInstCreate m s = _
  simp [execInstCreate, h, hi, hst, hbad, scPlanInvalid]

theorem exec_instCreate_of_taken (hok : s.planBad m = false) (ht : s.planTaken (s.planOf m) = true) : exec (.instCreate m) s = .next (s.mbDone m 0x0501 []) := by
  change execInstCreate m s = _
  simp [execInstCreate, h, hi, hst, hok, ht, scPoolEmpty]

theorem exec_instCreate_of_free (hok : s.planBad m = false) (ht : s.planTaken (s.planOf m) = false) : exec (.instCreate m) s =
    .next (({ s.planGiven m (s.mbInst m) with pup := { (s.planGiven m (s.mbInst m)).pup with maint := false } } : State).mbDone m 0 []) := by
  change execInstCreate m s = _
  simp only [execInstCreate, h, hi, hst, hok, ht, ne_eq, not_true_eq_false, decide_false, Bool.not_true, Bool.or_self, Bool.false_eq_true, if_false]
  rfl

end

/-! ### Queue pairs (R592, R724) -/

theorem exec_qpSetup_of_closed (h : s.runs m 0x0203 = true) (ho : s.setupOpen (s.mbInst m) = false) : exec (.qpSetup m) s = .next (s.mbDone m 0x0504 []) := by
  change execQpSetup m s = _
  simp [execQpSetup, h, ho, scInstState]

/-- The queue pair that mailbox m sets up for instance i. -/
def State.newQp (s : State) (m : Nat) : Qp :=
  { owner := some (s.mbInst m), made := true, kind := s.mbP m 4 1, sqlog := s.mbP m 5 1, cqlog := s.mbP m 6 1, sqbase := s.mbP m 8 8, cqbase := s.mbP m 16 8,
    tailptr := s.mbP m 24 8, headptr := s.mbP m 32 8, vvec := s.mbP m 40 4, ph := s.mbP m 44 2, bell := (s.qp (s.mbP m 0 4)).bell }

/-- A queue pair of kind 0 without a virtual vector. -/
theorem exec_qpSetup (h : s.runs m 0x0203 = true) (ho : s.setupOpen (s.mbInst m) = true) (hm : (s.qp (s.mbP m 0 4)).made = false)
    (hown : s.mayOwn (s.mbInst m) (s.qp (s.mbP m 0 4)).owner = true) (hsq : s.mbP m 8 8 % 2 ^ (6 + s.mbP m 5 1) = 0) (hcq : s.mbP m 16 8 % 2 ^ (5 + s.mbP m 6 1) = 0)
    (htail : s.mbP m 24 8 % 8 = 0) (hhead : s.mbP m 32 8 % 8 = 0) (hv : s.mbP m 40 4 = 0xFFFFFFFF) (hk : s.mbP m 4 1 = 0) :
    exec (.qpSetup m) s = .next ((s.setQp (s.mbP m 0 4) (s.newQp m)).mbDone m 0 []) := by
  change execQpSetup m s = _
  simp [execQpSetup, State.newQp, h, ho, hm, hown, hsq, hcq, htail, hhead, hv, hk, vvNone, scOk]

/-! ### Endpoints (10 R500, R501) -/

/-- A path of a new endpoint, by the state of its port (10 R502, R541). -/
def State.newPath (s : State) (p : Path) : Path :=
  { p with st := if s.lostPort p.lport then PathSt.failed else if (s.port p.lport).st = 2 then PathSt.connecting else PathSt.down, failAt := s.time.start }

/-- The endpoint of the record in mailbox m. -/
def State.newEndp (s : State) (m : Nat) : Endp :=
  { owner := some (s.mbInst m), made := true, typ := s.mbP m 2 1, policy := s.mbP m 6 1, devtmo := orDefault (s.mbP m 8 2) 64, retest := orDefault (s.mbP m 0x0A 2) 1024,
    optmo := orDefault (s.mbP m 0x0C 4) 31457280, abtmo := orDefault (s.mbP m 0x10 4) 2097152, kato := orDefault (s.mbP m 0x14 4) 10485760, paths := (s.recPaths m).map s.newPath,
    nqn := s.mbPBytes m 320 224 }

/-- What an earlier endpoint e learnt of the formats of its namespaces goes (10 R814). -/
def State.forgetFormats (s : State) (e : Nat) : State := { s with chan := { s.chan with formats := s.chan.formats.filter (fun x => decide (x.1 / 2 ^ 32 ≠ e)) } }

section
variable (h : s.runs m 0x0204 = true) (ho : s.setupOpen (s.mbInst m) = true)
include h ho

theorem exec_epCreate_of_made (hm : (s.ep (s.mbP m 0 2)).made = true) : exec (.epCreate m) s = .next (s.mbDone m 0x0502 []) := by
  change execEpCreate m s = _
  simp [execEpCreate, h, ho, hm, scPlanInvalid]

/-- An NVMe endpoint with one path, at a PCIe port of its group. -/
theorem exec_epCreate_of_nvme {e : Nat} {p : Path} (he : s.mbP m 0 2 = e) (hm : (s.ep e).made = false) (hown : s.mayOwn (s.mbInst m) (s.ep e).owner = true) (hps : s.recPaths m = [p])
    (hmode : (s.group (p.lport / 8)).mode = 1) (ht : s.mbP m 2 1 = 1) (hport : p.lport % 8 < (s.group (p.lport / 8)).ports.length) :
    exec (.epCreate m) s = .next (State.mbDone (if ((s.newEndp m).path 0).st = .connecting then
      ((s.forgetFormats e).firstCreate.setEp e (s.newEndp m)).connect e 0 else (s.forgetFormats e).firstCreate.setEp e (s.newEndp m)) m 0 []) := by
  subst he
  have hbad : (s.recPaths m).any (fun p => !modeSuits (s.group (p.lport / 8)).mode (s.mbP m 2 1) || decide ((s.group (p.lport / 8)).ports.length ≤ p.lport % 8)) = false := by
    simp [hps, hmode, ht, modeSuits, hport]
  have hids : s.tooManyIds (s.mbP m 2 1) (s.recPaths m) = false := by simp [State.tooManyIds, ht]
  have hlen : (s.newEndp m).paths.length = 1 := by simp [State.newEndp, hps]
  change execEpCreate m s = _
  simp only [execEpCreate, h, ho, hm, hown, hbad, hids, Bool.not_true, Bool.or_self, Bool.false_eq_true, if_false]
  change Host.Outcome.next (State.mbDone ((List.range (s.newEndp m).paths.length).foldl _ _) m scOk []) = _
  rw [hlen]
  rfl

end

/-- The first path of an endpoint record. -/
def State.recPath0 (s : State) (m : Nat) : Path :=
  { lport := s.mbP m 0x40 1, pflags := s.mbP m 0x41 1, paddr := s.mbP m 0x42 2, npid := s.mbP m 0x44 4, wwpn := s.mbP m 0x48 8, ip := s.mbPBytes m 0x50 16 }

theorem State.recPaths_of_one (h : s.mbP m 3 1 = 1) : s.recPaths m = [s.recPath0 m] := by
  rw [State.recPaths, h]
  rfl

theorem State.st_newPath_of_served {p : Path} (h : s.lostPort p.lport = false) : (s.newPath p).st = if (s.port p.lport).st = 2 then .connecting else .down := by
  rw [State.newPath, h]
  rfl

/-! ### Partition handles (09 R472) -/

section
variable (h : s.runs m 0x0205 = true) (ho : s.setupOpen (s.mbInst m) = true)
include h ho

theorem exec_partSetup_of_planned (hp : (s.part (s.mbP m 0 2)).planned = true) : exec (.partSetup m) s = .next (s.mbDone m 0x0502 []) := by
  change execPartSetup m s = _
  simp [execPartSetup, h, ho, hp, scPlanInvalid]

/-- A handle without Vats of an instance other than 0. -/
theorem exec_partSetup {n : Nat} (hn : s.mbP m 0 2 = n) (hi : s.mbInst m ≠ 0) (hp : (s.part n).planned = false) (hown : s.mayOwn (s.mbInst m) (s.part n).owner = true)
    (ha : s.mbP m 8 8 % 4096 = 0) (hnear : isNear (s.mbP m 8 8) = true) (hcarve : isCarve (s.mbP m 8 8) = false) (hq : s.mbP m 2 1 < s.nSqs)
    (hmask : bit (s.ins (s.mbInst m)).plan.sqMask (s.mbP m 2 1) = true) (hvats : s.mbP m 16 32 = 0) : exec (.partSetup m) s =
    .next ((s.setPart n { owner := some (s.mbInst m), planned := true, sq := s.mbP m 2 1, save := s.mbP m 8 8, bell := (s.part n).bell }).mbDone m 0 []) := by
  subst hn
  have hnone : (List.range 256).filter (fun v => bit (s.mbP m 16 32) v) = [] := List.filter_eq_nil_iff.2 fun v _ => by simp [hvats, bit]
  change execPartSetup m s = _
  simp [execPartSetup, h, ho, hi, hp, hown, ha, hnear, hcarve, hq, hmask, hnone, scOk]

end

/-! ### Start, reset, status and changes (R614, R620 to R626, 15 R723, R724) -/

theorem exec_instStart (h : s.runs m 0x0206 = true) : exec (.instStart m) s =
    .next (if s.mbInst m ≠ 0 ∧ (s.ins (s.mbInst m)).st = .prepared ∧ s.planSetUp (s.mbInst m) = true then
      (s.setIns (s.mbInst m) { s.ins (s.mbInst m) with st := .running }).mbDone m 0 [] else s.mbDone m 0x0504 []) := by
  change execInstStart m s = _
  by_cases hgo : s.mbInst m ≠ 0 ∧ (s.ins (s.mbInst m)).st = .prepared ∧ s.planSetUp (s.mbInst m) = true
  · obtain ⟨hi, hst, hset⟩ := hgo
    simp [execInstStart, h, hi, hst, hset, scOk]
  · have hno : (decide (s.mbInst m = 0) || decide ((s.ins (s.mbInst m)).st ≠ .prepared) || !s.planSetUp (s.mbInst m)) = true := by
      simpa [or_iff_not_imp_left, Classical.not_and_iff_not_or_not] using hgo
    simp only [execInstStart, h, if_neg hgo, hno, Bool.not_true, Bool.false_eq_true, if_false, if_true]
    rfl

/-- INST_RESET and INST_REMOVE of mailbox m, each with its opcode and whether it removes.
Noncomputable: no compiled value can hold the tag of so late a constructor of Instr. -/
noncomputable def resetCommands (m : Nat) : List (Instr × Nat × Bool) := [(.instReset m, 0x0207, false), (.instRemove m, 0x0208, true)]

theorem exec_of_mem_resetCommands {c : Instr} {op : Nat} {rem : Bool} (hc : (c, op, rem) ∈ resetCommands m) (h : s.runs m op = true) :
    exec c s = .next (s.resetCommand m rem) := by
  simp only [resetCommands, List.mem_cons, List.not_mem_nil, or_false, Prod.mk.injEq] at hc
  obtain ⟨rfl, rfl, rfl⟩ | ⟨rfl, rfl, rfl⟩ := hc
  · change execInstReset m s = _
    simp [execInstReset, h]
  · change execInstRemove m s = _
    simp [execInstRemove, h]

section
variable (rem : Bool)

theorem State.resetCommand_of_none (h : s.mbInst m = 0 ∨ (s.ins (s.mbInst m)).st = .none) : s.resetCommand m rem = s.mbDone m 0x0504 [] := by
  rcases h with h | h <;> simp [State.resetCommand, h, scInstState]

variable (hi : s.mbInst m ≠ 0) (hst : (s.ins (s.mbInst m)).st ≠ .none)
include hi hst

theorem State.resetCommand_of_busy (h : (s.ins (s.mbInst m)).st = .draining ∨ (s.ins (s.mbInst m)).epochWait = true) : s.resetCommand m rem = s.mbDone m 0x0503 [] := by
  rcases h with h | h <;> simp [State.resetCommand, hi, hst, h, scInstBusy]

theorem State.resetCommand_of_begun {r : State} (hr : s.beginReset (s.mbInst m) (some m) rem false = r) (hd : (s.ins (s.mbInst m)).st ≠ .draining)
    (hw : (s.ins (s.mbInst m)).epochWait = false) : s.resetCommand m rem =
    if r.fullConf || (r.ins (s.mbInst m)).deferred || (r.ins (s.mbInst m)).epochWait then r else r.mbDone m 0 (r.resetResp (s.mbInst m)) := by
  simp [State.resetCommand, hi, hst, hd, hw, hr, scOk]

end

/-- The states of an instance as INST_STATUS codes them (15 R723). -/
def InstSt.code : InstSt → Nat
  | .none => 0 | .prepared => 1 | .running => 2 | .draining => 3 | .isolated => 4

theorem exec_instStatus (h : s.runs m 0x0209 = true) (hi : s.mbInst m ≠ 0) : exec (.instStatus m) s = .next (s.mbDone m 0
    (leBytes 1 (s.ins (s.mbInst m)).st.code ++ leBytes 1 (s.ins (s.mbInst m)).gen ++ [0, 0] ++ leBytes 4 (s.heldLeds (s.mbInst m)) ++ leBytes 4 (s.oldWork (s.mbInst m)))) := by
  change execInstStatus m s = _
  simp only [execInstStatus, h, hi, Bool.not_true, Bool.false_eq_true, if_false]
  rfl

theorem exec_instSet (h : s.runs m 0x020A = true) (hst : (s.ins (s.mbInst m)).st ≠ .none) : exec (.instSet m) s =
    .next ((s.setIns (s.mbInst m) { s.ins (s.mbInst m) with pend := (s.ins (s.mbInst m)).pend ++ [(s.mbP m 0 1, s.mbP m 1 1, s.mbP m 4 4)] }).mbDone m 0 []) := by
  change execInstSet m s = _
  simp [execInstSet, h, hst, scOk]

end

/-- Settles O49, command by command. -/
theorem instanceCommands : Obligations.InstanceCommands := by
  unfold Obligations.InstanceCommands
  intro s m i x f p q made given
  refine ⟨exec_instTable, fun h hi hst => ⟨exec_instCreate_of_bad h hi hst, exec_instCreate_of_taken h hi hst, exec_instCreate_of_free h hi hst⟩,
    exec_qpSetup, exec_qpSetup_of_closed,
    fun h ho => ⟨exec_epCreate_of_made h ho, fun hm hown hnp hmode ht hport => ?created⟩,
    exec_partSetup_of_planned, fun h ho => exec_partSetup h ho rfl, exec_instStart,
    fun c op hc h => ?refused, fun c op rem hc h hi hst hd hw => ?begun, exec_instStatus, exec_instSet⟩
  case created =>
    intro fresh hserved up
    have hps := State.recPaths_of_one hnp
    have hst : ((s.newEndp m).path 0).st = if (s.port (f 0x40 1)).st = 2 then .connecting else .down := by
      rw [Endp.path, State.newEndp, hps]
      exact State.st_newPath_of_served hserved
    have hup : ((s.newEndp m).path 0).st = .connecting ↔ up = true := by
      rw [hst, decide_eq_true_iff]
      split <;> simp_all
    refine ⟨s.newEndp m, (exec_epCreate_of_nvme h ho rfl hm hown hps hmode ht hport).trans ?_, rfl, rfl, ht, rfl, rfl, ?_⟩
    · simp only [hup]
      rfl
    · simp only [hst, up, decide_eq_true_iff]
  case refused =>
    have hmem : ∃ rem, (c, op, rem) ∈ resetCommands m := by
      simpa [resetCommands] using hc
    obtain ⟨rem, hmem⟩ := hmem
    exact ⟨fun hnone => (exec_of_mem_resetCommands hmem h).trans (congrArg _ (State.resetCommand_of_none rem hnone)),
      fun hi hst hbusy => (exec_of_mem_resetCommands hmem h).trans (congrArg _ (State.resetCommand_of_busy rem hi hst hbusy))⟩
  case begun => exact (exec_of_mem_resetCommands hc h).trans (congrArg _ (State.resetCommand_of_begun rem hi hst rfl hd hw))

end Sys2Proof.Machine
end

section
/-! PROOFS. The upkeep of the memories (13 R628 to R646, R652, R653, R656 to R662): the scrub of a stripe and what its decode finds, the check of a far block, the
marking of a device, and the sweep. -/

namespace Sys2Proof.Machine

/-! ### Little-endian fields of a list of bytes -/

theorem leAt_leBytes (n x : Nat) (bs : List Byte) : leAt (leBytes n x ++ bs) 0 n = x % 256 ^ n := by
  rw [leAt, List.drop_zero, List.take_left' (leBytes_length n x), ofLe_leBytes]

theorem leAt_append_right {as : List Byte} {o : Nat} (h : as.length = o) (bs : List Byte) (n : Nat) : leAt (as ++ bs) o n = leAt bs 0 n := by
  rw [leAt, List.drop_left' h, leAt, List.drop_zero]

/-! ### Decoding (R633 to R637) -/

section
variable {s : State} {st c p : Nat}

theorem decodeWords_of_one : decodeWords st [(c, p)] = [(c, p)] := by
  simp [decodeWords, wrongIn]

theorem decodeWords_of_two {c2 p2 : Nat} (h : c ≠ c2) : decodeWords st [(c, p), (c2, p2)] = [(c, p), (c2, p2)] := by
  simp [decodeWords, wrongIn, h, h.symm]

section
variable (hm : s.markedIn (st % 8 / 4) = [])
include hm

theorem State.decode_of_one : s.decode st [(c, p)] = if p < 12 then .fixed p else .bad := by
  simp [State.decode, hm, decodeWords_of_one]

theorem State.decode_of_two {c2 p2 : Nat} (hc : c ≠ c2) (hp : p ≠ p2) : s.decode st [(c, p), (c2, p2)] = .bad := by
  simp [State.decode, hm, decodeWords_of_two hc, hp]

theorem State.decodeRep_of_fixed (pf : BitVec 3 → Payload) (hp : p < 12) : s.decodeRep st [(c, p)] pf =
    (s.report (912 + 12 * (st % 8 / 4) + p) (pf clCE)).attribute (12 * (st % 8 / 4) + p) 1 (pf clDE) := by
  simp [State.decodeRep, State.decode_of_one hm, hm, hp, decodeWords_of_one]

theorem State.decodeRep_of_bad (pf : BitVec 3 → Payload) (hp : 12 ≤ p) : s.decodeRep st [(c, p)] pf = s.report (904 + st % 8) (pf clUE) := by
  simp [State.decodeRep, State.decode_of_one hm, hm, hp.not_gt, decodeWords_of_one]

end

section
variable {d : Nat} (hm : s.markedIn (st % 8 / 4) = [d])
include hm

theorem State.decode_of_erased {errs : List (Nat × Nat)} (hne : errs ≠ []) (hall : ∀ e ∈ errs, e.2 = d) : s.decode st errs = .erased := by
  have h : errs.all (fun e => decide (e.2 = d)) = true := List.all_eq_true.2 fun e he => decide_eq_true (hall e he)
  simp only [State.decode, hm, h, List.isEmpty_iff, hne, if_false, if_true]

theorem State.decodeRep_of_erased {errs : List (Nat × Nat)} (pf : BitVec 3 → Payload) (hne : errs ≠ []) (hall : ∀ e ∈ errs, e.2 = d) : s.decodeRep st errs pf = s := by
  simp [State.decodeRep, State.decode_of_erased hm hne hall, hm]

theorem State.decode_of_unmarked (hp : p ≠ d) : s.decode st [(c, p)] = .bad := by
  simp [State.decode, hm, hp]

end

theorem State.settleStripe_of_bad (h : s.decode st (s.errsOf st) = .bad) : s.settleStripe st = s.poisonStripe st := by
  simp [State.settleStripe, State.decodeNow, h]

theorem State.seeStripe_of_errs (pf : BitVec 3 → Payload) (h : s.errsOf st ≠ []) : s.seeStripe st pf =
    if s.decode st (s.errsOf st) = .bad then (s.decodeRep st (s.errsOf st) pf).poisonStripe st else s.decodeRep st (s.errsOf st) pf := by
  simp only [State.seeStripe, State.decodeNow, List.isEmpty_iff, h, if_false]
  rfl

end

/-! ### The layout of a stripe (R628 to R630) -/

theorem deviceOf_stripe {b : Nat} (st : Nat) (h : b < 640) : deviceOf (640 * st + b) = 12 * (st % 8 / 4) + b / 2 % 10 := by
  have hst : (640 * st + b) / 640 = st := by omega
  have hb : (640 * st + b) % 640 = b := by omega
  rw [deviceOf, stripeOf, hst, hb, posOf, symOf]

theorem State.length_codeword (s : State) (st c : Nat) : (s.codeword st c).length = 12 := by
  unfold State.codeword
  dsimp only
  split <;> simp

/-! ### The check of a far block (R652, R653) -/

theorem crc64Bit_lt {r : Nat} (h : r < 2 ^ 64) : crc64Bit r < 2 ^ 64 := by
  unfold crc64Bit
  split
  · exact Nat.xor_lt_two_pow (Nat.mod_lt _ (by decide)) (by decide)
  · next hbit =>
    have hodd : r / 2 ^ 63 % 2 ≠ 1 := by simpa [bit] using hbit
    omega

theorem crc64Byte_lt {r : Nat} (b : Byte) (h : r < 2 ^ 64) : crc64Byte r b < 2 ^ 64 :=
  List.foldlRecOn (motive := fun x => x < 2 ^ 64) _ _ (Nat.xor_lt_two_pow h (by have := b.isLt; omega)) fun _ hx _ _ => crc64Bit_lt hx

theorem crc64_lt (bs : List Byte) : crc64 bs < 2 ^ 64 :=
  List.foldlRecOn (motive := fun x => x < 2 ^ 64) _ _ (by decide) fun _ hx b _ => crc64Byte_lt b hx

/-- The number of a block stands in the lowest bits of the second word of its check. -/
theorem State.fld_farTail (s : State) (blk : Nat) : fld (leAt (s.farTail blk) 0 8) 0 44 = blk % 2 ^ 44 := by
  have hle : ∀ b : Bool, b2n b ≤ 1 := by decide
  have h1 := hle (s.mem.farPoison.contains (2 * blk))
  have h2 := hle (s.mem.farPoison.contains (2 * blk + 1))
  have hword : leAt (s.farTail blk) 0 8 =
      (b2n (s.mem.farPoison.contains (2 * blk)) * 2 ^ 62 + b2n (s.mem.farPoison.contains (2 * blk + 1)) * 2 ^ 63 + blk % 2 ^ 44) % 256 ^ 8 := by
    rw [State.farTail, ← leAt_leBytes 8 _ [], List.append_nil]
  rw [hword, fld]
  omega

theorem State.farVerify_farCheck (s : State) (blk : Nat) : farVerify blk (Tab.getMany 0 s.mem.far (256 * blk) 256) (s.farCheck blk) = true := by
  have hcrc : leAt (s.farCheck blk) 0 8 = crc64 (Tab.getMany 0 s.mem.far (256 * blk) 256 ++ s.farTail blk) :=
    (leAt_leBytes 8 _ _).trans (Nat.mod_eq_of_lt (crc64_lt _))
  have hdrop : (s.farCheck blk).drop 8 = s.farTail blk := List.drop_left' (leBytes_length 8 _)
  have htail : leAt (s.farCheck blk) 8 8 = leAt (s.farTail blk) 0 8 := leAt_append_right (leBytes_length 8 _) _ 8
  rw [farVerify, hcrc, hdrop, htail, s.fld_farTail]
  simp

theorem State.seeBlock_of_failing {s : State} {num n : Nat} (pf : BitVec 3 → Payload) (h : Tab.get 0 s.mem.farFail (num / 2) = n + 2) :
    s.seeBlock num pf = s.report (968 + (128 * num - farLo) / 2 ^ 41 % 8) (pf clUE) := by
  rw [State.seeBlock, h]
  rfl

/-! ### Marking (R635, R636) -/

theorem State.markDev_of_marked {s : State} {d : Nat} (r : Nat) (q : Payload) (h : (s.nmdev d).marked = true) : s.markDev d r q = s := by
  simp [State.markDev, h]

theorem State.markDev_of_unmarked {s : State} {d : Nat} (r : Nat) (q : Payload) (h : (s.nmdev d).marked = false) : s.markDev d r q =
    (s.setNmdev d { s.nmdev d with marked := true, reason := BitVec.ofNat 4 r }).report (912 + d) { q with cls := if s.markedIn (d / 12) = [] then clDE else clFD } := by
  rcases hm : s.markedIn (d / 12) with _ | ⟨m, ms⟩ <;> simp [State.markDev, h, hm]

/-! ### The scrub (R643 to R646) -/

/-- One symbol comes into error. -/
theorem State.bring_symbol {s : State} (cc : Nat) {st c p : Nat} (hc : c < 32) (hp : p ≤ 12) (hst : st < 2 ^ 27) (hnew : (c, p) ∉ s.errsOf st) :
    s.bring cc st (c, p) = { s with mem := { s.mem with errs := Tab.set [] s.mem.errs st (s.errsOf st ++ [(c, p)]) } } := by
  have h0 : c / 32 = 0 := Nat.div_eq_of_lt hc
  have hmod : c % 32 = c := Nat.mod_eq_of_lt hc
  have hgo : (decide (st < 2 ^ 27) && !(s.errsOf st).contains (c, p)) = true := by
    rw [decide_eq_true hst]
    simpa using hnew
  simp only [State.bring, hp, h0, hmod, hgo, if_true]

section
variable {s : State} {cc : Nat}

theorem exec_scrubStep_of_due (errs : List (Nat × Nat)) (hs : s.moduleStopped = false) (hon : s.mem.scrubOn = true) (he : s.time.atEpoch = true) (hph : s.mem.scrubPh = 0)
    (hnew : cc ∉ s.mem.scrubbed) : exec (.scrubStep cc errs) s = .next (s.scrubStep cc errs) := by
  have hdue : s.scrubDue cc = true := by simp [State.scrubDue, hs, hon, he, hph, hnew]
  change execScrubStep cc errs s = _
  rw [execScrubStep, if_pos hdue]

theorem exec_scrubStep_of_not_due (errs : List (Nat × Nat)) (h : s.mem.scrubOn = false ∨ s.time.atEpoch = false ∨ s.mem.scrubPh ≠ 0 ∨ cc ∈ s.mem.scrubbed) :
    exec (.scrubStep cc errs) s = .next s := by
  have hdue : s.scrubDue cc = false := by rcases h with h | h | h | h <;> simp [State.scrubDue, h]
  change execScrubStep cc errs s = _
  rw [execScrubStep, hdue]
  rfl

end

/-! ### The sweep (R656 to R662) -/

section
variable {s : State} {u : Nat}

theorem exec_sweepStep_of_due (r : SweepResult) (hs : s.moduleStopped = false) (hx : s.sweepExists u = true) (he : s.time.atEpoch = true)
    (hnew : (Tab.get {} s.mem.sweep u : SweepUnit).stepped = false) : exec (.sweepStep u r) s = .next (s.sweepStep u r) := by
  have hdue : s.sweepDue u = true := by simp [State.sweepDue, hs, hx, he, hnew]
  change execSweepStep u r s = _
  rw [execSweepStep, if_pos hdue]

theorem exec_sweepStep_of_not_due (r : SweepResult) (h : s.time.atEpoch = false ∨ (Tab.get {} s.mem.sweep u : SweepUnit).stepped = true) :
    exec (.sweepStep u r) s = .next s := by
  have hdue : s.sweepDue u = false := by rcases h with h | h <;> simp [State.sweepDue, h]
  change execSweepStep u r s = _
  rw [execSweepStep, hdue]
  rfl

end

/-- Settles O45: the scrub and the sweep by their commands, then the decode of a stripe by the symbols in error and the marks of its group, the check of a far block,
and marking. That passes are counted with channel 0 (log entry 88), the numbers of the sweep's units (log entry 53), and the sources and levels of the repaired
columns (log entry 177) are the model's choices. -/
theorem memoryUpkeep : Obligations.MemoryUpkeep := by
  unfold Obligations.MemoryUpkeep
  intro s cc st c c2 p p2 d r u col num n errs q pf k a g f x y m j nxt t rep mac used
  exact ⟨fun hs => ⟨exec_scrubStep_of_due errs hs, exec_scrubStep_of_not_due errs, exec_sweepStep_of_not_due .clean,
      fun hx he hnew => ⟨exec_sweepStep_of_due .clean hs hx he hnew, exec_sweepStep_of_due .abandoned hs hx he hnew, exec_sweepStep_of_due (.badColumn col) hs hx he hnew⟩⟩,
    State.bring_symbol cc, rfl, State.settleStripe_of_bad, State.seeStripe_of_errs pf,
    fun hm hp => ⟨(State.decode_of_one hm).trans (if_pos hp), State.decodeRep_of_fixed hm pf hp⟩, fun hm => State.decode_of_two hm,
    fun hm hp => ⟨(State.decode_of_one hm).trans (if_neg hp.not_gt), State.decodeRep_of_bad hm pf hp⟩,
    fun hm hne hall => ⟨State.decode_of_erased hm hne hall, State.decodeRep_of_erased hm pf hne hall⟩, State.decode_of_unmarked,
    fun b hb => ⟨rfl, deviceOf_stripe st hb, s.length_codeword st c⟩, s.farVerify_farCheck st, State.seeBlock_of_failing pf, State.markDev_of_marked r q, State.markDev_of_unmarked r q⟩

end Sys2Proof.Machine
end

section
/-! PROOFS. The Rind collector (14 R667 to R670, R674 to R684, R692) and counter snapshots (17 R782 to R784). -/

namespace Sys2Proof.Machine

/-! ### Alarms, payloads and wires (R667 to R670) -/

@[simp] theorem State.setSrc_setSrc (s : State) (n : Nat) (x y : RSrc) : (s.setSrc n x).setSrc n y = s.setSrc n y := by simp [State.setSrc]

section
variable {s : State} {n : Nat}

theorem State.lt_of_present (h : s.srcAbsent n = false) : n < 2048 := by
  simp only [State.srcAbsent, Bool.or_eq_false_iff, decide_eq_false_iff_not] at h
  omega

section
variable (h : s.srcAbsent n = false)
include h

theorem exec_rindAlarm (pulse : Bool) (p : Option Payload) : exec (.rindAlarm n pulse p) s = .next (s.alarmIn n pulse p) := by
  have hn := State.lt_of_present h
  have hmod : n % 2048 = n := Nat.mod_eq_of_lt hn
  have hgo : (s.srcAbsent n || decide (4096 ≤ n)) = false := by
    rw [h, Bool.false_or, decide_eq_false_iff_not]
    omega
  have hplain : (decide (n < 2048) || p.isNone) = true := by simp [hn]
  change execRindAlarm n pulse p s = _
  simp only [execRindAlarm, hmod, hgo, hplain, Bool.false_eq_true, if_false, if_true]

/-- A report in the cycle of an acknowledgement (log entry 185). -/
theorem exec_rindAlarm_of_race (pulse : Bool) (p : Payload) : exec (.rindAlarm (2048 + n) pulse (some p)) s =
    .next ((s.alarmIn n pulse (some p)).setSrc n { (s.alarmIn n pulse (some p)).src n with race := some s.time.ticks }) := by
  have hn := State.lt_of_present h
  have hmod : (2048 + n) % 2048 = n := by omega
  have hgo : (s.srcAbsent n || decide (4096 ≤ 2048 + n)) = false := by
    rw [h, Bool.false_or, decide_eq_false_iff_not]
    omega
  have hrace : (decide (2048 + n < 2048) || (some p).isNone) = false := by simp
  change execRindAlarm (2048 + n) pulse (some p) s = _
  simp only [execRindAlarm, hmod, hgo, hrace, Bool.false_eq_true, if_false]

theorem exec_rindWireFault (hw : (s.src n).wire = false) : exec (.rindWireFault n) s =
    .next ((s.setSrc n { s.src n with wire := true, susp := true }).report n { pay clDE with atype := 0x0E }) := by
  change execRindWireFault n s = _
  simp [execRindWireFault, h, hw, State.suspect, payType]

end

theorem State.alarmIn_of_waited (p : Payload) (h : 0 < (s.src n).alarm) :
    s.alarmIn n false (some p) = (s.setSrc n { s.src n with alarm := (s.src n).alarm - 1 }).report n p := by
  simp [State.alarmIn, h.ne', State.setAlarm]

theorem State.alarmIn_of_unwaited (p : Payload) (h : (s.src n).alarm = 0) : s.alarmIn n false (some p) = (s.setSrc n { s.src n with susp := true }).report n p := by
  simp [State.alarmIn, h, State.suspect]

theorem exec_rindPayloadTimeout (h : 0 < (s.src n).alarm) : exec (.rindPayloadTimeout n) s =
    .next ((s.setSrc n { s.src n with alarm := (s.src n).alarm - 1, susp := true }).report n { pay clUE with atype := 0x0F }) := by
  change execRindPayloadTimeout n s = _
  simp [execRindPayloadTimeout, h.ne', State.setAlarm, State.suspect, payType]

/-! ### Acknowledgement (R676, R680, R692) -/

theorem exec_rindAcknowledge (h : (s.src n).pend = true) : exec (.rindAcknowledge n) s = .next (s.acknowledge n) := by
  change execRindAcknowledge n s = _
  rw [execRindAcknowledge, if_pos h]

theorem State.acknowledge_of_race (h : (s.src n).race = some s.time.ticks) : s.acknowledge n = s.setSrc n { s.src n with race := none } := if_pos h

theorem State.pend_acknowledge (h : (s.src n).race ≠ some s.time.ticks) : ((s.acknowledge n).src n).pend = false := by
  have hfree : s.acknowledge n = (s.setSrc n { s.src n with pend := false, last := [] }).erFall n := if_neg h
  have hsrc : (s.acknowledge n).src n = (s.setSrc n { s.src n with pend := false, last := [] }).src n := by rw [hfree]; rfl
  rw [hsrc, State.src_setSrc_self]

/-! ### The levels of a report that names no core, of a source without a record (R674, R680, R684) -/

section
variable {p : Payload} (hs : s.rind.stopped = false) (hc : masterCore p = none) (hpend : (s.src n).pend = false)
include hs hc hpend

/-- A report is recorded, and from L1 on raises its source at the router; from L4 on it stops the module. -/
theorem State.report_of_fresh {lvl : Nat} (hl : s.takenLevel n p = lvl) : s.report n p =
    let t := if 1 ≤ lvl then (s.recordReport n p lvl).rindRise n else s.recordReport n p lvl
    if lvl < 3 then t else if lvl = 3 then t.isolate n p else if s.dpx.st = .paired then (t.isolate n p).fenceModule else (t.isolate n p).stopModule := by
  have hmchk : ∀ t : State, t.routeMchk n p lvl = t := fun t => by rw [State.routeMchk, hc]
  simp only [State.report, hs, hl, hpend, hmchk, Bool.not_false, Bool.true_or, Bool.and_true, Bool.false_eq_true, if_false, decide_eq_true_eq]

omit hs hpend in
theorem State.isolate_of_none (t : State) (hi : p.ins = 0) : t.isolate n p = t := by
  have hf : faultCore n p = none := by simp [faultCore, hc]
  simp [State.isolate, hf, hi]

theorem State.report_of_low {lvl : Nat} (hl : s.takenLevel n p = lvl) (h : lvl = 1 ∨ lvl = 2) : s.report n p = (s.recordReport n p lvl).rindRise n := by
  rw [State.report_of_fresh hs hc hpend hl]
  rcases h with rfl | rfl <;> rfl

theorem State.report_of_stopping (hl : s.takenLevel n p = 5) (hi : p.ins = 0) : s.report n p =
    if s.dpx.st = .paired then ((s.recordReport n p 5).rindRise n).fenceModule else ((s.recordReport n p 5).rindRise n).stopModule := by
  have hnone := State.isolate_of_none (n := n) hc ((s.recordReport n p 5).rindRise n) hi
  rw [State.report_of_fresh hs hc hpend hl]
  exact congrArg (fun t : State => if s.dpx.st = .paired then t.fenceModule else t.stopModule) hnone

end

/-! ### What no longer goes on after a stop (R684) -/

/-- Events that release, capture, seal, retire or complete, of core, ledger entry or instance n. Noncomputable: no compiled value can hold the tag of so late a
constructor of Instr. -/
noncomputable def stoppedEvents (n : Nat) : List Instr :=
  [.missDataArrival n, .storeRelease n, .fenceComplete n, .fenceSComplete n, .fenceDComplete n, .tlbiComplete n, .cacheCleanComplete n, .checkpointCapture n,
    .sealCompare n true, .sealCompare n false, .restoreComplete n, .targetAccept n 0, .abortAnswer n, .quiesceElapsed n, .drainComplete n, .batchMark]

theorem exec_of_stopped (h : s.moduleStopped = true) : ∀ c ∈ stoppedEvents n, exec c s = .next s := by
  have hlive : ∀ t : State, (Host.Outcome.next (s.live t) : Out) = .next s := fun t => congrArg _ (s.live_of_stopped t h)
  have hmiss : execMissDataArrival n s = .next s := by simp [execMissDataArrival, h]
  have hstore : execStoreRelease n s = .next s := by simp [execStoreRelease, h]
  have hcapture : execCheckpointCapture n s = .next s := by simp [execCheckpointCapture, h]
  have hmark : execBatchMark s = .next s := by simp [execBatchMark, State.markDue, h]
  simp only [stoppedEvents, List.forall_mem_cons]
  exact ⟨hmiss, hstore, hlive _, hlive _, hlive _, hlive _, hlive _, hcapture, hlive _, hlive _, hlive _, hlive _, hlive _, hlive _, hlive _, hmark, List.forall_mem_nil _⟩

/-! ### Snapshots (17 R782 to R784) -/

theorem exec_counterSnapshot_of_snapped (h : s.perf.snapped = true) : exec .counterSnapshot s = .next s := by
  have hdue : s.snapDue = false := by simp [State.snapDue, h]
  change execCounterSnapshot s = _
  rw [execCounterSnapshot, hdue]
  rfl

/-- The state in which a snapshot is written: its number has been counted. -/
def State.snapCounted (s : State) : State := { s with perf := { s.perf with seq := s.perf.seq + 1, snapped := true } }

theorem State.snapWrite_eq (a q : Nat) : s.snapWrite a q = (s.snapBody.2.agentWrite (a + 8) s.snapBody.1).agentWrite a (leBytes 8 q) := by
  unfold State.snapWrite
  generalize s.snapBody = r
  rfl

/-- A snapshot is written at address a, or its slot would reach the carve-out. -/
theorem State.snapshot_eq {a : Nat} (ha : s.perf.base.toNat + 2 ^ 17 * (s.perf.seq % s.perf.nslot) = a) : s.snapshot =
    if carveLo < a + 2 ^ 17 then { s with perf := { s.perf with snapped := true, fault := true } }
    else (s.snapCounted.snapBody.2.agentWrite (a + 8) s.snapCounted.snapBody.1).agentWrite a (leBytes 8 (s.perf.seq + 1)) := by
  unfold State.snapshot
  dsimp only
  rw [Nat.add_sub_cancel, ha, State.snapWrite_eq]
  rfl

theorem exec_counterSnapshot_of_due (hen : s.perf.snapEn = true) (he : s.time.atEpoch = true) (hnew : s.perf.snapped = false)
    (hi : s.time.dtime.toNat / 1024 % s.perf.interval = 0) (hs : s.moduleStopped = false) : exec .counterSnapshot s = .next s.snapshot := by
  have hdue : s.snapDue = true := by simp [State.snapDue, hen, he, hnew, hi, hs]
  change execCounterSnapshot s = _
  rw [execCounterSnapshot, if_pos hdue]

end

/-- Settles O46: alarms, payloads and wires by their commands, an acknowledgement by whether a report came in its cycle, a report by its level, the events that a stop
ends, and a snapshot. The operand 2048 + n of an alarm (log entry 185), and that commands have no effect after a stop (log entry 120), are the model's choices. -/
theorem collectorAndSnapshots : Obligations.CollectorAndSnapshots := by
  unfold Obligations.CollectorAndSnapshots
  intro s n p lvl x quiet susp snap a
  refine ⟨fun h => ⟨exec_rindAlarm h true none, exec_rindAlarm h true (some p), fun ha => ?waited, fun ha => ?unwaited, exec_rindAlarm_of_race h true p, exec_rindWireFault h⟩,
    exec_rindPayloadTimeout, rfl, fun hpend hrace => ⟨exec_rindAcknowledge hpend, State.pend_acknowledge hrace⟩,
    fun hpend hrace => (exec_rindAcknowledge hpend).trans (congrArg _ (State.acknowledge_of_race hrace)), fun hs hl hc hpend => ⟨fun h0 => ?recorded, State.report_of_low hs hc hpend hl, fun h5 => ?stopping⟩,
    exec_of_stopped, exec_counterSnapshot_of_snapped, fun hen he hnew hi hs => (exec_counterSnapshot_of_due hen he hnew hi hs).trans (congrArg _ (State.snapshot_eq rfl))⟩
  case waited => exact (exec_rindAlarm h false (some p)).trans (congrArg _ (State.alarmIn_of_waited p ha))
  case unwaited => exact (exec_rindAlarm h false (some p)).trans (congrArg _ (State.alarmIn_of_unwaited p ha))
  case recorded => exact State.report_of_fresh hs hc hpend (hl.trans h0)
  case stopping => exact State.report_of_stopping hs hc hpend (hl.trans h5)

end Sys2Proof.Machine
end

section
/-! PROOFS. The Puppeteer boots and restarts (15 R697, R698, R700, R705, R706). -/

namespace Sys2Proof.Machine

section
variable {s : State}

/-! ### Restarts (R697, R698) -/

/-- What a restart leaves: its report, and the Puppeteer not yet serving. -/
def State.pupRestarted (s : State) (src : Nat) (atype : BitVec 8) : State :=
  { s.report src { pay clUE with unit := 0x0A, atype := atype } with pup := { (s.report src { pay clUE with unit := 0x0A, atype := atype }).pup with st := .restart } }

theorem State.pupRestart_of_up (src : Nat) (atype : BitVec 8) (h : s.pupUp = true) : s.pupRestart src atype = s.pupRestarted src atype := by
  rw [State.pupRestart, h]
  rfl

theorem exec_puppeteerWatchdogExpiry_of_unserved (h : 16 ≤ s.pup.unserved) (he : s.time.atEpoch = true) :
    exec .puppeteerWatchdogExpiry s = .next (s.pupRestart 1111 0x10) := by
  change execPuppeteerWatchdogExpiry s = _
  simp [execPuppeteerWatchdogExpiry, h, he]

theorem exec_puppeteerWatchdogExpiry_of_served (h : s.pup.unserved < 16 ∨ s.time.atEpoch = false) : exec .puppeteerWatchdogExpiry s = .next s := by
  change execPuppeteerWatchdogExpiry s = _
  rcases h with h | h
  · simp [execPuppeteerWatchdogExpiry, h.not_ge]
  · simp [execPuppeteerWatchdogExpiry, h]

theorem exec_puppeteerRestartComplete (hst : s.pup.st = .restart) (hl : s.pup.live = none) (hs : s.moduleStopped = false) : exec .puppeteerRestartComplete s =
    .next (State.mbFlush { s with pup := { s.pup with st := if s.mem.trained then .serving else .bringup, unserved := 0, journal := s.pup.taken } }) := by
  change execPuppeteerRestartComplete s = _
  simp only [execPuppeteerRestartComplete, hst, hl, hs, ne_eq, not_true_eq_false, Bool.false_eq_true, if_false]

/-! ### The choice of an image (R700, R705) -/

section
variable (hst : s.pup.st = .boot) (hup : s.boardUp = true) (hf : s.pwr.faulted = false) (hs : s.moduleStopped = false) (hw : s.pwr.warm = false)
include hst hup hf hs hw

/-- What the boot ROM does with its choice. -/
def State.booted : Option Bool × State → State
  | (some b, t) => { t.runImage b with pup := { (t.runImage b).pup with st := .bringup } }
  | (none, t) => { t with pup := { t.pup with st := .recovery } }

section
variable {r : Option Bool × State} (hr : s.loadLevels.bootChoice = r)
include hr

theorem exec_bootImageSelect : exec .bootImageSelect s = .next (State.booted r) := by
  have hgo : (decide (s.pup.st ≠ .boot) || !s.boardUp || s.pwr.faulted || s.moduleStopped) = false := by simp [hst, hup, hf, hs]
  have hcold : (s.pwr.warm && !s.pwr.warmValid) = false := by simp [hw]
  change execBootImageSelect s = _
  unfold execBootImageSelect
  rw [hcold, if_neg Bool.false_ne_true]
  generalize s.loadLevels = u at hr ⊢
  obtain ⟨_ | b, t⟩ := r <;> simp only [hr, hgo, Bool.false_eq_true, if_false] <;> rfl

theorem exec_bootImageSelect_of_image {b : Bool} (h : r.1 = some b) : exec .bootImageSelect s =
    .next { r.2.runImage b with pup := { (r.2.runImage b).pup with st := .bringup } } := by
  rw [exec_bootImageSelect hst hup hf hs hw hr]
  obtain ⟨c, t⟩ := r
  subst h
  rfl

theorem exec_bootImageSelect_of_none (h : r.1 = none) : exec .bootImageSelect s = .next { r.2 with pup := { r.2.pup with st := .recovery } } := by
  rw [exec_bootImageSelect hst hup hf hs hw hr]
  obtain ⟨c, t⟩ := r
  subst h
  rfl

end
end

theorem State.bootChoice_of_no_trial (h : s.pup.bootTrial = false) : s.bootChoice =
    if s.imgOk s.pup.active then (some s.pup.active, s) else if s.imgOk (!s.pup.active) then (some (!s.pup.active), s.notice 0 clDE) else (none, s) := by
  simp only [State.bootChoice, h, Bool.not_false, if_true]

theorem State.bootChoice_of_new_trial (h : s.pup.bootTrial = true) (ht : s.pup.tried = false) (hok : s.imgOk (!s.pup.active) = true) :
    s.bootChoice = (some (!s.pup.active), { s with pup := { s.pup with tried := true, bootSeq := s.pup.bootSeq + 1 } }) := by
  simp only [State.bootChoice, h, ht, hok, Bool.not_true, Bool.false_eq_true, if_false, if_true]

/-- A trial that has been tried ends. -/
theorem State.bootChoice_of_tried (h : s.pup.bootTrial = true) (ht : s.pup.tried = true) (hok : s.imgOk s.pup.active = true) :
    s.bootChoice = (some s.pup.active, ({ s with pup := { s.pup with bootTrial := false, tried := false, bootSeq := s.pup.bootSeq + 1 } } : State).notice 1 clCE) := by
  simp only [State.bootChoice, h, ht, hok, Bool.not_true, Bool.false_eq_true, if_false, if_true]

/-! ### Watchdogs of cores (R706) -/

theorem exec_watchdogExpiry {l : Nat} (hn : (s.core l).wdN ≠ 0) (hdue : (s.core l).wdN ≤ (s.core l).wdCnt) (hl : s.lcNumbered l = true) :
    exec (.watchdogExpiry l) s = .next (s.wdReport l) := by
  have hwd : s.wdDue l = true := by simp [State.wdDue, hn, hdue, hl]
  change execWatchdogExpiry l s = _
  rw [execWatchdogExpiry, if_pos hwd]

end

/-- Settles O47: a restart by its cause and its end, the image that boots by the boot record, and the watchdog of a core. The class, the unit and the access type of a
restart's report (log entry 95), and what counts as service and restarts a watchdog (log entries 99 and 100), are the model's choices. -/
theorem thePuppeteerBootsAndRestarts : Obligations.ThePuppeteerBootsAndRestarts := by
  unfold Obligations.ThePuppeteerBootsAndRestarts
  intro s l b p again r c ended
  have hr : s.loadLevels.bootChoice = r := rfl
  clear_value r
  refine ⟨fun hup => ⟨congrArg _ (State.pupRestart_of_up 1108 0x0D hup), congrArg _ (State.pupRestart_of_up 1109 0x0D hup), fun hn he => ?unserved⟩,
    exec_puppeteerWatchdogExpiry_of_served, exec_puppeteerRestartComplete, fun hst hup hf hs hw => ⟨exec_bootImageSelect_of_image hst hup hf hs hw hr, exec_bootImageSelect_of_none hst hup hf hs hw hr⟩,
    State.bootChoice_of_no_trial, State.bootChoice_of_new_trial, State.bootChoice_of_tried, exec_watchdogExpiry⟩
  case unserved => exact (exec_puppeteerWatchdogExpiry_of_unserved hn he).trans (congrArg _ (State.pupRestart_of_up 1111 0x10 hup))

end Sys2Proof.Machine
end

section
/-! PROOFS. Mailboxes take commands (15 R711 to R717, R730, R731): doorbells, the taking of a command, the board's connections, and the answer to a datagram. -/

namespace Sys2Proof.Machine

section
variable {s : State} {m : Nat}

/-! ### Doorbells (R711, R712) -/

theorem State.ringMailbox_of_free (h : (s.mb m).st = .idle ∨ (s.mb m).st = .done) : s.ringMailbox m = s.setMb m { s.mb m with st := .queued, bell := true } :=
  if_pos (by rcases h with h | h <;> simp [h])
theorem State.ringMailbox_of_taken (h : (s.mb m).st = .queued ∨ (s.mb m).st = .running) : s.ringMailbox m = s :=
  if_neg (by rcases h with h | h <;> simp [h])

theorem exec_mailboxDoorbell (hm : m < 16) (h0 : m ≠ 0) : exec (.mailboxDoorbell m) s = .next (s.ringMailbox m) := by
  change execMailboxDoorbell m s = _
  rw [execMailboxDoorbell, if_neg hm.not_ge, if_neg h0]

/-! ### The taking of a command (R713, R715, R717) -/

/-- The command of mailbox m runs, taken last. -/
def State.mbTaken (s : State) (m : Nat) : State :=
  { s.setMb m { s.mb m with st := .running, comp := false } with
    pup := { (s.setMb m { s.mb m with st := .running, comp := false }).pup with lastTaken := m, taken := s.pup.taken ++ [m] } }

/-- The command of mailbox m is the one completed there last, and no fresh one (R717). -/
def State.mbRepeats (s : State) (m : Nat) : Prop := (s.mb m).lastOp = some (s.mbOp m) ∧ (s.mb m).lastSeq = s.mbSeq m ∧ bit (s.mbF m 2 2) 0 = false

section
variable (hnext : s.nextBox = some m) (hn : s.nRunning < 8)
include hnext hn

theorem exec_mailboxCommandTake : exec (.mailboxCommandTake m) s = .next (
    if ((s.mb m).lastOp = some (s.mbOp m) && decide ((s.mb m).lastSeq = s.mbSeq m) && !bit (s.mbF m 2 2) 0) = true then
      (s.mbTaken m).mbDone m (s.mb m).lastStatus (s.mb m).lastResp
    else ((s.mbTaken m).refusal m).elim (s.mbTaken m) fun st => (s.mbTaken m).mbDone m st []) := by
  have hgo : (decide (s.nextBox ≠ some m) || decide (8 ≤ s.nRunning)) = false := by simp [hnext, hn]
  change execMailboxCommandTake m s = _
  unfold execMailboxCommandTake
  rw [hgo, if_neg Bool.false_ne_true]
  change Host.Outcome.next (if _ then _ else match (s.mbTaken m).refusal m with | some st => _ | none => _) = _
  cases (s.mbTaken m).refusal m <;> rfl

theorem exec_mailboxCommandTake_of_repeated (h : s.mbRepeats m) : exec (.mailboxCommandTake m) s =
    .next ((s.mbTaken m).mbDone m (s.mb m).lastStatus (s.mb m).lastResp) := by
  obtain ⟨hop, hseq, hfresh⟩ := h
  rw [exec_mailboxCommandTake hnext hn, if_pos (by simp [hop, hseq, hfresh])]

section
variable (h : ¬ s.mbRepeats m)
include h

theorem exec_mailboxCommandTake_of_new : exec (.mailboxCommandTake m) s =
    .next (((s.mbTaken m).refusal m).elim (s.mbTaken m) fun st => (s.mbTaken m).mbDone m st []) := by
  rw [exec_mailboxCommandTake hnext hn, if_neg]
  simpa [State.mbRepeats, and_assoc] using h

theorem exec_mailboxCommandTake_of_refused {st : Nat} (hr : (s.mbTaken m).refusal m = some st) : exec (.mailboxCommandTake m) s = .next ((s.mbTaken m).mbDone m st []) := by
  rw [exec_mailboxCommandTake_of_new hnext hn h, hr]
  rfl

theorem exec_mailboxCommandTake_of_accepted (hr : (s.mbTaken m).refusal m = none) : exec (.mailboxCommandTake m) s = .next (s.mbTaken m) := by
  rw [exec_mailboxCommandTake_of_new hnext hn h, hr]
  rfl

end
end

/-! ### The board's connections (R730, R731) -/

/-- Bytes written into mailbox 0. -/
def State.boardPut (s : State) (off : Nat) (bs : List Byte) : State := s.setMb 0 { s.mb 0 with bytes := Tab.setMany 0 (s.mb 0).bytes off bs }

theorem State.boardWrite_of_free (off : Nat) (bs : List Byte) (h : (s.mb 0).st = .idle ∨ (s.mb 0).st = .done) : s.boardWrite off bs = s.boardPut off bs :=
  if_neg (by rcases h with h | h <;> simp [h])
theorem State.boardWrite_of_taken (off : Nat) (bs : List Byte) (h : (s.mb 0).st = .queued ∨ (s.mb 0).st = .running) : s.boardWrite off bs = s :=
  if_pos (by rcases h with h | h <;> simp [h])

section
variable (hup : s.boardUp = true) {off n : Nat} {bs tag : List Byte}
include hup

theorem exec_smbusWrite (ho : off + bs.length ≤ 4096) (hl : bs.length ≤ 32) : exec (.smbusWrite off bs) s = .next (s.boardWrite off bs) := by
  change execSmbusWrite off bs s = _
  simp [execSmbusWrite, hup, ho.not_gt, hl.not_gt]

theorem exec_smbusRead (ho : off + n ≤ 4096) (hl : n ≤ 32) : exec (.smbusRead off n) s =
    .next { s with pup := { s.pup with smbOut := Tab.getMany 0 (s.mb 0).bytes off n } } := by
  change execSmbusRead off n s = _
  simp [execSmbusRead, hup, ho.not_gt, hl.not_gt]

theorem exec_smbusDoorbell (hp : s.dpx.st ≠ .paired) : exec .smbusDoorbell s = .next (s.ringMailbox 0) := by
  change execSmbusDoorbell s = _
  simp [execSmbusDoorbell, hup, s.agree_of_not_paired _ _ hp]

/-- PUPSTAT and MBCTL of mailbox 0, least significant byte first (log entry 55). -/
theorem exec_smbusStatusRead : ∃ u, exec .smbusStatusRead s = .next u ∧ u = { s with pup := { s.pup with smbOut := u.pup.smbOut } }
    ∧ leAt u.pup.smbOut 0 8 = s.pup.stat % 2 ^ 64 ∧ leAt u.pup.smbOut 8 8 = (s.mb 0).ctl % 2 ^ 64 := by
  refine ⟨{ s with pup := { s.pup with smbOut := leBytes 8 s.pup.stat ++ leBytes 8 (s.mb 0).ctl ++ leBytes 1 (b2n (s.mb 0).bell + 2 * b2n (s.mb 0).comp) } }, ?_, rfl, ?_, ?_⟩
  · change execSmbusStatusRead s = _
    simp [execSmbusStatusRead, hup]
  · rw [List.append_assoc]
    exact leAt_leBytes 8 _ _
  · rw [List.append_assoc]
    exact (leAt_append_right (leBytes_length 8 _) _ 8).trans (leAt_leBytes 8 _ _)

section
variable (hen : s.pup.mnEn = true) (hl : bs.length = 4096)
include hen hl

theorem exec_mgmtDatagram_of_wrong (ht : tag ≠ hmacSha256 s.pup.mnKey bs) : exec (.mgmtDatagram bs tag) s =
    .next { s with pup := { s.pup with dropped := s.pup.dropped + 1 } } := by
  change execMgmtDatagram bs tag s = _
  simp [execMgmtDatagram, hup, hen, hl, ht]

theorem exec_mgmtDatagram_of_right (hp : s.dpx.st ≠ .paired) (ht : tag = hmacSha256 s.pup.mnKey bs) (hst : (s.mb 0).st = .idle) : exec (.mgmtDatagram bs tag) s =
    .next (State.setMb { s.boardPut 0 bs with pup := { (s.boardPut 0 bs).pup with netReq := true } } 0 { (s.boardPut 0 bs).mb 0 with st := .queued, bell := true }) := by
  have hput : ((s.boardPut 0 bs).mb 0).st = .idle := by rw [State.boardPut, State.mb_setMb_self, hst]
  have hring := State.ringMailbox_of_free (s := { s.boardPut 0 bs with pup := { (s.boardPut 0 bs).pup with netReq := true } }) (m := 0) (Or.inl hput)
  have hagree : ∀ t : State, ({ s.boardPut 0 bs with pup := { (s.boardPut 0 bs).pup with netReq := true } } : State).agree .board t = t :=
    fun t => State.agree_of_not_paired _ _ t hp
  change execMgmtDatagram bs tag s = _
  simp only [execMgmtDatagram, hup, hen, hl, ← ht, hst, s.boardWrite_of_free 0 bs (Or.inl hst), ne_eq, not_true_eq_false, decide_false, Bool.not_true, Bool.or_self, Bool.false_eq_true,
    reduceCtorEq, if_false, hagree, hring]
  rfl

end
end

/-! ### The answer to a datagram (R714, R730, R731) -/

/-- The answer to a datagram has gone out: mailbox 0 as it stands, and its tag. -/
theorem State.netReply_of_pending {u : State} {key : List Byte} (hreq : u.pup.netReq = true) (hen : u.pup.mnEn = true) (hkey : u.pup.mnKey = key) :
    u.netReply.pup.netReq = false
    ∧ u.netReply.pup.netOut = Tab.getMany 0 (u.netReply.mb 0).bytes 0 4096 ++ hmacSha256 key (Tab.getMany 0 (u.netReply.mb 0).bytes 0 4096) := by
  subst hkey
  have hgone : u.netReply = { u with pup := { u.pup with netReq := false, netOut := Tab.getMany 0 (u.mb 0).bytes 0 4096 ++ hmacSha256 u.pup.mnKey (Tab.getMany 0 (u.mb 0).bytes 0 4096) } } := by
    simp only [State.netReply, hreq, hen, if_true]
  rw [hgone]
  exact ⟨rfl, rfl⟩

/-- Mailbox m with the completion of its command in it. -/
def State.mbAnswered (s : State) (m status : Nat) (r : List Byte) : Mailbox :=
  { s.mb m with
    bytes := Tab.setMany 0 (Tab.setMany 0 (s.mb m).bytes 0x20 r) 0x10 (leBytes 2 status ++ leBytes 2 r.length ++ leBytes 4 0 ++ leBytes 8 s.time.dtime.toNat)
    lastSeq := s.mbSeq m, lastOp := some (s.mbOp m), lastStatus := status, lastResp := r, st := .done, bell := false, comp := true }

/-- The completion of the command of mailbox m has been written. -/
def State.mbWritten (s : State) (m status : Nat) (r : List Byte) : State :=
  { s.setMb m (s.mbAnswered m status r) with pup := { (s.setMb m (s.mbAnswered m status r)).pup with taken := s.pup.taken.filter (· ≠ m), unserved := 0 } }

/-- The completion of a command leaves the board's side of the Puppeteer. -/
theorem State.mbWritten_board (t : State) (m status : Nat) (r : List Byte) : (t.mbWritten m status r).pup.netReq = t.pup.netReq
    ∧ (t.mbWritten m status r).pup.mnEn = t.pup.mnEn ∧ (t.mbWritten m status r).pup.mnKey = t.pup.mnKey :=
  ⟨rfl, rfl, rfl⟩

/-- Without a vector, a completion of mailbox 0 is followed by the answer to a datagram alone. -/
theorem State.mbDone_zero {status : Nat} (resp : List Byte) (hh : s.mbHolds = false) (hv : (s.mb 0).ven = false) :
    s.mbDone 0 status resp = (s.mbWritten 0 status (padTo ((resp.length + 7) / 8 * 8) resp)).netReply := by
  unfold State.mbDone
  rw [if_neg (by simp [hh])]
  unfold State.mbWrite
  dsimp only
  rw [if_neg (by simp [hv]), if_pos rfl]
  rfl

theorem exec_mailboxCommandTake_of_datagram (hnext : s.nextBox = some 0) (hn : s.nRunning < 8) (h : s.mbRepeats 0) (hreq : s.pup.netReq = true) (hen : s.pup.mnEn = true)
    (hh : s.mbHolds = false) (hv : (s.mb 0).ven = false) : ∃ u, exec (.mailboxCommandTake 0) s = .next u ∧ u.pup.netReq = false
      ∧ u.pup.netOut = Tab.getMany 0 (u.mb 0).bytes 0 4096 ++ hmacSha256 s.pup.mnKey (Tab.getMany 0 (u.mb 0).bytes 0 4096) := by
  have hven : ((s.mbTaken 0).mb 0).ven = false := by
    rw [State.mbTaken]
    exact (congrArg Mailbox.ven (s.mb_setMb_self 0 _)).trans hv
  have hholds : (s.mbTaken 0).mbHolds = false := hh
  have hexec := exec_mailboxCommandTake_of_repeated hnext hn h
  rw [State.mbDone_zero _ hholds hven] at hexec
  generalize hu : (s.mbTaken 0).mbWritten 0 _ _ = u at hexec
  refine ⟨u.netReply, hexec, ?_⟩
  have hpup : u.pup.netReq = s.pup.netReq ∧ u.pup.mnEn = s.pup.mnEn ∧ u.pup.mnKey = s.pup.mnKey := hu ▸ State.mbWritten_board (s.mbTaken 0) 0 _ _
  obtain ⟨hreq', hen', hkey⟩ := hpup
  exact State.netReply_of_pending (hreq'.trans hreq) (hen'.trans hen) hkey

end

/-- Settles O48: a doorbell, the taking of a command by whether it repeats the last one and passes the checks, the board's connections, and the answer to a datagram.
The layout of the SMBus status (log entry 55), and that the tag is HMAC-SHA-256 of FIPS 180-4 (log entry 47), are the model's choices. -/
theorem mailboxesTakeCommands : Obligations.MailboxesTakeCommands := by
  unfold Obligations.MailboxesTakeCommands
  intro s m off n st bs tag x y t same put
  refine ⟨fun hm h0 => ⟨fun hfree => (exec_mailboxDoorbell hm h0).trans (congrArg _ (State.ringMailbox_of_free hfree)),
      fun htaken => (exec_mailboxDoorbell hm h0).trans (congrArg _ (State.ringMailbox_of_taken htaken))⟩,
    fun hnext hn => ⟨exec_mailboxCommandTake_of_repeated hnext hn, fun hnot hst => exec_mailboxCommandTake_of_refused hnext hn hnot hst, exec_mailboxCommandTake_of_accepted hnext hn⟩,
    fun hup hp => ⟨fun ho hl hfree => (exec_smbusWrite hup ho hl).trans (congrArg _ (State.boardWrite_of_free off bs hfree)),
      fun ho hl htaken => (exec_smbusWrite hup ho hl).trans (congrArg _ (State.boardWrite_of_taken off bs htaken)), exec_smbusRead hup,
      fun hidle => (exec_smbusDoorbell hup hp).trans (congrArg _ (State.ringMailbox_of_free (Or.inl hidle))), exec_smbusStatusRead hup,
      fun hen hl => ⟨exec_mgmtDatagram_of_wrong hup hen hl, exec_mgmtDatagram_of_right hup hen hl hp⟩⟩,
    fun h0 hnext hn hsame hreq hen hh hv => ?answered⟩
  subst h0
  exact exec_mailboxCommandTake_of_datagram hnext hn hsame hreq hen hh hv

end Sys2Proof.Machine
end


section
/-! PROOFS. The twin link (16 R738 to R742): what its receiver takes and answers, replays, and what the loss and the return of a bundle do. -/

namespace Sys2Proof.Machine

open Host

/-! ### A bundle that has been set -/

@[simp] theorem DpxSub.bnd_setBnd_self (d : DpxSub) (b : Nat) (x : Bundle) : (d.setBnd b x).bnd b = x := by
  rw [DpxSub.bnd, DpxSub.setBnd, Tab.get_set, if_pos rfl]

@[simp] theorem DpxSub.bnd_setCredit (d : DpxSub) (v n b : Nat) : (d.setCredit v n).bnd b = d.bnd b := rfl

@[simp] theorem DpxSub.credit_setCredit_self (d : DpxSub) (v n : Nat) : (d.setCredit v n).credit v = n := by
  rw [DpxSub.credit, DpxSub.setCredit, Tab.get_set, if_pos rfl]

/-- An answer replaces the bundle's last one and leaves the rest of it. -/
theorem DpxSub.bnd_answer (d : DpxSub) (b : Nat) (typ : BitVec 4) : (d.answer b typ).bnd b = { d.bnd b with answer := some ((d.bnd b).answerOf typ) } := by
  rw [DpxSub.answer, DpxSub.bnd_setBnd_self]

/-! ### Flits (R738, R741) -/

section
variable {s : State} {b : Nat} {f : Flit} (hb : b < 2) (hup : (s.dpx.bnd b).st = 2)
include hb hup

theorem exec_twinFlitReceived_of_damaged : exec (.twinFlitReceived b f false) s = .next { s with dpx := s.dpx.answer b 3 } := by
  change execTwinFlitReceived b f false s = _
  have hlive : (decide (2 ≤ b) || decide ((s.dpx.bnd b).st ≠ 2)) = false := by simp [hb, hup]
  simp only [execTwinFlitReceived, hlive, Bool.not_false, Bool.true_or, Bool.false_eq_true, if_false, if_true]

/-- A data flit that acknowledges nothing returns its credits and is received. -/
theorem exec_twinFlitReceived_of_data (ht : f.typ = 1) (ha : f.ackv = false) : exec (.twinFlitReceived b f true) s =
    .next (State.twinPump { s with dpx := (s.dpx.setCredit f.crvc.toNat (Nat.min (vcBuffer f.crvc.toNat) (s.dpx.credit f.crvc.toNat + f.crcnt.toNat))).dataFlit b f }) := by
  change execTwinFlitReceived b f true s = _
  have hlive : (decide (2 ≤ b) || decide ((s.dpx.bnd b).st ≠ 2)) = false := by simp [hb, hup]
  have hkind : (!true || decide (6 ≤ (1 : BitVec 4).toNat)) = false := rfl
  simp only [execTwinFlitReceived, hlive, ht, hkind, State.flitAcks, ha, Bool.false_eq_true, if_false, if_true, List.foldl_nil]

end

/-- The flit in order is taken: the next one is expected, it is acknowledged, and its room is owed back. -/
theorem DpxSub.dataFlit_of_next {d : DpxSub} {b : Nat} {f : Flit} (hseq : f.seq.toNat = (d.bnd b).rxNext) :
    (d.dataFlit b f).bnd b = { d.bnd b with rxNext := ((d.bnd b).rxNext + 1) % 4096, answer := some ({ d.bnd b with rxNext := ((d.bnd b).rxNext + 1) % 4096 }.answerOf 2) }
    ∧ Tab.get 0 (d.dataFlit b f).rxCredits f.vc.toNat = Tab.get 0 d.rxCredits f.vc.toNat + 1 ∧ ∀ v, (d.dataFlit b f).credit v = d.credit v := by
  have hahead : (f.seq.toNat + 4096 - (d.bnd b).rxNext % 4096) % 4096 = 0 := by omega
  unfold DpxSub.dataFlit
  dsimp only
  rw [if_pos hahead]
  refine ⟨?_, ?_, fun v => rfl⟩
  · rw [DpxSub.bnd_answer]
    have hset := d.bnd_setBnd_self b { d.bnd b with rxNext := ((d.bnd b).rxNext + 1) % 4096 }
    exact congrArg (fun y : Bundle => { y with answer := some (y.answerOf 2) }) hset
  · have hset : ∀ r : Tab Nat, Tab.get 0 (Tab.set 0 r f.vc.toNat (Tab.get 0 r f.vc.toNat + 1)) f.vc.toNat = Tab.get 0 r f.vc.toNat + 1 := fun r => by rw [Tab.get_set, if_pos rfl]
    exact hset _

/-- The flit after the next one shows a gap. -/
theorem DpxSub.dataFlit_of_gap {d : DpxSub} {b : Nat} {f : Flit} (hseq : f.seq.toNat = ((d.bnd b).rxNext + 1) % 4096) :
    d.dataFlit b f = d.answer b 3 := by
  have hahead : (f.seq.toNat + 4096 - (d.bnd b).rxNext % 4096) % 4096 = 1 := by omega
  simp only [DpxSub.dataFlit, hahead, Nat.one_ne_zero, if_false, Nat.one_lt_ofNat, if_true]

/-! ### Replays and bundles (R741, R742) -/

theorem DpxSub.again_of_nil {d : DpxSub} {b : Nat} (h : (d.bnd b).unacked = []) : d.again b = d := by
  simp only [DpxSub.again, h, List.isEmpty_nil, if_true]

theorem DpxSub.again_of_ne {d : DpxSub} {b : Nat} (h : (d.bnd b).unacked ≠ []) : d.again b =
    { d.setBnd b { d.bnd b with replays := (d.bnd b).replays + 1 } with replay := satTo 65535 (d.replay + (d.bnd b).unacked.length) } := by
  have hne : (d.bnd b).unacked.isEmpty = false := by simpa using h
  simp only [DpxSub.again, hne, Bool.false_eq_true, if_false]

section
variable {s : State} {b : Nat} (hb : b < 2)
include hb

theorem exec_flitReplayTimeout (hup : (s.dpx.bnd b).st = 2) : exec (.flitReplayTimeout b) s = .next { s with dpx := s.dpx.again b } := by
  change execFlitReplayTimeout b s = _
  simp [execFlitReplayTimeout, hb, hup]

theorem exec_bundleRetrain (hup : (s.dpx.bnd b).st = 2) (hr : 8 ≤ (s.dpx.bnd b).replays) : exec (.bundleRetrain b) s =
    .next (({ s with dpx := s.dpx.setBnd b { s.dpx.bnd b with st := 1, replays := 0 } } : State).report (1128 + b) (pay 0)) := by
  change execBundleRetrain b s = _
  have hgo : (decide (2 ≤ b) || decide ((s.dpx.bnd b).st ≠ 2) || decide ((s.dpx.bnd b).replays < 8)) = false := by simp [hb, hup, hr]
  simp only [execBundleRetrain, hgo, Bool.false_eq_true, if_false]
  rfl

variable (hlink : s.dpx.linked = true)
include hlink

theorem exec_bundleDownTimeout : exec (.bundleDownTimeout b) s =
    .next (State.twinPump { ({ s with dpx := s.dpx.setBnd b { s.dpx.bnd b with st := 0 } } : State).report (1128 + b) (pay 1) with
      dpx := (({ s with dpx := s.dpx.setBnd b { s.dpx.bnd b with st := 0 } } : State).report (1128 + b) (pay 1)).dpx.moveOver b }) := by
  change execBundleDownTimeout b s = _
  have hgo : (decide (2 ≤ b) || !s.dpx.linked) = false := by simp [hb, hlink]
  simp only [execBundleDownTimeout, hgo, Bool.false_eq_true, if_false]
  rfl

theorem exec_bundleTrained (hdown : (s.dpx.bnd b).st ≠ 2) : exec (.bundleTrained b) s =
    .next (State.twinPump { s with dpx := { s.dpx.setBnd b { s.dpx.bnd b with st := 2, moved := false, replays := 0 } with linkLost := false, paused := false, hbin := true } }) := by
  change execBundleTrained b s = _
  have hgo : (decide (2 ≤ b) || !s.dpx.linked || decide ((s.dpx.bnd b).st = 2)) = false := by simp [hb, hlink, hdown]
  simp only [execBundleTrained, hgo, Bool.false_eq_true, if_false]

end

/-- Settles O52: a flit by whether it is whole and in order, the replay of what is not acknowledged, and a bundle that retrains, stays down and comes up. -/
theorem theTwinLinkDelivers : Obligations.TheTwinLinkDelivers := by
  unfold Obligations.TheTwinLinkDelivers
  intro s b f d x reply again downs hb
  refine ⟨fun hup => ⟨exec_twinFlitReceived_of_damaged hb hup, fun ht ha _ hseq => ?taken, fun ht ha _ hseq => ?gap,
      fun hnil => (exec_flitReplayTimeout hb hup).trans ?_, fun hne => (exec_flitReplayTimeout hb hup).trans ?_, exec_bundleRetrain hb hup⟩,
    fun hlink => ⟨exec_bundleDownTimeout hb hlink, exec_bundleTrained hb hlink⟩⟩
  case taken =>
    obtain ⟨hbnd, howed, hcredit⟩ := DpxSub.dataFlit_of_next (d := d.setCredit f.crvc.toNat (Nat.min (vcBuffer f.crvc.toNat) (d.credit f.crvc.toNat + f.crcnt.toNat))) hseq
    exact ⟨_, exec_twinFlitReceived_of_data hb hup ht ha, hbnd, howed, (hcredit _).trans (d.credit_setCredit_self _ _)⟩
  case gap =>
    have hgap := DpxSub.dataFlit_of_gap (d := d.setCredit f.crvc.toNat (Nat.min (vcBuffer f.crvc.toNat) (d.credit f.crvc.toNat + f.crcnt.toNat))) hseq
    exact ⟨_, exec_twinFlitReceived_of_data hb hup ht ha, (congrArg (DpxSub.bnd · b) hgap).trans (DpxSub.bnd_answer _ b 3)⟩
  · rw [DpxSub.again_of_nil hnil]
  · rw [DpxSub.again_of_ne hne]

end Sys2Proof.Machine
end


section
/-! PROOFS. Duplex pairs (16 R744 to R768): marks and batches, agreed inputs, the loss of the peer, skew, re-pairing, and the duplex commands. -/

namespace Sys2Proof.Machine

open Host

/-! ### Marks and compared batches (R748, R749, R752) -/

section
variable {s : State}

theorem exec_batchMark_of_due (hp : s.dpx.st = .paired) (hl : s.dpx.leadSt = true) (hs : s.moduleStopped = false) (hm : s.dpx.marked = false) :
    exec .batchMark s = .next s.batchMark := by
  change execBatchMark s = _
  simp only [execBatchMark, State.markDue, hp, hl, hs, hm, decide_true, Bool.not_false, Bool.and_true, if_true]

theorem exec_batchMark_of_marked (hm : s.dpx.marked = true) : exec .batchMark s = .next s := by
  change execBatchMark s = _
  simp only [execBatchMark, State.markDue, hm, Bool.not_true, Bool.and_false, Bool.false_and, Bool.false_eq_true, if_false]

/-- The oldest batch that is not compared yet has been sent. -/
def State.batchSent (s : State) : State :=
  { s.transmit (s.dpx.marks - s.dpx.lag) with
    dpx := ({ (s.transmit (s.dpx.marks - s.dpx.lag)).dpx with sent := (s.transmit (s.dpx.marks - s.dpx.lag)).dpx.sent + 1 } : DpxSub).setLag
      ((s.transmit (s.dpx.marks - s.dpx.lag)).dpx.lag - 1) }

/-- What transmitting makes of a single output that waits: it leaves when its batch is old enough and its port is not the peer's. -/
theorem State.transmit_single {n lp k : Nat} {bs : List Byte} (h : s.dpx.outs = [(n, lp, bs)]) :
    (s.transmit k).chan.tx = (if n ≤ k ∧ s.peerPort lp = false then Tab.set [] s.chan.tx lp bs else s.chan.tx)
    ∧ (s.transmit k).dpx.outs = (if n ≤ k then [] else s.dpx.outs) := by
  unfold State.transmit
  rw [h]
  by_cases hn : n ≤ k
  · cases hport : s.peerPort lp <;> simp [hn, hport, State.emit]
  · simp [hn]

variable (hp : s.dpx.st = .paired)
include hp

theorem exec_batchCompare_of_same (own peer : Bool) : exec (.batchCompare true own peer) s = .next s.batchSent := by
  change execBatchCompare true own peer s = _
  simp only [execBatchCompare, hp, ne_eq, not_true_eq_false, if_false, if_true]
  rfl

/-- In a batch that differs, the side that took a report is suspect; when both or none did, the follower is. -/
theorem exec_batchCompare_of_suspect {own peer : Bool} (h : (if own ≠ peer then own else !s.dpx.leadSt) = true) :
    exec (.batchCompare false own peer) s = .next (s.report 1130 (pay 4)) := by
  change execBatchCompare false own peer s = _
  simp only [execBatchCompare, hp, h, ne_eq, not_true_eq_false, Bool.false_eq_true, if_false, if_true]
  rfl

theorem exec_batchCompare_of_trusted {own peer : Bool} (h : (if own ≠ peer then own else !s.dpx.leadSt) = false) :
    exec (.batchCompare false own peer) s = .next (s.report 1130 (pay 1)).survive := by
  change execBatchCompare false own peer s = _
  simp only [execBatchCompare, hp, h, ne_eq, not_true_eq_false, Bool.false_eq_true, if_false]
  rfl

/-! ### The loss of the link and of the heartbeat (R753, R755) -/

/-- Both bundles are down, and the peer's heartbeat has been looked at. -/
def DpxSub.lost (d : DpxSub) (beat : Bool) : DpxSub :=
  { (d.setBnd 0 { d.bnd 0 with st := 0 }).setBnd 1 { (d.setBnd 0 { d.bnd 0 with st := 0 }).bnd 1 with st := 0 } with linkLost := true, hbin := beat }

section
variable (hs : s.moduleStopped = false)
include hs

theorem exec_twinLinkLoss_of_paired (beat : Bool) : exec (.twinLinkLoss beat) s =
    .next (if beat = false then State.survive { s with dpx := s.dpx.lost beat } else if s.dpx.leadSt = false then State.fenceModule { s with dpx := s.dpx.lost beat }
      else { s with dpx := s.dpx.lost beat }) := by
  change execTwinLinkLoss beat s = _
  have hgo : (!s.dpx.linked || s.moduleStopped) = false := by simp [DpxSub.linked, hp, hs]
  cases beat <;> cases hl : s.dpx.leadSt <;>
    simp only [execTwinLinkLoss, hgo, hp, hl, Bool.not_true, Bool.not_false, Bool.false_eq_true, Bool.true_eq_false, if_false, if_true] <;> rfl

theorem exec_heartbeatLoss_of_lost (hlost : s.dpx.linkLost = true) : exec .heartbeatLoss s = .next (State.survive { s with dpx := { s.dpx with hbin := false } }) := by
  change execHeartbeatLoss s = _
  have hgo : (!s.dpx.linked || s.moduleStopped) = false := by simp [DpxSub.linked, hp, hs]
  simp only [execHeartbeatLoss, hgo, hp, hlost, Bool.false_eq_true, if_false, if_true]

end

theorem exec_followerHeartbeatPersists (hl : s.dpx.leadSt = true) (hlost : s.dpx.linkLost = true) (hb : s.dpx.hbin = true) :
    exec .followerHeartbeatPersists s = .next s.stopModule := by
  change execFollowerHeartbeatPersists s = _
  simp only [execFollowerHeartbeatPersists, hp, hl, hlost, hb, decide_true, Bool.and_true, if_true]

/-! ### Mixed firmware (R766) -/

section
variable (hm : s.mixed = true)
include hm

theorem exec_mixedVersionWarning : exec .mixedVersionWarning s = .next (s.report 1131 (pay 1)) := by
  change execMixedVersionWarning s = _
  simp only [execMixedVersionWarning, hm, hp, decide_true, Bool.true_or, Bool.true_and, if_true]
  rfl

theorem exec_mixedVersionLimit : exec .mixedVersionLimit s = .next (if s.dpx.leadSt then s.survive else s.fenceModule) := by
  change execMixedVersionLimit s = _
  simp only [execMixedVersionLimit, hm, hp, ne_eq, not_true_eq_false, decide_false, Bool.not_true, Bool.or_self, Bool.false_eq_true, if_false]

end
end

/-! ### Agreed inputs (R749) -/

section
variable {s : State} {k t0 : Nat} {i : AgreedIn} (hk : s.dpx.inputs[k]? = some (t0, i)) (hs : s.moduleStopped = false)
include hk hs

theorem exec_agreedInputDelivery_of_ripe (ht : t0 + 2 ≤ s.time.ticks) : exec (.agreedInputDelivery k) s =
    .next (({ s with dpx := { s.dpx with inputs := (s.dpx.inputs.eraseIdx k).map (fun x => (x.1, i.after x.2)) } } : State).applyInput i) := by
  change execAgreedInputDelivery k s = _
  have hgo : (s.moduleStopped || decide (s.time.ticks < t0 + 2)) = false := by simp [hs, ht]
  simp only [execAgreedInputDelivery, hk, hgo, Bool.false_eq_true, if_false]

theorem exec_agreedInputDelivery_of_fresh (ht : s.time.ticks < t0 + 2) : exec (.agreedInputDelivery k) s = .next s := by
  change execAgreedInputDelivery k s = _
  simp only [execAgreedInputDelivery, hk, hs, ht, decide_true, Bool.or_true, if_true]

end

/-! ### Skew (R744) -/

/-- Half of an even difference needs no rounding. -/
theorem halfOf_of_even {x : Int} (h : x % 2 = 0) (up : Bool) : halfOf x up = x / 2 := by
  cases up
  · rfl
  · simp only [halfOf, if_true]
    omega

/-- A delay that its field can hold is kept as it is. -/
theorem toNat_ofInt_satInt {x : Int} (h0 : 0 ≤ x) (h1 : x ≤ 65535) : ((BitVec.ofInt 16 (satInt 0 65535 x)).toNat : Int) = x := by
  have hsat : satInt 0 65535 x = x := by
    rw [satInt, min_eq_right h1, max_eq_right h0]
  rw [hsat, BitVec.toNat_ofInt]
  omega

theorem exec_skewProbe_of_even {s : State} {t1 t2 t3 t4 : Int} (hlink : s.dpx.linked = true) (hlock : s.time.lock = false) (hoff : (t2 - t1) - (t4 - t3) = 0)
    (h0 : 0 ≤ (t4 - t1) - (t3 - t2)) (h1 : (t4 - t1) - (t3 - t2) ≤ 131070) (heven : ((t4 - t1) - (t3 - t2)) % 2 = 0) :
    ∃ u, exec (.skewProbe t1 t2 t3 t4) s = .next u ∧ u.dpx.offset = 0 ∧ (u.dpx.delay.toNat : Int) * 2 = (t4 - t1) - (t3 - t2) ∧ u.dpx.bigOff = 0 := by
  change ∃ u, execSkewProbe t1 t2 t3 t4 s = .next u ∧ _
  simp only [execSkewProbe, hlink, hlock, hoff, halfOf_of_even heven, halfOf_of_even (x := 0) rfl, Bool.not_true, Bool.false_and, Bool.false_eq_true, if_false, OfNat.zero_ne_ofNat]
  refine ⟨_, rfl, rfl, ?_, rfl⟩
  rw [toNat_ofInt_satInt (by omega) (by omega)]
  omega

/-! ### Re-pairing (R761 to R763) -/

section
variable {s : State} (hp : s.dpx.st = .repair) (hgo : s.dpx.paused = false) (hs : s.moduleStopped = false) (hup : s.dpx.bnds.any (fun e => e.2.st = 2) = true)
include hp hgo hs hup

theorem exec_repairCopyStep_of_due (he : s.time.atEpoch = true) (hc : s.dpx.copied = false) : exec .repairCopyStep s = .next s.repairCopy := by
  change execRepairCopyStep s = _
  have hdue : s.copyDue = true := by simp only [State.copyDue, hp, hgo, hs, hup, he, hc, decide_true, Bool.not_false, Bool.and_true]
  rw [execRepairCopyStep, hdue, if_pos rfl]

variable (hend : s.copyEnd ≤ s.dpx.cursor) (hmap : s.dpx.bitmap = [])
include hend hmap

/-- Every line has been copied: the cores that run are asked to halt. -/
theorem exec_repairHandover_of_running (he : s.time.atEpoch = true) (hr : s.coresIn .running ≠ []) : exec .repairHandover s =
    .next ((s.coresIn .running).foldl (fun t l => t.modCore l (fun c => c.askHalt 0)) s) := by
  change execRepairHandover s = _
  have hrun : (s.coresIn .running).isEmpty = false := by simpa using hr
  have hcopied : (decide (s.dpx.cursor < s.copyEnd) || !s.dpx.bitmap.isEmpty) = false := by simp [hend, hmap]
  simp only [execRepairHandover, hup, hs, hgo, he, hp, hcopied, hrun, Bool.not_true, Bool.not_false, Bool.false_and, Bool.or_self, Bool.false_eq_true, if_false, if_true]

/-- The state that the survivor hands over: no halt is asked, no line is dirty, and every open entry counts as mirrored. -/
def State.handedOver (s : State) : State :=
  s.endHandover.cleanAll.openLeds.foldl (fun t l => t.setLed l { t.led l with mirrored := true }) s.endHandover.cleanAll

/-- Once no core runs, the survivor goes on as the leader of a pair. -/
theorem exec_repairHandover_of_halted (hat : s.time.atEpoch = true ∨ s.coresIn .halted ≠ []) (hr : s.coresIn .running = []) : exec .repairHandover s =
    .next ((State.askEntropy { s.handedOver with dpx := { s.handedOver.dpx with st := .paired, leadSt := true, bitmap := [], lag := 0, frozen := false, hbOut := true } }).report
      1131 (pay 0)) := by
  change execRepairHandover s = _
  have hcopied : (decide (s.dpx.cursor < s.copyEnd) || !s.dpx.bitmap.isEmpty) = false := by simp [hend, hmap]
  have hopen : (!s.time.atEpoch && (s.coresIn .halted).isEmpty) = false := by
    rcases hat with he | hh
    · rw [he]; rfl
    · have hne : (s.coresIn .halted).isEmpty = false := by simpa using hh
      rw [hne, Bool.and_false]
  simp only [execRepairHandover, hup, hs, hgo, hopen, hp, hcopied, hr, List.isEmpty_nil, Bool.not_true, Bool.or_self, Bool.false_eq_true, if_false, if_true]
  rfl

end

/-! ### The duplex commands (R758 to R760, R765, R768) -/

section
variable {s : State} {m : Nat}

theorem exec_dpxPair_of_standalone (h : s.runs m 0x0801 = true) (hst : s.dpx.st = .standalone) : exec (.dpxPair m) s =
    .next (if s.time.unsync = true then s.mbDone m 0x0801 [] else if s.pairable (decide (s.mbP m 0 1 = 1)) = true
      then s.startPairing m (decide (s.mbP m 0 1 = 1)) (decide (s.mbP m 0 1 ≠ 1 ∧ s.dpx.peerSimplex = false)) else s.mbDone m 0x0802 []) := by
  change execDpxPair m s = _
  have hlead : (!decide (s.mbP m 0 1 = 1) && !s.dpx.peerSimplex) = decide (s.mbP m 0 1 ≠ 1 ∧ s.dpx.peerSimplex = false) := by
    cases s.dpx.peerSimplex <;> simp
  cases hpair : s.pairable (decide (s.mbP m 0 1 = 1)) <;>
    simp only [execDpxPair, h, hst, hlead, hpair, reduceCtorEq, decide_false, Bool.false_and, ne_eq, not_true_eq_false, Bool.not_true, Bool.not_false, Bool.or_true, Bool.or_false,
      Bool.false_eq_true, if_false, if_true] <;> rfl

theorem exec_dpxStatus_of_sideA (h : s.runs m 0x0802 = true) (hst : s.dpx.st ≠ .standalone) (hb : s.dpx.sideB = false) : exec (.dpxStatus m) s =
    .next (({ s with freeCtr := s.freeCtr + 1 } : State).mbDone m 0 (leBytes 1 s.dpx.st.code ++ [0] ++ leBytes 2 (256 * s.pup.filmaj + s.pup.filmin)
      ++ leBytes 2 (2304 + s.dpx.peerFil) ++ [0, 0] ++ leBytes 8 s.dpx.cursor)) := by
  change execDpxStatus m s = _
  simp only [execDpxStatus, h, hst, hb, Bool.not_true, Bool.false_eq_true, if_false]
  rfl

theorem exec_dpxRepair_of_simplex (h : s.runs m 0x0803 = true) (hst : s.dpx.st = .simplex) : exec (.dpxRepair m) s = .next (s.startPairing m s.dpx.sideB true) := by
  change execDpxRepair m s = _
  simp only [execDpxRepair, h, hst, reduceCtorEq, decide_false, Bool.false_and, ne_eq, not_true_eq_false, Bool.not_true, Bool.false_eq_true, if_false]

theorem exec_dpxRepair_of_paired (h : s.runs m 0x0803 = true) (hst : s.dpx.st = .paired) : exec (.dpxRepair m) s = .next (s.mbDone m 0x0802 []) := by
  change execDpxRepair m s = _
  simp only [execDpxRepair, h, hst, ne_eq, reduceCtorEq, not_false_eq_true, decide_false, Bool.false_and, Bool.not_true, Bool.false_eq_true, if_false, if_true]
  rfl

theorem exec_dpxUnpair_of_follower (h : s.runs m 0x0804 = true) (hl : s.dpx.leadSt = false) : exec (.dpxUnpair m) s = .next (s.mbDone m 0x0802 []) := by
  change execDpxUnpair m s = _
  simp only [execDpxUnpair, h, hl, Bool.not_true, Bool.not_false, Bool.true_or, Bool.false_eq_true, if_false, if_true]
  rfl

/-- The end of a hand-over concerns cores alone. -/
theorem State.endHandover_pup (t : State) : t.endHandover.pup = t.pup := by
  rw [State.endHandover]
  exact foldl_keeps State.pup _ (by intros; rfl) _ _

/-- A survivor that unpairs stands alone again, at its own level. -/
theorem exec_dpxUnpair_of_simplex (h : s.runs m 0x0804 = true) (hl : s.dpx.leadSt = true) (hst : s.dpx.st = .simplex) :
    ∃ u, exec (.dpxUnpair m) s = .next ((State.report u 1131 (pay 0)).mbDone m 0 []) ∧ u.dpx.st = .standalone ∧ u.dpx.leadSt = false
      ∧ u.inst.keepFull = true ∧ u.pup.effmin = s.pup.filmin := by
  change ∃ u, execDpxUnpair m s = .next _ ∧ _
  simp only [execDpxUnpair, h, hl, hst, reduceCtorEq, decide_false, decide_true, Bool.false_or, Bool.or_false, Bool.not_true, Bool.false_eq_true, if_false]
  exact ⟨_, rfl, rfl, rfl, rfl, congrArg PupSub.filmin s.endHandover_pup⟩

theorem exec_raiseLevel_of_alone (h : s.runs m 0x0805 = true) (hst : s.dpx.st ≠ .paired) : exec (.raiseLevel m) s = .next (s.mbDone m 0x0802 []) := by
  change execRaiseLevel m s = _
  simp only [execRaiseLevel, h, hst, ne_eq, not_false_eq_true, Bool.not_true, Bool.false_eq_true, if_false, if_true]
  rfl

theorem exec_raiseLevel_of_mixed (h : s.runs m 0x0805 = true) (hst : s.dpx.st = .paired) (hm : s.mixed = true) : exec (.raiseLevel m) s = .next (s.mbDone m 0x0803 []) := by
  change execRaiseLevel m s = _
  simp only [execRaiseLevel, h, hst, hm, ne_eq, not_true_eq_false, Bool.not_true, Bool.true_or, Bool.false_eq_true, if_false, if_true]
  rfl

theorem exec_raiseLevel_of_fit (h : s.runs m 0x0805 = true) (hst : s.dpx.st = .paired) (hm : s.mixed = false) (hown : s.mbP m 0 2 ≤ 256 * s.pup.filmaj + s.pup.filmin)
    (hpeer : s.mbP m 0 2 ≤ 2304 + s.dpx.peerFil) (heff : 256 * s.pup.effmaj + s.pup.effmin ≤ s.mbP m 0 2) : exec (.raiseLevel m) s =
    .next (({ s with pup := { s.pup with effmaj := s.mbP m 0 2 / 256, effmin := s.mbP m 0 2 % 256 } } : State).mbDone m 0 []) := by
  change execRaiseLevel m s = _
  have hgo : (s.mixed || decide (256 * s.pup.filmaj + s.pup.filmin < s.mbP m 0 2) || decide (9 * 256 + s.dpx.peerFil < s.mbP m 0 2)
      || decide (s.mbP m 0 2 < 256 * s.pup.effmaj + s.pup.effmin)) = false := by
    simp [hm, hown, hpeer, heff]
  simp only [execRaiseLevel, h, hst, hgo, ne_eq, not_true_eq_false, Bool.not_true, Bool.false_eq_true, if_false]
  rfl

end

/-- Settles O53: marks, batches, the loss of the peer, agreed inputs, skew, re-pairing, mixed firmware, and the duplex commands.
What decides the places left open by 16 (log entries 106, 108, 109, 189 and 190) is the model's choice. -/
theorem duplexPairsRun : Obligations.DuplexPairsRun := by
  unfold Obligations.DuplexPairsRun
  intro s m k i t0 t1 t2 t3 t4 same ue d f sent lost own freed copied
  refine ⟨fun hp => ⟨fun hl hs => ⟨exec_batchMark_of_due hp hl hs, exec_batchMark_of_marked⟩, exec_batchCompare_of_same hp ue same, fun n lp bs houts => ?outs,
      exec_batchCompare_of_suspect hp rfl, exec_batchCompare_of_trusted hp rfl, fun hl => exec_batchCompare_of_trusted hp ((if_neg fun hne => hne rfl).trans (congrArg not hl)),
      fun hl => exec_batchCompare_of_suspect hp ((if_neg fun hne => hne rfl).trans (congrArg not hl)), fun hs => ?loss, exec_followerHeartbeatPersists hp,
      fun hm => ⟨exec_mixedVersionWarning hp hm, exec_mixedVersionLimit hp hm⟩⟩,
    fun hk hs => ⟨exec_agreedInputDelivery_of_ripe hk hs, exec_agreedInputDelivery_of_fresh hk hs⟩, exec_skewProbe_of_even,
    fun hp hgo hs hup => ⟨fun he hc => ?copy, fun he hend hmap hr => exec_repairHandover_of_running hp hgo hs hup hend hmap he hr,
      fun hat hend hmap hr => exec_repairHandover_of_halted hp hgo hs hup hend hmap hat hr⟩,
    exec_dpxPair_of_standalone, exec_dpxStatus_of_sideA, fun h => ⟨exec_dpxRepair_of_simplex h, exec_dpxRepair_of_paired h⟩,
    fun h => ⟨exec_dpxUnpair_of_follower h, exec_dpxUnpair_of_simplex h⟩,
    fun h => ⟨exec_raiseLevel_of_alone h, exec_raiseLevel_of_fit h, exec_raiseLevel_of_mixed h⟩⟩
  case outs =>
    obtain ⟨htx, hleft⟩ := State.transmit_single (k := d.marks - d.lag) houts
    exact ⟨s.batchSent, exec_batchCompare_of_same hp ue same, htx, hleft⟩
  case loss =>
    have hloss := exec_twinLinkLoss_of_paired hp hs ue
    refine ⟨fun hbeat => hloss.trans ?_, fun hbeat hl => hloss.trans ?_, fun hbeat hl => hloss.trans ?_, exec_heartbeatLoss_of_lost hp hs⟩
    · rw [if_pos hbeat]; rfl
    · rw [if_neg (by simp [hbeat]), if_pos hl]; rfl
    · rw [if_neg (by simp [hbeat]), if_neg (Bool.ne_false_iff.mpr hl)]; rfl
  case copy =>
    have hcopy := exec_repairCopyStep_of_due hp hgo hs hup he hc
    exact ⟨fun hmore => hcopy.trans (congrArg _ (if_pos hmore)), fun hend => hcopy.trans (congrArg _ (if_neg hend.not_gt))⟩

end Sys2Proof.Machine
end


section
/-! PROOFS. Power, the two resets, bring-up and the thermal pins (18 R789 to R809). -/

namespace Sys2Proof.Machine

/-! ### Rails and the wake latch (R790 to R794) -/

section
variable {s : State} {j : Nat}

theorem exec_railGood_of_others (h : s.pwr.badRails.filter (· ≠ j) ≠ []) :
    exec (.railGood j) s = .next { s with pwr := { s.pwr with badRails := s.pwr.badRails.filter (· ≠ j) } } := by
  change execRailGood j s = _
  have hmore : (s.pwr.badRails.filter (· ≠ j)).isEmpty = false := by rw [List.isEmpty_eq_false_iff]; exact h
  simp only [execRailGood, hmore, Bool.not_false, if_true]

theorem exec_railGood_of_last (h : s.pwr.badRails.filter (· ≠ j) = []) (hc : s.pwr.coldLow = false) (hw : s.pwr.warmLow = false) (hf : s.pwr.faulted = false)
    (hs : s.moduleStopped = false) : exec (.railGood j) s = .next { s with pwr := { s.pwr with badRails := [], wake := false, pwrReq := false, safe := false } } := by
  change execRailGood j s = _
  have hsafe : ∀ bad, (!({ s.pwr with badRails := bad } : PwrSt).released || s.pwr.faulted || s.moduleStopped) = false := fun bad => by
    simp only [PwrSt.released, hc, hw, hf, hs, Bool.not_false, Bool.and_self, Bool.not_true, Bool.or_self]
  simp only [execRailGood, h, hsafe, List.isEmpty_nil, Bool.not_true, Bool.false_eq_true, if_false]

/-- Rail j has failed while nothing had. -/
def State.railFailed (s : State) (j : Nat) : State := { s with pwr := { s.pwr with badRails := j :: s.pwr.badRails, safe := true, faulted := true } }

theorem exec_railFault_of_up (hj : j < 9) (h : s.pwr.badRails.contains j = false) (hc : s.pwr.coldLow = false) (hf : s.pwr.faulted = false) :
    exec (.railFault j) s = .next (if decide (j = 3) || decide (j = 8) then (s.railFailed j).stopModule else (s.railFailed j).report (1112 + j) (pay 4)) := by
  change execRailFault j s = _
  have hgo : (decide (9 ≤ j) || s.pwr.badRails.contains j) = false := by rw [h, decide_eq_false hj.not_ge]; rfl
  have hup : (s.pwr.coldLow || s.pwr.faulted) = false := by rw [hc, hf]; rfl
  unfold execRailFault
  dsimp only
  rw [hgo, hup, h, if_neg Bool.false_ne_true, if_neg Bool.false_ne_true, if_neg Bool.false_ne_true]
  rfl

theorem exec_vstbyLoss_of_good (h : s.pwr.badRails = []) : exec .vstbyLoss s =
    .next (({ s with pwr := { s.pwr with badRails := 9 :: s.pwr.badRails, wake := false, pwrReq := false } } : State).report 1121 (pay 1)) := by
  change execVstbyLoss s = _
  have hgood : s.pwr.allGood = true := by rw [PwrSt.allGood, h, List.isEmpty_nil]
  have hnine : s.pwr.badRails.contains 9 = false := by rw [h]; rfl
  rw [execVstbyLoss, hnine, hgood, if_neg Bool.false_ne_true, if_pos rfl]
  rfl

theorem exec_wake_of_asleep (h : s.pwr.badRails ≠ []) (h9 : s.pwr.badRails.contains 9 = false) :
    exec .wake s = .next { s with pwr := { s.pwr with wake := true, pwrReq := true } } := by
  change execWake s = _
  have hbad : s.pwr.allGood = false := by rw [PwrSt.allGood, List.isEmpty_eq_false_iff]; exact h
  simp only [execWake, hbad, h9, Bool.or_self, Bool.false_eq_true, if_false]

end

/-! ### The resets and bring-up (R797 to R804) -/

section
variable {s : State}

theorem exec_bringup_of_cold (hot : Bool) (h : s.pwr.badRails = []) (hc : s.pwr.coldLow = true) : exec (.bringup hot) s =
    .next { s with time := {}, pwr := { s.pwr with coldLow := false, warmLow := false, faulted := false, tripped := s.pwr.tripped && hot, safe := false } } := by
  change execBringup hot s = _
  have hheld : s.pwr.released = false := by rw [PwrSt.released, hc]; rfl
  have hgood : s.pwr.allGood = true := by rw [PwrSt.allGood, h, List.isEmpty_nil]
  simp only [execBringup, hheld, hgood, hc, Bool.not_true, Bool.or_self, Bool.false_eq_true, if_false, if_true]

/-- A cold reset keeps what the flash, the fuses and the devices of memory hold, and nothing else. -/
theorem exec_coldReset_keeps (s : State) : ∃ u, exec .coldReset s = .next u ∧ u.pwr.coldLow = true ∧ u.pwr.safe = true ∧ u.mem.near = [] ∧ u.cores = [] ∧ u.rind.log = []
    ∧ u.chan.led = [] ∧ u.time = {} ∧ u.inst = {} ∧ u.eng = {} ∧ u.fuse = s.fuse ∧ u.mem.far = s.mem.far ∧ u.mem.committed = s.mem.committed ∧ u.pup.imgA = s.pup.imgA
    ∧ u.pup.imgB = s.pup.imgB ∧ u.pup.active = s.pup.active ∧ u.pup.st = .boot ∧ u.pending = s.pending :=
  ⟨_, rfl, rfl, rfl, rfl, rfl, rfl, rfl, rfl, rfl, rfl, rfl, rfl, rfl, rfl, rfl, rfl, rfl, rfl⟩

/-- A warm reset after near memory has been trained keeps near memory, the Rind log and the numbers of the ledger entries as well. -/
theorem exec_warmReset_keeps (h : s.pwr.badRails = []) (hc : s.pwr.coldLow = false) (ht : s.mem.trained = true) :
    ∃ u, exec .warmReset s = .next u ∧ u.pwr.warmLow = true ∧ u.pwr.selfRefresh = true ∧ u.mem.near = s.mem.near ∧ u.mem.far = s.mem.far ∧ u.rind.log = s.rind.log ∧ u.cores = []
      ∧ u.chan.led.map (·.1) = s.chan.led.map (·.1) ∧ u.perf.seq = s.perf.seq ∧ u.time = {} ∧ u.inst = {} ∧ u.pup.st = .boot ∧ u.fuse = s.fuse := by
  change ∃ u, execWarmReset s = .next u ∧ _
  have hgo : (!s.pwr.allGood || s.pwr.coldLow) = false := by rw [PwrSt.allGood, h, hc]; rfl
  simp only [execWarmReset, hgo, ht, Bool.not_true, Bool.false_eq_true, if_false, if_true]
  refine ⟨_, rfl, rfl, rfl, rfl, rfl, rfl, rfl, ?_, rfl, rfl, rfl, rfl, rfl⟩
  rw [List.map_map]
  rfl

end

/-! ### The training of near memory (R804, R805) -/

/-- An entry at or above the bound is in a table when it is in the table without the entries below. -/
theorem Tab.get_filter_ge {α : Type} (d : α) (top a : Nat) : ∀ r : Tab α, Tab.get d (r.filter (fun e => decide (top ≤ e.1))) a = if a < top then d else Tab.get d r a
  | [] => by simp [Tab.get]
  | (k, v) :: t => by
    have ih := Tab.get_filter_ge d top a t
    by_cases hka : k = a
    · by_cases hk : top ≤ k
      · rw [List.filter_cons_of_pos (by simpa using hk), if_neg (by omega)]
        simp only [Tab.get, hka, if_true]
      · rw [List.filter_cons_of_neg (by simpa using hk), ih, if_pos (by omega), if_pos (by omega)]
    · have hskip : ∀ u : Tab α, Tab.get d ((k, v) :: u) a = Tab.get d u a := fun u => by simp only [Tab.get, hka, if_false]
      rw [List.filter_cons, hskip]
      split
      · rw [hskip, ih]
      · exact ih

/-- What a table of entries below a bound, followed by one whose entries below it are left out, holds. -/
theorem Tab.get_append_filter_ge {α : Type} (d : α) (top a : Nat) (r : Tab α) : ∀ m : Tab α, (∀ e ∈ m, e.1 < top) →
    Tab.get d (m ++ r.filter (fun e => decide (top ≤ e.1))) a = if a < top then Tab.get d m a else Tab.get d r a
  | [], _ => Tab.get_filter_ge d top a r
  | (k, v) :: m, h => by
    have hk : k < top := h _ List.mem_cons_self
    have ih := Tab.get_append_filter_ge d top a r m fun e he => h e (List.mem_cons_of_mem _ he)
    by_cases ha : k = a
    · rw [if_pos (ha ▸ hk)]
      simp only [List.cons_append, Tab.get, ha, if_true]
    · simp only [List.cons_append, Tab.get, ha, if_false, ih]

/-- The host loader stands in the first MiB, with zeros after it; the rest of near memory stays. -/
theorem MemSt.get_near_loadHost (m : MemSt) {loader : List Byte} (hl : loader.length ≤ 2 ^ 20) (a : Nat) :
    Tab.get 0 (m.loadHost loader).near a = if a < 2 ^ 20 then loader.getD a 0 else Tab.get 0 m.near a := by
  have hkeys : ∀ e ∈ Tab.setMany 0 [] 0 loader, e.1 < 2 ^ 20 := by
    have hall := Tab.all_setMany (fun k => decide (k < 2 ^ 20)) loader [] 0 (fun k hk => by rw [decide_eq_true_eq]; omega) rfl
    exact fun e he => of_decide_eq_true (List.all_eq_true.mp hall e he)
  have hnear : (m.loadHost loader).near = Tab.setMany 0 [] 0 loader ++ m.near.filter (fun e => decide (2 ^ 20 ≤ e.1)) := by
    rw [MemSt.loadHost, List.take_of_length_le hl]
  rw [hnear, Tab.get_append_filter_ge _ _ _ _ _ hkeys, Tab.get_setMany]
  congr 1
  by_cases ha : a < loader.length
  · rw [if_pos ⟨a.zero_le, by omega⟩, Nat.sub_zero]
  · rw [if_neg (by omega), List.getD_eq_default _ _ (by omega)]
    rfl

/-- One core of the part starts. -/
def State.startSlot (t : State) (n : Nat) : State := if t.slotExists n then t.setCore (2 * n) { run := .running } else t

theorem State.startCores_eq (s : State) : s.startCores = (List.range 64).foldl State.startSlot s := rfl

/-- What does not depend on the cores stays as a core starts. -/
theorem State.startSlot_keeps {β : Type} (P : State → β) (hP : ∀ t l c, P (State.setCore t l c) = P t) (t : State) (n : Nat) : P (t.startSlot n) = P t := by
  unfold State.startSlot
  split
  · exact hP t _ _
  · rfl

theorem State.startCores_keeps {β : Type} (P : State → β) (hP : ∀ t l c, P (State.setCore t l c) = P t) (s : State) : P s.startCores = P s := by
  rw [State.startCores_eq]
  exact foldl_keeps P _ (State.startSlot_keeps P hP) _ _

/-- Every slot of the part among those started has its first core running from reset. -/
theorem State.core_startSlots (ns : List Nat) (s : State) {n : Nat} (h : s.slotExists n = true) (hn : n ∈ ns) :
    (ns.foldl State.startSlot s).core (2 * n) = { run := .running } := by
  induction ns using List.reverseRecOn with
  | nil => simp at hn
  | append_singleton ns k ih =>
    rw [List.foldl_append, List.foldl_cons, List.foldl_nil, State.startSlot]
    have hexists : ∀ x, (ns.foldl State.startSlot s).slotExists x = s.slotExists x := fun x =>
      foldl_keeps (fun t : State => t.slotExists x) _ (State.startSlot_keeps (fun t : State => t.slotExists x) (by intros; rfl)) _ _
    rw [hexists]
    by_cases hk : n = k
    · subst hk
      rw [if_pos h, State.core_setCore_self]
    · have hmem : n ∈ ns := by simpa [hk] using hn
      split
      · rw [State.core_setCore_ne _ (2 * k) (2 * n) _ (by omega), ih hmem]
      · exact ih hmem

/-- Near memory has been trained, and the loader written. -/
def State.nearTrained (s : State) (loader : List Byte) : State :=
  { s.draw.2 with
    mem := { s.mem.loadHost loader with trained := true, scrubOn := true, scrubPh := 0, scrubbed := List.range 8, cursor := [], passes := 0 }
    pup := { s.pup with st := .serving, maint := s.pup.cold }
    pwr := { s.pwr with selfRefresh := false, warmValid := true, vddCore := 600 + s.draw.1.toNat % 301 } }

theorem exec_nearMemoryTrained_of_sound {s : State} (loader : List Byte) (hst : s.pup.st = .bringup) (ht : s.mem.trained = false) (hc : s.pwr.coldLow = false)
    (hw : s.pwr.warmLow = false) (hs : s.moduleStopped = false) : exec (.nearMemoryTrained [] loader) s = .next (s.nearTrained loader).startCores := by
  change execNearMemoryTrained [] loader s = _
  have hup : (decide (s.pup.st ≠ .bringup) || s.mem.trained || !s.pwr.released || s.moduleStopped) = false := by
    simp only [PwrSt.released, hst, ht, hc, hw, hs, ne_eq, not_true_eq_false, decide_false, Bool.not_false, Bool.and_self, Bool.not_true, Bool.or_self]
  unfold execNearMemoryTrained
  dsimp only [List.filter_nil, List.foldl_nil]
  rw [if_neg (Bool.eq_false_iff.mp hup), if_neg (Bool.eq_false_iff.mp hs)]
  rfl

/-! ### Temperature (R809) -/

theorem exec_thermalWarning_of_cool {s : State} (chip deg : Nat) (h : s.pwr.therm = false) : exec (.thermalWarning chip deg) s =
    .next (({ s with pwr := { s.pwr with therm := true } } : State).report 1122 { pay 1 with synd := BitVec.ofNat 128 (chip % 256 + deg % 65536 * 256) }) := by
  change execThermalWarning chip deg s = _
  rw [execThermalWarning, h, if_neg Bool.false_ne_true]
  rfl

theorem exec_thermalTrip_of_untripped {s : State} (chip deg : Nat) (h : s.pwr.tripped = false) : exec (.thermalTrip chip deg) s =
    .next (({ s with pwr := { s.pwr with tripped := true } } : State).report 1123 { pay 4 with synd := BitVec.ofNat 128 (chip % 256 + deg % 65536 * 256) }) := by
  change execThermalTrip chip deg s = _
  rw [execThermalTrip, h, if_neg Bool.false_ne_true]
  rfl

/-- Settles O54: rails, standby and wake, the two resets, bring-up, the training of near memory, and the thermal pins.
What a warm reset keeps of the counters and a cold one of far memory (log entries 110, 112 and 113) is the model's choice. -/
theorem powerAndResets : Obligations.PowerAndResets := by
  unfold Obligations.PowerAndResets
  intro s j chip deg hot loader p bad failed low warn trip heat
  refine ⟨exec_railGood_of_others, exec_railGood_of_last,
    fun hj h hc hf => ⟨fun h3 h8 => (exec_railFault_of_up hj h hc hf).trans (congrArg _ (if_neg (by simp [h3, h8]))), fun h38 => (exec_railFault_of_up hj h hc hf).trans (congrArg _ (if_pos (by simpa using h38)))⟩,
    exec_vstbyLoss_of_good, exec_wake_of_asleep, exec_coldReset_keeps s, exec_warmReset_keeps, exec_bringup_of_cold hot,
    fun hst ht hc hw hs hl => ?trained, exec_thermalWarning_of_cool chip deg, rfl, exec_thermalTrip_of_untripped chip deg⟩
  case trained =>
    have hmem : (s.nearTrained loader).startCores.mem = (s.nearTrained loader).mem := State.startCores_keeps State.mem (by intros; rfl) _
    have hpup : (s.nearTrained loader).startCores.pup = (s.nearTrained loader).pup := State.startCores_keeps State.pup (by intros; rfl) _
    refine ⟨_, exec_nearMemoryTrained_of_sound loader hst ht hc hw hs, congrArg MemSt.trained hmem, congrArg MemSt.scrubOn hmem, congrArg PupSub.st hpup,
      fun a => ?_, fun n hn h64 => ?_⟩
    · rw [hmem]
      exact s.mem.get_near_loadHost hl a
    · have hcore := State.core_startSlots (List.range 64) (s.nearTrained loader) (n := n) hn (List.mem_range.mpr h64)
      rw [State.startCores_eq, hcore]
      exact ⟨rfl, rfl⟩

end Sys2Proof.Machine
end
